-- ==== Sys2Proof/Word.lean ====
section
/-!
DEFINITION. The word types of the MLV-7960 and the plain shape of its stores: a store indexed by a number is a list of
(key, value) pairs (the operations on it are in Machine/Maps.lean).
-/

namespace Sys2Proof

abbrev Byte := BitVec 8
abbrev W16 := BitVec 16
abbrev W32 := BitVec 32
abbrev W64 := BitVec 64

/-- A scalar register number, s0 to s63 (R169). -/
abbrev SReg := BitVec 6
/-- A vector register number, v0 to v31 (R169). -/
abbrev VReg := BitVec 5
/-- A predicate number, p0 to p7 (R169). -/
abbrev PReg := BitVec 3
/-- A lane mask number, m0 to m7 (R169). -/
abbrev MReg := BitVec 3
/-- A token latch number, t0 to t3 (R169). -/
abbrev LReg := BitVec 2

/-- A store indexed by a number: pairs in strictly ascending key order, none of them at the value that an unlisted
key reads as (Machine/Maps.lean says which value that is at each use). -/
abbrev Sparse (α : Type) := List (Nat × α)

end Sys2Proof
end

