-- ==== Sys2Proof/Config.lean ====
section
/-!
DEFINITION. The free values of the model: constants with no body, so that nothing can be proved of them beyond what
holds for every value, and the cryptographic functions that the spec names and does not define.
-/

namespace Sys2Proof.Config

/-- A value that the spec leaves open, by the number of the draw (notes/assumptions/5.md). -/
opaque freeWord : Nat → W64

/-- A choice that the spec leaves open, by the number of the draw (notes/assumptions/5.md, 6.md, 16.md, 17.md). -/
opaque freeBit : Nat → Bool

/-- Whether a package is in the load-store domain (R14): the host forms it, and no register lists it. -/
opaque inDomain : Nat → Bool

/-- The least TOKID registered for a launch on the other packages of its domain, none where there is none, as the reduction tree
brings it in a cycle (R347; notes/assumptions/99.md). -/
opaque freeLeast : Nat → Nat → Option Nat

/-- SHAKE256 with an output of n bytes (R424, R428, R431, R434); uninterpreted (notes/assumptions/8.md). -/
opaque shake256 : List Byte → Nat → List Byte

/-- Whether an Ed448 signature (key, signature, message) verifies (R428); uninterpreted (notes/assumptions/8.md). -/
opaque ed448Verify : List Byte → List Byte → List Byte → Bool

/-- The Ed448 signature of a message by the device identity key (R425, R433); uninterpreted. -/
opaque identitySign : List Byte → List Byte

/-- The public half of the device identity key (R430). -/
opaque identityKey : List Byte

/-- The public half of the n-th fresh X448 key pair (R434). -/
opaque sessionPublic : Nat → List Byte

/-- The shared secret of the n-th fresh X448 key pair and a host key (R434). -/
opaque sessionSecret : Nat → List Byte → List Byte

/-- AES-256 in XTS mode under a 64-byte key pair, with a tweak and ciphertext stealing (R411), and its inverse;
uninterpreted (notes/assumptions/8.md). -/
opaque xtsEncrypt : List Byte → BitVec 128 → List Byte → List Byte

/-- AES-CMAC under a 32-byte key (R412); uninterpreted (notes/assumptions/8.md). -/
opaque cmac : List Byte → List Byte → List Byte

/-- AES Key Unwrap of RFC 3394 under a key; none where the integrity check fails (R434). -/
opaque keyUnwrap : List Byte → List Byte → Option (List Byte)

end Sys2Proof.Config
end

