-- ==== Sys2Proof/Syntax.lean ====
section
/-!
DEFINITION. The syntax of the machine: one constructor of Instr for each row of spec/opcode_table.json. The rows that
are instruction words of Drisata (R178 to R187) carry the guard of the word and typed operands; the rows that are whole
and indivisible steps of the device's units, or writes of management registers, carry the place where the step
happens and, where something arrives from outside the package, its content.
-/

namespace Sys2Proof

/-- PRED, PNEG and HOLD of an instruction word (R178). -/
structure Guard where
  pred : PReg
  pneg : Bool
  hold : BitVec 3
  deriving DecidableEq, Repr

/-- The type codes of R182. -/
inductive Ty where
  | i8 | i16 | i32 | i64 | n8 | n16 | n32 | n64
  | f32 | f16 | bf16 | e4m3 | e5m2 | mx8 | mx8e5 | mx4 | mxi8 | pl
  deriving DecidableEq, Repr

/-- The condition codes of R181. -/
inductive Cond where
  | eq | ne | lt | le | gt | ge | un | ord
  deriving DecidableEq, Repr

/-- The element operations of R148. -/
inductive AOp where
  | store | add | smin | smax | umin | umax | band | bor | bxor | swap | cas | fadd | fmin | fmax
  deriving DecidableEq, Repr

/-- The scope codes of R131. -/
inductive Scope where
  | slot | tile | die | pkg | dom
  deriving DecidableEq, Repr

/-- The fence kinds of R310. -/
inductive FKind where
  | acq | rel | full
  deriving DecidableEq, Repr

/-- The forms of PMOV (R212). -/
inductive PmovForm where
  | pk (d : SReg)
  | upk (s : SReg)
  | sp (p : PReg) (s : SReg)
  | ps (d : SReg) (p : PReg)
  deriving DecidableEq, Repr

/-- The functions of WIDQ (R232). -/
inductive WidqFn where
  | fld | ext | part | sbase
  deriving DecidableEq, Repr

/-- TAG and TE of a tag-taking instruction (R260, R295). -/
structure QTag where
  tag : BitVec 6
  te : Bool
  deriving DecidableEq, Repr

/-- A mask field with MZ (R236). -/
structure Msk where
  m : MReg
  mz : Bool
  deriving DecidableEq, Repr

/-! ### What travels between units and packages -/

/-- A region instance: the key of its launch (its lead package and launch number), node and work identifier. -/
structure RegionId where
  l : Nat
  node : Nat
  wid : W64
  deriving DecidableEq, Repr

/-- What a unit keeps of an instruction from its issue, to record a fault against it (R262, R457, R500): the issuing
slot and its word, the operand values read, the launch, node and instance it belongs to, the channel of the running
handler, the lowest slot of its kernel, the address space and owner identifier of its partition, and its tag. -/
structure Trace where
  site : Nat
  slot : Nat
  pc : Nat
  iw : W64
  opd : W64
  op1 : W64
  op2 : W64
  l : Nat
  node : Nat
  wid : W64
  chan : Option Nat
  kern : Nat
  asp : Nat
  owner : Nat
  tag : Option Nat
  deriving DecidableEq, Repr

/-- One element of a hamper (R147), with the traces of its inserter and of those merged into it (R153, R166). -/
structure Elem where
  eseq : Nat
  op : AOp
  comb : Bool
  size : Nat
  slot : Nat
  offset : Nat
  data : W64
  swap : W64
  tr : Trace
  merged : List Trace
  deriving DecidableEq, Repr

/-- A hamper destination (R144), always within one address space. -/
inductive HDest where
  | tile (coord : Nat) (bank : Nat) (asp : Nat)
  | virt (vpage : Nat) (asp : Nat)
  deriving DecidableEq, Repr

/-- Where a packet travels once its destination is translated (R535). -/
inductive PDest where
  | tile (coord : Nat) (bank : Nat)
  | hbm (pkg : Nat) (pa : Nat)
  | host (port : Nat) (addr : Nat)
  deriving DecidableEq, Repr

/-- A failed element named by an acknowledgement (R500). -/
structure ElemFail where
  idx : Nat
  cls : Nat
  code : Nat
  deriving DecidableEq, Repr

/-- A hamper packet (R157, R399), with the number its source holds it under until it is acknowledged (R505), and the keys
under which its payload is ciphertext between packages (R413). `bad` names the elements that a poisoned beat has reached
(R469); at its destination `done` counts the elements performed so far and `fails` names those of them that failed (R162,
R500). -/
structure HPacket where
  id : Nat
  src : Nat
  asp : Nat
  owner : Nat
  seq : Option Nat
  dst : PDest
  hdst : HDest
  marked : Bool
  elems : List Elem
  key : List Byte := []
  bad : List Nat := []
  done : Nat := 0
  fails : List ElemFail := []
  deriving DecidableEq, Repr

/-- A basket-slot claim of a token send (R345, R506). -/
structure Claim where
  src : Nat
  id : Nat
  dst : Nat
  chan : Nat
  len : Nat
  tokid : Nat
  born : Bool
  l : Nat
  asp : Nat
  owner : Nat
  /-- at its destination: the ring circuit that has brought it (R407) -/
  circ : Option Nat := none
  deriving DecidableEq, Repr

/-- The kinds of request that the remote request queue sends (R307, R317, R536). -/
inductive ReqKind where
  | rld (size : Nat)
  | ratf (op : AOp) (size : Nat) (data : W64) (swap : W64)
  | bari (count : Nat)
  | arrive
  | poll
  | waitGen (gen : Nat)
  deriving DecidableEq, Repr

/-- A remote request on its way to the unit that owns its destination (R307). -/
structure Req where
  src : Nat
  id : Nat
  kind : ReqKind
  /-- the global address, or the handle of a hardware barrier object -/
  addr : W64
  /-- where a virtual address was found to lead, in a request that has left its package -/
  phys : Option PDest
  mem : Bool
  tr : Trace
  /-- the keys of its partition, under which HBM data are ciphertext, in a request that has left its package (R413) -/
  key : List Byte := []
  deriving DecidableEq, Repr

/-- The answer to a remote request: data, or the class and code of a failure. -/
inductive Answer where
  | data (v : W64) (poison : Bool)
  | done
  | joined (gen : W64) (complete : Bool)
  | fail (cls : Nat) (code : Nat)
  deriving DecidableEq, Repr

/-- A write of an engine command to memory of another package: the tile of the command and its number, the place, the bytes
with their poison, the owner identifier and address space of its partition (R399), and the keys under which the bytes are
ciphertext on the way (R413). -/
structure EWrite where
  src : Nat
  id : Nat
  dst : PDest
  off : Nat
  data : List (Byte × Bool)
  owner : Nat
  asp : Nat
  key : List Byte
  deriving DecidableEq, Repr

/-- A token image on its way (R281, R399): its send, and the slot that it was granted. -/
structure TokenMsg where
  src : Nat
  dst : Nat
  chan : Nat
  basket : Nat
  slot : Nat
  id : Nat
  asp : Nat
  owner : Nat
  image : List (Byte × Bool)
  deriving DecidableEq, Repr

/-- A partial result of a network reduction, or a broadcast's elements, on an edge of the tree between two packages (R407,
R409): up, from the package whose number it carries, or (down) the result. -/
structure Partial where
  /-- the collective: the key of its launch, its level, the value of the fields above it, and its index -/
  l : Nat
  level : Nat
  fields : Nat
  index : Nat
  pkg : Nat
  /-- the package at the other end of the edge -/
  dst : Nat
  down : Bool
  /-- what the contributions below agree in; empty where they differ (R324) -/
  shape : List Nat
  /-- none: of a broadcast, no root below; of a result, the failure of R324 -/
  data : Option (List (Byte × Bool))
  owner : Nat
  deriving DecidableEq, Repr

/-- A box entry of a configuration image (R402). -/
structure BoxCfg where
  sel : List Nat
  feeder : Option (Nat × Nat × Nat)
  deliver : Option (Nat × Nat × Nat)
  conv : Option (Nat × Nat × Nat × Nat × Nat × Bool)
  deriving DecidableEq, Repr

/-- A message on a network plane or from the fabric (R395). -/
inductive Msg where
  | packet (p : HPacket)
  | ack (dst : Nat) (src : Nat) (id : Nat) (fails : List ElemFail)
  | claim (c : Claim)
  | grant (dst : Nat) (src : Nat) (id : Nat) (slot : Option (Nat × Nat)) (code : Nat)
  | token (t : TokenMsg)
  | req (r : Req)
  /-- with the address space and owner identifier of the partition on whose behalf it travels (R399, R418), and the
  coordinate of the site that answers -/
  | resp (dst : Nat) (src : Nat) (id : Nat) (asp : Nat) (owner : Nat) (a : Answer)
  | write (w : EWrite)
  /-- the acknowledgement of such a write, with class, code and VALUE of its failure -/
  | wrote (dst : Nat) (id : Nat) (fail : Option (Nat × Nat × W64))
  | part (p : Partial)
  /-- an underpainting for the box of a tile of a region that spans packages (R287) -/
  | under (coord l node : Nat) (owner : Nat) (c : BoxCfg)
  /-- a claim, or the slot granted to it, is given back: the basket's tile, the send's tile and number -/
  | unclaim (dst : Nat) (src : Nat) (id : Nat)
  deriving DecidableEq, Repr

/-- What another package, or a host's device, answers to a read of a unit of this one: the bytes with their poison, or the
class and code of the failure there. The agenda carries it (notes/assumptions/1.md). -/
structure ExtRead where
  addr : W64
  data : List (Byte × Bool)
  fail : Option (Nat × Nat) := none
  deriving DecidableEq, Repr

/-- A message that comes from the fabric, with the lane group that brings it. -/
structure Incoming where
  lane : Nat
  m : Msg
  deriving DecidableEq, Repr

/-- A flit of the scalar or control plane over a link to the router of a site, and whether its parity check fails (R499). -/
structure FlitCheck where
  site : Nat
  dir : Nat
  failed : Bool
  deriving DecidableEq, Repr

/-- A word written to SCHPRE by a host (lead none), or passed on by another package with the lead of its launch (R383). -/
structure PreWord where
  lead : Option Nat
  w : W64
  deriving DecidableEq, Repr

/-- A launch notice (R369). -/
structure Notice where
  graph : Nat
  l : Nat
  serial : Nat
  lead : Nat
  /-- NNODE, NEDGE and NPKG of the lead's graph header -/
  shape : Nat × Nat × Nat
  patches : List (Nat × Nat × W64)
  deriving DecidableEq, Repr

/-- A report of a spanned package to the lead (R369): the answer to its place request (0 blocked, 1 its header refused, 2
unplaceable, none placed), or the status with which its part has ended; node 256 stands for the whole launch. -/
structure PartReport where
  l : Nat
  node : Nat
  pkg : Nat
  ended : Option Nat
  instances : Nat
  faults : Nat
  ftile : Nat
  /-- the member of the pod ring that each instance has in the package -/
  pods : List (W64 × Nat)
  /-- the tiles that its part has been placed away from: saved and new coordinate (R523) -/
  moves : List (Nat × Nat) := []
  deriving DecidableEq, Repr

/-- What a start notice tells of every part of a node (R369): the members of the pod rings, by instance, and the tiles that have
moved (R335, R523). -/
structure Peers where
  pods : List (W64 × Nat)
  moves : List (Nat × Nat)
  deriving DecidableEq, Repr

/-- The result of a known-answer test (R516, R517): classes and vault paths that failed. -/
structure TestResult where
  classes : List Nat
  vault : Bool
  intPath : Bool
  fpPath : Bool
  skipped : Nat
  deriving DecidableEq, Repr

/-- A place whose granule the patrol scrubber or a soft error concerns (R469, R498). -/
inductive Place where
  | sram (site : Nat) (off : Nat)
  | plane (site : Nat) (off : Nat)
  | acc (site : Nat) (idx : Nat)
  | vault (site : Nat) (off : Nat)
  | hbm (addr : Nat)
  | tag (addr : Nat)
  | beat (site : Nat)
  /-- a beat of a message on the planes -/
  | flight (n : Nat) (beat : Nat)
  /-- a beat of what the head command of an engine queue reads -/
  | engine (e q : Nat) (beat : Nat)
  /-- bytes of a host's memory, whose completion comes with EP set -/
  | host (port : Nat) (addr : Nat)
  /-- a whole HBM stack, which can be read no more (R514) -/
  | stack (n : Nat)
  /-- the register file of a slot -/
  | file (site slot : Nat)
  /-- a queue entry, latch or table entry of a slot's kernel -/
  | entry (site slot : Nat)
  deriving DecidableEq, Repr

/-- Readings of the power and thermal sensors over one window (R437). -/
structure PowerReading where
  power : Nat
  tj : Nat
  stopNs : Nat
  deriving DecidableEq, Repr

/-- QUEUE and ENG of a copy-engine command (R294, R300). -/
structure EngQ where
  queue : BitVec 3
  eng : BitVec 4
  deriving DecidableEq, Repr

/-- The conditions of WAITM (R319). -/
inductive WCond where
  | ne | eq | geu
  deriving DecidableEq, Repr

/-- The operations of VIRED and of the integer NRED (R251). -/
inductive RedOp where
  | add | smin | smax | umin | umax | band | bor | bxor
  deriving DecidableEq, Repr

/-- Every row of spec/opcode_table.json: 187 instruction words and 112 whole steps of units and writes of management
registers. In a word g is the guard; d, a, b, c are register numbers in the order D (DATA, DESC, LC), S1 (BASE), S2,
S3; the other operands are named after the field of the word. -/
inductive Instr where
  -- Scalar arithmetic, logic, moves and predicates
  | add (g : Guard) (d a b : SReg) (ty : Ty) (sat : Bool)
  | addImm (g : Guard) (d a : SReg) (imm : BitVec 33)
  | sub (g : Guard) (d a b : SReg) (ty : Ty) (sat : Bool)
  | subImm (g : Guard) (d a : SReg) (imm : BitVec 33)
  | mul (g : Guard) (d a b : SReg) (ty : Ty) (sat : Bool)
  | mulImm (g : Guard) (d a : SReg) (imm : BitVec 33)
  | mulh (g : Guard) (d a b : SReg) (ty : Ty)
  | div (g : Guard) (d a b : SReg) (ty : Ty)
  | rem (g : Guard) (d a b : SReg) (ty : Ty)
  | and (g : Guard) (d a b : SReg) (ty : Ty)
  | andImm (g : Guard) (d a : SReg) (imm : BitVec 33)
  | or (g : Guard) (d a b : SReg) (ty : Ty)
  | orImm (g : Guard) (d a : SReg) (imm : BitVec 33)
  | xor (g : Guard) (d a b : SReg) (ty : Ty)
  | xorImm (g : Guard) (d a : SReg) (imm : BitVec 33)
  | andn (g : Guard) (d a b : SReg) (ty : Ty)
  | shl (g : Guard) (d a b : SReg) (ty : Ty)
  | shlImm (g : Guard) (d a : SReg) (imm : BitVec 33)
  | shr (g : Guard) (d a b : SReg) (ty : Ty)
  | shrImm (g : Guard) (d a : SReg) (imm : BitVec 33)
  | sar (g : Guard) (d a b : SReg) (ty : Ty)
  | sarImm (g : Guard) (d a : SReg) (imm : BitVec 33)
  | rotl (g : Guard) (d a b : SReg) (ty : Ty)
  | rotlImm (g : Guard) (d a : SReg) (imm : BitVec 33)
  | min (g : Guard) (d a b : SReg) (ty : Ty)
  | minImm (g : Guard) (d a : SReg) (imm : BitVec 33)
  | max (g : Guard) (d a b : SReg) (ty : Ty)
  | maxImm (g : Guard) (d a : SReg) (imm : BitVec 33)
  | abs (g : Guard) (d a : SReg) (ty : Ty) (sat : Bool)
  | clz (g : Guard) (d a : SReg) (ty : Ty)
  | ctz (g : Guard) (d a : SReg) (ty : Ty)
  | popc (g : Guard) (d a : SReg) (ty : Ty)
  | bswap (g : Guard) (d a : SReg) (ty : Ty)
  | bfx (g : Guard) (d a : SReg) (pos : BitVec 6) (wid : BitVec 7)
  | bfi (g : Guard) (d a : SReg) (pos : BitVec 6) (wid : BitVec 7)
  | lea (g : Guard) (d a b : SReg) (k : BitVec 2)
  | leaImm (g : Guard) (d a : SReg) (imm : BitVec 33)
  | movi (g : Guard) (d : SReg) (imm : BitVec 33)
  | movhi (g : Guard) (d a : SReg) (imm : BitVec 32)
  | mov (g : Guard) (d a : SReg) (ty : Ty)
  | cmp (g : Guard) (d : PReg) (a b : SReg) (ty : Ty) (cc : Cond)
  | cmpImm (g : Guard) (d : PReg) (a : SReg) (cc : Cond) (uns : Bool) (imm : BitVec 28)
  | csel (g : Guard) (d a b : SReg) (p : PReg)
  | plog (g : Guard) (d a b : PReg) (tt : BitVec 4)
  | pmov (g : Guard) (f : PmovForm)
  -- Control and system
  | nop (g : Guard)
  | br (g : Guard) (off : BitVec 40)
  | jmp (g : Guard) (lc : SReg) (off : BitVec 40)
  | call (g : Guard) (lc : SReg) (off : BitVec 40)
  | ret (g : Guard) (lc : SReg)
  | loop (g : Guard) (lc : SReg) (off : BitVec 40)
  | yield (g : Guard) (imm : BitVec 21)
  | sleep (g : Guard) (a : SReg) (imm : BitVec 21)
  | endSlot (g : Guard)
  | trap (g : Guard) (imm : BitVec 21)
  | eret (g : Guard) (skip : Bool)
  | mfs (g : Guard) (d : SReg) (n : BitVec 12)
  | mts (g : Guard) (n : BitVec 12) (a : SReg)
  | cycle (g : Guard) (d : SReg)
  | time (g : Guard) (d : SReg)
  | capq (g : Guard) (d a : SReg)
  | widq (g : Guard) (d : SReg) (f : WidqFn) (k : BitVec 3)
  -- Local memory and code
  | ld (g : Guard) (d a : SReg) (size : BitVec 2) (sx : Bool) (off : BitVec 26)
  | st (g : Guard) (d a : SReg) (size : BitVec 2) (scope : Scope) (off : BitVec 26)
  | ldp (g : Guard) (d : BitVec 5) (a : SReg) (size : BitVec 2) (sx : Bool) (off : BitVec 26)
  | stp (g : Guard) (d : BitVec 5) (a : SReg) (size : BitVec 2) (scope : Scope) (off : BitVec 26)
  | latom (g : Guard) (d a b c : SReg) (ty : Ty) (op : AOp)
  | cwb (g : Guard)
  | iinv (g : Guard) (d a : SReg) (off : BitVec 26)
  | fetchb (g : Guard)
  | vld (g : Guard) (d : VReg) (a : SReg) (size : BitVec 2) (sx : Bool) (off : BitVec 26)
  | vst (g : Guard) (d : VReg) (a : SReg) (size : BitVec 2) (scope : Scope) (off : BitVec 26)
  | vlds (g : Guard) (d : VReg) (a b : SReg) (ty : Ty) (m : Msk)
  | vsts (g : Guard) (a b : SReg) (c : VReg) (ty : Ty) (m : MReg)
  | vgath (g : Guard) (d : VReg) (a : SReg) (b : VReg) (ty : Ty) (m : Msk) (k : BitVec 2)
  | vscat (g : Guard) (a : SReg) (b c : VReg) (ty : Ty) (m : MReg) (k : BitVec 2)
  -- Vector floating point
  | vadd (g : Guard) (d a b : VReg) (ty : Ty) (m : Msk)
  | vsub (g : Guard) (d a b : VReg) (ty : Ty) (m : Msk)
  | vmul (g : Guard) (d a b : VReg) (ty : Ty) (m : Msk)
  | vfma (g : Guard) (d a b c : VReg) (ty : Ty) (m : Msk)
  | vfms (g : Guard) (d a b c : VReg) (ty : Ty) (m : Msk)
  | vmin (g : Guard) (d a b : VReg) (ty : Ty) (m : Msk)
  | vmax (g : Guard) (d a b : VReg) (ty : Ty) (m : Msk)
  | vabs (g : Guard) (d a : VReg) (ty : Ty) (m : Msk)
  | vneg (g : Guard) (d a : VReg) (ty : Ty) (m : Msk)
  | vcmpf (g : Guard) (d : MReg) (a b : VReg) (ty : Ty) (cc : Cond) (m : Msk)
  | vclass (g : Guard) (d a : VReg) (ty : Ty) (m : Msk)
  | vexp2 (g : Guard) (d a : VReg) (m : Msk)
  | vlog2 (g : Guard) (d a : VReg) (m : Msk)
  | vrcp (g : Guard) (d a : VReg) (m : Msk)
  | vrsq (g : Guard) (d a : VReg) (m : Msk)
  | vredadd (g : Guard) (d : SReg) (a : VReg) (m : MReg)
  | vredmax (g : Guard) (d : SReg) (a : VReg) (m : MReg)
  | vredmin (g : Guard) (d : SReg) (a : VReg) (m : MReg)
  | vscan (g : Guard) (d a : VReg) (m : Msk)
  | vcvt (g : Guard) (d a : VReg) (dst src : Ty) (rc : BitVec 3) (m : Msk)
  | vpack (g : Guard) (d a : VReg) (b : SReg) (ty : Ty) (scale : Bool)
  | vunpk (g : Guard) (d a : VReg) (b : SReg) (ty : Ty) (scale : Bool)
  -- Vector integer, permute and mask
  | viadd (g : Guard) (d a b : VReg) (ty : Ty) (sat : Bool) (m : Msk)
  | visub (g : Guard) (d a b : VReg) (ty : Ty) (sat : Bool) (m : Msk)
  | vimul (g : Guard) (d a b : VReg) (ty : Ty) (sat : Bool) (m : Msk)
  | vimulh (g : Guard) (d a b : VReg) (ty : Ty) (m : Msk)
  | vand (g : Guard) (d a b : VReg) (ty : Ty) (m : Msk)
  | vor (g : Guard) (d a b : VReg) (ty : Ty) (m : Msk)
  | vxor (g : Guard) (d a b : VReg) (ty : Ty) (m : Msk)
  | vshl (g : Guard) (d a b : VReg) (ty : Ty) (m : Msk)
  | vshr (g : Guard) (d a b : VReg) (ty : Ty) (m : Msk)
  | vsar (g : Guard) (d a b : VReg) (ty : Ty) (m : Msk)
  | vicmp (g : Guard) (d : MReg) (a b : VReg) (ty : Ty) (cc : Cond) (m : Msk)
  | vimin (g : Guard) (d a b : VReg) (ty : Ty) (m : Msk)
  | vimax (g : Guard) (d a b : VReg) (ty : Ty) (m : Msk)
  | vired (g : Guard) (d : SReg) (a : VReg) (ty : Ty) (op : RedOp) (m : MReg)
  | vbcast (g : Guard) (d : VReg) (a : SReg) (ty : Ty) (m : Msk)
  | vext (g : Guard) (d : SReg) (a : VReg) (b : SReg) (ty : Ty)
  | vins (g : Guard) (d : VReg) (a b : SReg) (ty : Ty)
  | vsel (g : Guard) (d a b : VReg) (c : MReg)
  | vpermb (g : Guard) (d a b : VReg) (lane : Bool) (m : Msk)
  | vshuf (g : Guard) (d a b : VReg) (m : Msk)
  | vslide (g : Guard) (d a b : VReg) (c : SReg) (down : Bool) (m : Msk)
  | viota (g : Guard) (d : VReg) (a : SReg) (m : Msk)
  | mlog (g : Guard) (d a b : MReg) (tt : BitVec 4)
  | mfirst (g : Guard) (d : SReg) (a : MReg)
  | mpopc (g : Guard) (d : SReg) (a : MReg)
  | mset (g : Guard) (d : MReg) (a b : SReg) (first : Bool)
  | mget (g : Guard) (d : SReg) (a : MReg) (hi : Bool)
  -- Plane array and attention
  | pld (g : Guard) (d a b : SReg) (ty : Ty) (uns : Bool) (npl : BitVec 4) (q : QTag)
  | pldv (g : Guard) (d : SReg) (a : VReg) (b : SReg) (ty : Ty) (uns : Bool) (npl : BitVec 4) (q : QTag)
  | az (g : Guard) (acc : BitVec 2) (q : QTag)
  | mma (g : Guard) (a b : SReg) (acc : BitVec 2) (wa npl : BitVec 4) (ua ub bs : Bool) (nb : BitVec 6) (q : QTag)
  | ard (g : Guard) (a b : SReg) (acc : BitVec 2) (q : QTag)
  | awr (g : Guard) (a b : SReg) (acc : BitVec 2) (q : QTag)
  | ascl (g : Guard) (a : SReg) (acc : BitVec 2) (q : QTag)
  | arowmax (g : Guard) (a b : SReg) (acc : BitVec 2) (q : QTag)
  | aexp (g : Guard) (a : SReg) (acc : BitVec 2) (q : QTag)
  | arowsum (g : Guard) (a b : SReg) (acc : BitVec 2) (q : QTag)
  | acvt (g : Guard) (a : SReg) (acc : BitVec 2) (uns : Bool) (npl : BitVec 4) (q : QTag)
  | amask (g : Guard) (a b : SReg) (acc : BitVec 2) (q : QTag)
  | attv (g : Guard) (d a b : SReg) (acc : BitVec 2) (wa npl : BitVec 4) (ub mk d128 : Bool) (q : QTag)
  | acmb (g : Guard) (d a b : SReg) (acc : BitVec 2) (d128 : Bool) (q : QTag)
  | anrm (g : Guard) (a : SReg) (acc : BitVec 2) (d128 : Bool) (q : QTag)
  -- Token, route and shard
  | tsend (g : Guard) (a b : SReg) (q : QTag)
  | tfwd (g : Guard) (l : LReg) (b : SReg) (q : QTag)
  | tfork (g : Guard) (d : SReg) (l : LReg) (b : SReg) (q : QTag)
  | tjoin (g : Guard) (d : SReg) (l : LReg)
  | ttake (g : Guard) (d : SReg) (l : LReg) (word : BitVec 3) (rel : Bool)
  | hret (g : Guard)
  | hset (g : Guard) (a b : SReg)
  | hmsk (g : Guard) (a b : SReg)
  | eos (g : Guard) (a : SReg) (q : QTag)
  | cfgld (g : Guard) (a b : SReg) (q : QTag)
  | cfgswap (g : Guard)
  | drainq (g : Guard) (d : SReg)
  | shlk (g : Guard) (d a b : SReg) (q : QTag)
  | shmap (g : Guard) (d a b : SReg) (new : Bool) (q : QTag)
  | shunmap (g : Guard) (d a b : SReg) (cond : Bool) (q : QTag)
  | shref (g : Guard) (d a b : SReg) (dec : Bool) (q : QTag)
  -- Engines, remote operations and synchronisation
  | cpy (g : Guard) (d a b : SReg) (e : EngQ) (q : QTag)
  | cpy2 (g : Guard) (d : SReg) (e : EngQ) (q : QTag)
  | cpyl (g : Guard) (d a : SReg) (e : EngQ) (q : QTag)
  | cpyc (g : Guard) (d : SReg) (e : EngQ) (q : QTag)
  | fill (g : Guard) (d a b : SReg) (e : EngQ) (q : QTag)
  | qfence (g : Guard) (a : SReg) (e : EngQ) (q : QTag)
  | twait (g : Guard) (a : SReg) (tag : BitVec 6) (any : Bool)
  | tfirst (g : Guard) (d a : SReg)
  | tclr (g : Guard) (a : SReg)
  | bkinit (g : Guard) (k : BitVec 4) (d a : SReg)
  | bkaw (g : Guard) (k : BitVec 4) (d : SReg) (once : Bool)
  | bkpost (g : Guard) (k : BitVec 4) (a b : SReg)
  | bkrel (g : Guard) (k : BitVec 4) (a : SReg)
  | rst (g : Guard) (d a : SReg) (size : BitVec 2)
  | rat (g : Guard) (d a : SReg) (op : AOp) (size : BitVec 2) (comb : Bool)
  | ratf (g : Guard) (d a b : SReg) (op : AOp) (size : BitVec 2) (q : QTag)
  | rld (g : Guard) (d a : SReg) (size : BitVec 2) (q : QTag)
  | hflush (g : Guard) (d : SReg) (all : Bool) (q : QTag)
  | hcfg (g : Guard) (a : SReg)
  | hstat (g : Guard) (d a : SReg) (dst : Bool)
  | fence (g : Guard) (k : FKind) (scope : Scope)
  | bari (g : Guard) (d a : SReg) (mem : Bool) (q : QTag)
  | bara (g : Guard) (d : SReg) (mem : Bool) (q : QTag)
  | barw (g : Guard) (d : SReg) (mem : Bool)
  | waitm (g : Guard) (d a : SReg) (cc : WCond)
  | phase (g : Guard)
  | prep (g : Guard)
  | keep (g : Guard) (d a : SReg) (plain : Bool)
  | disc (g : Guard) (d a : SReg)
  | nred (g : Guard) (d a b : SReg) (op : AOp) (size : BitVec 2) (q : QTag)
  | nbcast (g : Guard) (d a b : SReg) (size : BitVec 2) (root : Bool) (q : QTag)
  -- Steps of slots, handlers and arrivals
  | landingCycle (site slot : Nat)
  | holdExpiry (site slot : Nat)
  | slotWake (site slot : Nat)
  | backedRetry (site slot : Nat)
  | handlerSelection (site slot : Nat)
  | handlerAged (site entry : Nat)
  | handlerOverrun (site slot : Nat)
  | arrivalCounts (site : Nat)
  | claimRequest (n : Nat)
  | claimGrant (site basket : Nat)
  | tokenSendPerform (site n : Nat)
  -- Steps of hampers and the fabric
  | insertionStage (site : Nat)
  | hamperAgeTrigger (site h : Nat)
  | handOff (site : Nat)
  | hamperPacketPerform (n : Nat)
  | hamperAcknowledgement (n : Nat)
  -- Steps of the engines, the queues, barriers, collectives and routes
  | enginePortForward (site : Nat)
  | engineCommandComplete (eng queue : Nat) (ext : List ExtRead)
  | arrayEntryComplete (site : Nat) (residue : List Nat)
  | networkCommandExecute (site : Nat)
  | cfgldComplete (site : Nat) (ext : List ExtRead)
  | shardOperation (site : Nat)
  | remoteRequestPerform (n : Nat)
  | remoteRequestResponse (n : Nat)
  | barrierInitAtHome (n : Nat)
  | barrierArrivalAtHome (n : Nat)
  | barrierPoll (site id : Nat)
  | barrierWaitRequest (site id : Nat)
  | collectiveComplete (region : RegionId) (level index : Nat) (ext : List (Nat × Nat × Option (List (Byte × Bool))))
  | collectiveBroken (region : RegionId) (level index : Nat)
  | monitorReread (site mon : Nat)
  | phaseComplete (region : RegionId)
  | configurationSwap (region : RegionId)
  | strayAfterSwap (site input : Nat)
  | operandPacketDelivery (site route : Nat)
  | endOfStreamDelivery (site route : Nat)
  | kernelCompletion (region : RegionId)
  | faultDelivery (site slot : Nat)
  | deferredTrap (site slot : Nat)
  | sequentialPcFault (site slot : Nat)
  -- Steps of the scheduler that fall due by themselves
  | compactTimeout (l node : Nat)
  | savePoint (l node site : Nat)
  | oldestAnnounce (l : Nat) (ext : Option Nat)
  -- Requests and slices served outside the issuing tile
  | bypassedSliceEmptied (site : Nat) (lost : List Nat)
  -- Steps of slots, handlers and arrivals, from outside
  | packageReset (tests : List (Nat × TestResult))
  | firmwareReady
  -- Steps of hampers and the fabric, from outside
  | fabricPacketArrival (m : Incoming)
  | indeterminateDeclaration (site id : Nat)
  | heldPacketResend (pkg : Nat)
  | xfcmdRetry (n : Nat)
  | xfcmdDecline (n : Nat)
  -- Steps of the engines, the queues, barriers, collectives and routes, from outside
  | lateCommandCompletion (eng queue : Nat) (ext : List ExtRead)
  -- Steps of the scheduler
  | schtrig (w : W64)
  | launch (sigma : Option Nat)
  | launchNotice (n : Notice)
  | placePartRequest (l node : Nat)
  | startNotice (l node : Nat) (peers : Peers)
  | releaseNotice (l node : Nat)
  | partCompletionReport (r : PartReport)
  | selectionRound
  | schpreFull (w : PreWord)
  | schpreCompact (w : PreWord)
  | schpreWithdraw (w : PreWord)
  | preemptionStop (l node : Nat)
  | schres (w : W64)
  | restoration (l node : Nat)
  -- Steps of tests, failures and the host
  | testRound (site : Nat) (r : TestResult)
  | htest (w : W64)
  | hostTestRun (r : TestResult)
  | hangSweep
  | patrolScrub (p : Place) (uncorrectable : Bool)
  | flitParityRetry (f : FlitCheck)
  | routerFailure (site : Nat)
  | routingTableRewrite
  | prst (w : W64)
  | linkReplay (n : Nat)
  | linkTrained (n peer plg : Nat)
  | fabricPortDown (n : Nat)
  | hostLinkDown (port : Nat)
  | hostLinkRetrain (port : Nat)
  | apertureRead (port : Nat) (off : W64) (size : Nat) (ext : List ExtRead)
  | apertureWrite (port : Nat) (off : W64) (data : List Byte) (ep : Bool)
  | apertureAtomic (port : Nat) (off : W64) (op : AOp) (size : Nat) (data swap : W64) (ext : Option W64)
  | hostCompletionTimeout (eng queue : Nat) (ext : List ExtRead)
  | powerWindow (r : PowerReading)
  | thermalTrip (tj : Nat)
  | markFrame (eng queue : Nat) (ext : List ExtRead)
  -- Writes of management registers
  | mscfgEnable (w : W64)
  | mscfgDisable (w : W64)
  | cacheWritebackDone
  | vsplit (n : Nat) (w : W64)
  | pkgnum (w : W64)
  | ivqPage (w : W64)
  | ivqRange (w : W64)
  | ivqSpace (w : W64)
  | ivqAll (w : W64)
  | ivqAcknowledge
  | hwin (port k word : Nat) (w : W64)
  | pgctl (w : W64)
  | pwrceil (w : W64)
  | lnklim (w : W64)
  | mkfmt (stage : Nat) (w : W64)
  | lgb (n : Nat) (w : W64)
  | attest (w : Option W64)
  | extend (w : Option W64)
  | keyload (w : Option W64)
  | markkey (w : Option W64)
  | recoveryImage (w : Option W64)
  | fltcfg (w : W64)
  | katcfg (w : W64)
  | hangcfg (w : W64)
  | registerWrite (port : Nat) (off : Nat) (w : W64)
  deriving DecidableEq, Repr

end Sys2Proof
end

