-- ==== Sys2Proof/WellFormed.lean ====
section
/-!
DEFINITION. Which terms of Instr stand for a word or an event of the device: the limits of R200 to R332 that the types
of the operands do not already state, and the ranges of the places of events.
-/

namespace Sys2Proof

/-- An integer type, codes 0x00 to 0x07 (R182, R200). -/
def Ty.isInt : Ty → Bool
  | .i8 | .i16 | .i32 | .i64 | .n8 | .n16 | .n32 | .n64 => true
  | _ => false

/-- An i type (R181). -/
def Ty.isSigned : Ty → Bool
  | .i8 | .i16 | .i32 | .i64 => true
  | _ => false

/-- The set IT of R235. -/
def Ty.isIT : Ty → Bool
  | .i8 | .i16 | .i32 | .n8 | .n16 | .n32 => true
  | _ => false

/-- The set FT of R235. -/
def Ty.isFT : Ty → Bool
  | .f32 | .f16 | .bf16 => true
  | _ => false

/-- The set ET of R235. -/
def Ty.isET (t : Ty) : Bool := t.isIT || t.isFT || t == .e4m3 || t == .e5m2

/-- The MX types (R235). -/
def Ty.isMX : Ty → Bool
  | .mx8 | .mx8e5 | .mx4 | .mxi8 => true
  | _ => false

/-- The pairs of VCVT, source then destination (R253). -/
def Ty.cvtOk (src dst : Ty) : Bool :=
  if src.isFT then dst.isET || dst.isMX
  else if src.isMX then dst.isFT
  else src.isET && dst.isET

/-- The types of VPACK and VUNPK (R256). -/
def Ty.packOk : Ty → Bool
  | .i8 | .n8 | .e4m3 | .e5m2 | .mx8 | .mx8e5 | .mxi8 | .i16 | .n16 | .f16 | .bf16 | .mx4 => true
  | _ => false

/-- The source types of PLD (R267). -/
def Ty.pldOk (t : Ty) : Bool := t.isFT || t == .e4m3 || t == .e5m2 || t.isMX || t == .pl

/-- The FP operations of R148. -/
def AOp.isFP : AOp → Bool
  | .fadd | .fmin | .fmax => true
  | _ => false

/-- The operations of NRED (R323). -/
def AOp.redOk : AOp → Bool
  | .store | .swap | .cas => false
  | _ => true

/-- The integer conditions of R181. -/
def Cond.isIntCond : Cond → Bool
  | .un | .ord => false
  | _ => true

/-- TE = 0 requires TAG = 0 (R260, R295). -/
def QTag.wf (q : QTag) : Bool := q.te || q.tag == 0

/-- SX = 1 requires SIZE below 3 (R179). -/
def sxWf (size : BitVec 2) (sx : Bool) : Bool := !(sx && size == 3)

/-- A compare-and-swap names an even scalar (R306). -/
def casWf (op : AOp) (a : SReg) : Bool := op != .cas || a.toNat % 2 == 0

/-- FP operations act on 4 bytes (R148). -/
def fpSizeWf (op : AOp) (size : BitVec 2) : Bool := !op.isFP || size == 2

/-- An operand in plane form: a signed width of 1 is none (R267, R268, R271). -/
def planeWf (uns : Bool) (npl : BitVec 4) : Bool := uns || npl != 0

/-- A site of the package (R10, R17) and a slot of a tile. -/
def placeWf (site slot : Nat) : Bool := site < 1024 && slot < 8

/-- The well-formed instructions. -/
def Instr.wf : Instr → Bool
  | .packageReset _ | .firmwareReady | .claimRequest _ | .hamperPacketPerform _ | .hamperAcknowledgement _
  | .remoteRequestPerform _ | .remoteRequestResponse _ | .barrierInitAtHome _
  | .barrierArrivalAtHome _ | .collectiveComplete .. | .collectiveBroken .. | .phaseComplete _ | .configurationSwap _
  | .kernelCompletion _ | .schtrig _ | .launch _ | .launchNotice _ | .placePartRequest .. | .startNotice ..
  | .releaseNotice .. | .partCompletionReport _ | .selectionRound | .schpreFull .. | .schpreCompact ..
  | .schpreWithdraw .. | .compactTimeout .. | .preemptionStop .. | .schres _ | .restoration .. | .htest _
  | .hostTestRun _ | .hangSweep | .oldestAnnounce .. | .patrolScrub .. | .routingTableRewrite | .prst _
  | .powerWindow _ | .thermalTrip _ | .mscfgEnable _ | .mscfgDisable _ | .cacheWritebackDone | .pkgnum _
  | .ivqPage _ | .ivqRange _ | .ivqSpace _ | .ivqAll _ | .ivqAcknowledge | .pgctl _ | .pwrceil _ | .lnklim _
  | .attest _ | .extend _ | .keyload _ | .markkey _ | .recoveryImage _ | .fltcfg _ | .katcfg _ | .hangcfg _ => true
  | .landingCycle site slot | .holdExpiry site slot | .slotWake site slot | .backedRetry site slot
  | .handlerSelection site slot | .handlerOverrun site slot | .faultDelivery site slot | .deferredTrap site slot
  | .sequentialPcFault site slot => placeWf site slot
  | .handlerAged site e => placeWf site 0 && e < 32
  | .claimGrant site k | .hamperAgeTrigger site k | .monitorReread site k | .operandPacketDelivery site k
  | .endOfStreamDelivery site k | .strayAfterSwap site k => placeWf site 0 && k < 16
  | .arrivalCounts site | .insertionStage site | .handOff site | .enginePortForward site | .arrayEntryComplete site _
  | .networkCommandExecute site | .cfgldComplete site _ | .shardOperation site | .savePoint _ _ site | .testRound site _
  | .routerFailure site | .bypassedSliceEmptied site _ | .indeterminateDeclaration site _
  | .barrierPoll site _ | .barrierWaitRequest site _ => placeWf site 0
  | .flitParityRetry f => placeWf f.site 0 && f.dir < 4
  | .tokenSendPerform site _ => placeWf site 0
  | .heldPacketResend pkg => pkg < 4096
  | .xfcmdRetry n | .xfcmdDecline n => n < 64
  | .engineCommandComplete e q _ | .lateCommandCompletion e q _ | .hostCompletionTimeout e q _
  | .markFrame e q _ => e < 64 && q < 8
  | .fabricPortDown n => n < 36
  | .fabricPacketArrival ⟨n, _⟩ | .linkReplay n | .linkTrained n _ _ => n < 144
  | .lgb n _ => n < 144
  | .hostLinkDown p | .hostLinkRetrain p => p < 2
  | .apertureRead p _ size _ => p < 2 && size > 0
  | .apertureWrite p _ data _ => p < 2 && !data.isEmpty
  | .apertureAtomic p _ _ size _ _ _ => p < 2 && size < 4
  | .mkfmt k _ => k < 2
  | .vsplit n _ => n < 128
  | .hwin p k n _ => p < 2 && k < 4 && n < 2
  | .registerWrite p _ _ => p < 2
  | .add _ _ _ _ ty _ | .sub _ _ _ _ ty _ | .mul _ _ _ _ ty _ | .mulh _ _ _ _ ty | .div _ _ _ _ ty | .rem _ _ _ _ ty
  | .and _ _ _ _ ty | .or _ _ _ _ ty | .xor _ _ _ _ ty | .andn _ _ _ _ ty | .shl _ _ _ _ ty | .shr _ _ _ _ ty
  | .sar _ _ _ _ ty | .rotl _ _ _ _ ty | .min _ _ _ _ ty | .max _ _ _ _ ty | .clz _ _ _ ty | .ctz _ _ _ ty
  | .popc _ _ _ ty | .bswap _ _ _ ty | .mov _ _ _ ty => ty.isInt
  | .abs _ _ _ ty _ => ty.isSigned
  | .bfx _ _ _ _ wid | .bfi _ _ _ _ wid => 1 ≤ wid.toNat && wid.toNat ≤ 64
  | .cmp _ _ _ _ ty cc => ty.isInt && cc.isIntCond
  | .cmpImm _ _ _ cc _ _ => cc.isIntCond
  | .loop _ lc _ => lc != 0
  | .widq _ _ f k => k != 7 && (f != .sbase || k == 0)
  | .ld _ _ _ size sx _ | .ldp _ _ _ size sx _ => sxWf size sx
  | .latom _ _ _ _ c ty op => (if op.isFP then ty == .f32 else ty.isInt) && (op == .cas || c == 0)
  | .vld _ _ _ size _ _ | .vst _ _ _ size _ _ => size != 3
  | .vlds _ _ _ _ ty _ | .vsts _ _ _ _ ty _ | .vgath _ _ _ _ ty _ _ | .vscat _ _ _ _ ty _ _ => ty.isET
  | .vadd _ _ _ _ ty _ | .vsub _ _ _ _ ty _ | .vmul _ _ _ _ ty _ | .vfma _ _ _ _ _ ty _ | .vfms _ _ _ _ _ ty _
  | .vmin _ _ _ _ ty _ | .vmax _ _ _ _ ty _ | .vabs _ _ _ ty _ | .vneg _ _ _ ty _ | .vcmpf _ _ _ _ ty _ _
  | .vclass _ _ _ ty _ => ty.isFT
  | .vcvt _ _ _ dst src _ _ => Ty.cvtOk src dst
  | .vpack _ _ _ _ ty scale | .vunpk _ _ _ _ ty scale => ty.packOk && (!scale || ty.isMX)
  | .viadd _ _ _ _ ty _ _ | .visub _ _ _ _ ty _ _ | .vimul _ _ _ _ ty _ _ | .vimulh _ _ _ _ ty _ | .vand _ _ _ _ ty _
  | .vor _ _ _ _ ty _ | .vxor _ _ _ _ ty _ | .vshl _ _ _ _ ty _ | .vshr _ _ _ _ ty _ | .vsar _ _ _ _ ty _
  | .vimin _ _ _ _ ty _ | .vimax _ _ _ _ ty _ | .vired _ _ _ ty _ _ => ty.isIT
  | .vicmp _ _ _ _ ty cc _ => ty.isIT && cc.isIntCond
  | .vbcast _ _ _ ty _ | .vext _ _ _ _ ty | .vins _ _ _ _ ty => ty.isET
  | .mset _ _ _ b first => !first || b == 0
  | .pld _ _ _ _ ty uns npl q => ty.pldOk && planeWf uns npl && q.wf
  | .pldv _ _ _ _ ty uns npl q => ty.isFT && planeWf uns npl && q.wf
  | .az _ _ q | .ard _ _ _ _ q | .awr _ _ _ _ q | .ascl _ _ _ q | .arowmax _ _ _ _ q | .aexp _ _ _ q
  | .arowsum _ _ _ _ q | .amask _ _ _ _ q | .acmb _ _ _ _ _ _ q | .anrm _ _ _ _ q | .tsend _ _ _ q | .tfwd _ _ _ q
  | .tfork _ _ _ _ q | .eos _ _ q | .cfgld _ _ _ q | .shlk _ _ _ _ q | .shmap _ _ _ _ _ q | .shunmap _ _ _ _ _ q
  | .shref _ _ _ _ _ q | .cpy _ _ _ _ _ q | .cpy2 _ _ _ q | .cpyl _ _ _ _ q | .cpyc _ _ _ q | .fill _ _ _ _ _ q
  | .qfence _ _ _ q | .rld _ _ _ _ q | .bari _ _ _ _ q | .bara _ _ _ q | .nbcast _ _ _ _ _ _ q => q.wf
  | .mma _ _ _ _ wa npl ua ub _ _ q => planeWf ua wa && planeWf ub npl && q.wf
  | .acvt _ _ _ uns npl q => planeWf uns npl && q.wf
  | .attv _ _ _ _ _ wa npl ub _ _ q => planeWf false wa && planeWf ub npl && q.wf
  | .twait _ a tag any => if a == 0 then !any else tag == 0
  | .rat _ _ a op size comb =>
    op != .store && casWf op a && fpSizeWf op size && (!comb || op == .add || op == .fadd)
  | .ratf _ _ a _ op size q => op != .store && casWf op a && fpSizeWf op size && q.wf
  | .hflush _ d all q => (!all || d == 0) && q.wf
  | .nred _ _ _ _ op size q => op.redOk && fpSizeWf op size && q.wf
  | .addImm .. | .subImm .. | .mulImm .. | .andImm .. | .orImm .. | .xorImm .. | .shlImm .. | .shrImm .. | .sarImm ..
  | .rotlImm .. | .minImm .. | .maxImm .. | .lea .. | .leaImm .. | .movi .. | .movhi .. | .csel .. | .plog .. | .pmov ..
  | .nop _ | .br .. | .jmp .. | .call .. | .ret .. | .yield .. | .sleep .. | .endSlot _ | .trap .. | .eret .. | .mfs ..
  | .mts .. | .cycle .. | .time .. | .capq .. | .st .. | .stp .. | .cwb _ | .iinv .. | .fetchb _ | .vexp2 .. | .vlog2 ..
  | .vrcp .. | .vrsq .. | .vredadd .. | .vredmax .. | .vredmin .. | .vscan .. | .vsel .. | .vpermb .. | .vshuf ..
  | .vslide .. | .viota .. | .mlog .. | .mfirst .. | .mpopc .. | .mget .. | .tjoin .. | .ttake .. | .hret _ | .hset ..
  | .hmsk .. | .cfgswap _ | .drainq .. | .tfirst .. | .tclr .. | .bkinit .. | .bkaw .. | .bkpost .. | .bkrel ..
  | .rst .. | .hcfg .. | .hstat .. | .fence .. | .barw .. | .waitm .. | .phase _ | .prep _ | .keep .. | .disc .. => true

end Sys2Proof
end

