-- ==== Sys2Proof/Decode.lean ====
section
/-!
DEFINITION. The instruction words of Drisata: the seven formats of R178 and R179, the decoder of a 64-bit word with the
class 1 codes of R474 in the precedence of R473, and the encoder, both from the opcode map (R186) and the field uses
that each instruction's rule gives.
-/

namespace Sys2Proof

/-! ### Codes of operand fields -/

/-- The type codes of R182. -/
def Ty.code : Ty → Nat
  | .i8 => 0 | .i16 => 1 | .i32 => 2 | .i64 => 3 | .n8 => 4 | .n16 => 5 | .n32 => 6 | .n64 => 7 | .f32 => 8
  | .f16 => 9 | .bf16 => 10 | .e4m3 => 11 | .e5m2 => 12 | .mx8 => 13 | .mx8e5 => 14 | .mx4 => 15 | .mxi8 => 16
  | .pl => 17

/-- The type with a code; none for the reserved codes (R182). -/
def Ty.ofCode (n : Nat) : Option Ty :=
  match n with
  | 0 => some .i8 | 1 => some .i16 | 2 => some .i32 | 3 => some .i64 | 4 => some .n8 | 5 => some .n16
  | 6 => some .n32 | 7 => some .n64 | 8 => some .f32 | 9 => some .f16 | 10 => some .bf16 | 11 => some .e4m3
  | 12 => some .e5m2 | 13 => some .mx8 | 14 => some .mx8e5 | 15 => some .mx4 | 16 => some .mxi8 | 17 => some .pl
  | _ => none

/-- The condition codes of R181. -/
def Cond.code : Cond → Nat
  | .eq => 0 | .ne => 1 | .lt => 2 | .le => 3 | .gt => 4 | .ge => 5 | .un => 6 | .ord => 7

/-- The condition with a code (R181). -/
def Cond.ofCode (n : Nat) : Option Cond :=
  match n with
  | 0 => some .eq | 1 => some .ne | 2 => some .lt | 3 => some .le | 4 => some .gt | 5 => some .ge | 6 => some .un
  | 7 => some .ord | _ => none

/-- The element operations of R148. -/
def AOp.code : AOp → Nat
  | .store => 0 | .add => 1 | .smin => 2 | .smax => 3 | .umin => 4 | .umax => 5 | .band => 6 | .bor => 7 | .bxor => 8
  | .swap => 9 | .cas => 10 | .fadd => 11 | .fmin => 12 | .fmax => 13

/-- The element operation with a code (R148). -/
def AOp.ofCode (n : Nat) : Option AOp :=
  match n with
  | 0 => some .store | 1 => some .add | 2 => some .smin | 3 => some .smax | 4 => some .umin | 5 => some .umax
  | 6 => some .band | 7 => some .bor | 8 => some .bxor | 9 => some .swap | 10 => some .cas | 11 => some .fadd
  | 12 => some .fmin | 13 => some .fmax | _ => none

/-- The operations of VIRED (R251). -/
def RedOp.code : RedOp → Nat
  | .add => 1 | .smin => 2 | .smax => 3 | .umin => 4 | .umax => 5 | .band => 6 | .bor => 7 | .bxor => 8

/-- The operation of VIRED with a code (R251). -/
def RedOp.ofCode (n : Nat) : Option RedOp :=
  match n with
  | 1 => some .add | 2 => some .smin | 3 => some .smax | 4 => some .umin | 5 => some .umax | 6 => some .band
  | 7 => some .bor | 8 => some .bxor | _ => none

/-- The scope codes of R131. -/
def Scope.code : Scope → Nat
  | .slot => 0 | .tile => 1 | .die => 2 | .pkg => 3 | .dom => 4

/-- The scope with a code (R131). -/
def Scope.ofCode (n : Nat) : Option Scope :=
  match n with
  | 0 => some .slot | 1 => some .tile | 2 => some .die | 3 => some .pkg | 4 => some .dom | _ => none

/-- The fence kinds of R310. -/
def FKind.code : FKind → Nat
  | .acq => 0 | .rel => 1 | .full => 2

/-- The fence kind with a code (R310). -/
def FKind.ofCode (n : Nat) : Option FKind :=
  match n with
  | 0 => some .acq | 1 => some .rel | 2 => some .full | _ => none

/-- The conditions of WAITM (R319). -/
def WCond.code : WCond → Nat
  | .ne => 0 | .eq => 1 | .geu => 2

/-- The condition of WAITM with a code (R319). -/
def WCond.ofCode (n : Nat) : Option WCond :=
  match n with
  | 0 => some .ne | 1 => some .eq | 2 => some .geu | _ => none

/-- The functions of WIDQ (R232). -/
def WidqFn.code : WidqFn → Nat
  | .fld => 0 | .ext => 1 | .part => 2 | .sbase => 3

/-- The function of WIDQ with a code (R232). -/
def WidqFn.ofCode (n : Nat) : Option WidqFn :=
  match n with
  | 0 => some .fld | 1 => some .ext | 2 => some .part | 3 => some .sbase | _ => none

/-! ### The seven formats (R179), each field as the number that its bits spell -/

structure FmtA where
  d : Nat
  s1 : Nat
  s2 : Nat
  s3 : Nat
  ty : Nat
  msk : Nat
  mz : Nat
  sat : Nat
  res : Nat
  sub : Nat
  deriving DecidableEq, Repr

structure FmtI where
  d : Nat
  s1 : Nat
  imm : Nat
  deriving DecidableEq, Repr

structure FmtM where
  d : Nat
  s1 : Nat
  size : Nat
  scope : Nat
  sx : Nat
  off : Nat
  deriving DecidableEq, Repr

structure FmtJ where
  lc : Nat
  off : Nat
  deriving DecidableEq, Repr

structure FmtE where
  d : Nat
  s1 : Nat
  s2 : Nat
  tag : Nat
  queue : Nat
  eng : Nat
  scope : Nat
  kind : Nat
  sub : Nat
  deriving DecidableEq, Repr

structure FmtX where
  d : Nat
  s1 : Nat
  s2 : Nat
  acc : Nat
  npl : Nat
  fmt : Nat
  sub : Nat
  deriving DecidableEq, Repr

structure FmtY where
  d : Nat
  s1 : Nat
  sys : Nat
  imm : Nat
  deriving DecidableEq, Repr

/-- Bits [lo + n - 1 : lo] of a number. -/
def bitsOf (w lo n : Nat) : Nat := w / 2 ^ lo % 2 ^ n

/-- 1 for true, 0 for false. -/
def bitNat (b : Bool) : Nat := if b then 1 else 0

def unpackA (w : Nat) : FmtA :=
  ⟨bitsOf w 40 7, bitsOf w 33 7, bitsOf w 26 7, bitsOf w 19 7, bitsOf w 14 5, bitsOf w 11 3, bitsOf w 10 1,
   bitsOf w 9 1, bitsOf w 8 1, bitsOf w 0 8⟩

def packA (f : FmtA) : Nat :=
  f.d * 2 ^ 40 + f.s1 * 2 ^ 33 + f.s2 * 2 ^ 26 + f.s3 * 2 ^ 19 + f.ty * 2 ^ 14 + f.msk * 2 ^ 11 + f.mz * 2 ^ 10
    + f.sat * 2 ^ 9 + f.res * 2 ^ 8 + f.sub

def unpackI (w : Nat) : FmtI := ⟨bitsOf w 40 7, bitsOf w 33 7, bitsOf w 0 33⟩

def packI (f : FmtI) : Nat := f.d * 2 ^ 40 + f.s1 * 2 ^ 33 + f.imm

def unpackM (w : Nat) : FmtM :=
  ⟨bitsOf w 40 7, bitsOf w 33 7, bitsOf w 30 3, bitsOf w 27 3, bitsOf w 26 1, bitsOf w 0 26⟩

def packM (f : FmtM) : Nat :=
  f.d * 2 ^ 40 + f.s1 * 2 ^ 33 + f.size * 2 ^ 30 + f.scope * 2 ^ 27 + f.sx * 2 ^ 26 + f.off

def unpackJ (w : Nat) : FmtJ := ⟨bitsOf w 40 7, bitsOf w 0 40⟩

def packJ (f : FmtJ) : Nat := f.lc * 2 ^ 40 + f.off

def unpackE (w : Nat) : FmtE :=
  ⟨bitsOf w 40 7, bitsOf w 33 7, bitsOf w 26 7, bitsOf w 20 6, bitsOf w 17 3, bitsOf w 13 4, bitsOf w 10 3,
   bitsOf w 8 2, bitsOf w 0 8⟩

def packE (f : FmtE) : Nat :=
  f.d * 2 ^ 40 + f.s1 * 2 ^ 33 + f.s2 * 2 ^ 26 + f.tag * 2 ^ 20 + f.queue * 2 ^ 17 + f.eng * 2 ^ 13
    + f.scope * 2 ^ 10 + f.kind * 2 ^ 8 + f.sub

def unpackX (w : Nat) : FmtX :=
  ⟨bitsOf w 40 7, bitsOf w 33 7, bitsOf w 26 7, bitsOf w 24 2, bitsOf w 20 4, bitsOf w 14 6, bitsOf w 0 14⟩

def packX (f : FmtX) : Nat :=
  f.d * 2 ^ 40 + f.s1 * 2 ^ 33 + f.s2 * 2 ^ 26 + f.acc * 2 ^ 24 + f.npl * 2 ^ 20 + f.fmt * 2 ^ 14 + f.sub

def unpackY (w : Nat) : FmtY := ⟨bitsOf w 40 7, bitsOf w 33 7, bitsOf w 21 12, bitsOf w 0 21⟩

def packY (f : FmtY) : Nat := f.d * 2 ^ 40 + f.s1 * 2 ^ 33 + f.sys * 2 ^ 21 + f.imm

/-- Bits [46:0] of a word, by format. -/
inductive Body where
  | a (f : FmtA)
  | i (f : FmtI)
  | m (f : FmtM)
  | j (f : FmtJ)
  | e (f : FmtE)
  | x (f : FmtX)
  | y (f : FmtY)
  deriving DecidableEq, Repr

def Body.pack : Body → Nat
  | .a f => packA f
  | .i f => packI f
  | .m f => packM f
  | .j f => packJ f
  | .e f => packE f
  | .x f => packX f
  | .y f => packY f

/-- The word of a major opcode, a guard and a body (R178). -/
def packWord (op : Nat) (g : Guard) (b : Body) : Nat :=
  op * 2 ^ 54 + g.pred.toNat * 2 ^ 51 + bitNat g.pneg * 2 ^ 50 + g.hold.toNat * 2 ^ 47 + b.pack

/-- The guard of a word (R178). -/
def guardOf (w : Nat) : Guard :=
  ⟨BitVec.ofNat 3 (bitsOf w 51 3), bitsOf w 50 1 == 1, BitVec.ofNat 3 (bitsOf w 47 3)⟩

/-! ### Checks of the decoder

A check is a class 1 code of R474 with the condition that raises it. -/

abbrev Chk := List (Nat × Bool)

/-- The mark of a wrong specifier kind, code 0x04, where the specifier is a vector register or one of m1 to m7: in a
slot with COUNT = 0 it reads as code 0x0A (R486). -/
def kindMark : Nat := 260

/-- A specifier field: 0x78 to 0x7F are reserved, and ok says whether the kind is admitted (R485, R486). -/
def chkKind (ok : Bool) (x : Nat) : Chk :=
  [(3, decide (120 ≤ x)),
   (if decide (64 ≤ x) && decide (x < 96) || decide (105 ≤ x) && decide (x < 112) then kindMark else 4, !ok)]

/-- A field that admits only a scalar specifier. -/
def chkS (x : Nat) : Chk := chkKind (decide (x < 64)) x

/-- A field that admits only a vector specifier. -/
def chkV (x : Nat) : Chk := chkKind (decide (64 ≤ x) && decide (x < 96)) x

/-- A field that admits only a predicate specifier. -/
def chkP (x : Nat) : Chk := chkKind (decide (96 ≤ x) && decide (x < 104)) x

/-- A field that admits only a lane-mask specifier. -/
def chkM (x : Nat) : Chk := chkKind (decide (104 ≤ x) && decide (x < 112)) x

/-- A field that admits only a token-latch specifier. -/
def chkT (x : Nat) : Chk := chkKind (decide (116 ≤ x)) x

/-- A specifier field that the instruction does not use (R184, R485). -/
def chk0 (x : Nat) : Chk := [(3, decide (120 ≤ x)), (2, decide (x ≠ 0))]

/-- A field that must be zero, with the code of its breach. -/
def chkZ (code x : Nat) : Chk := [(code, decide (x ≠ 0))]

/-- A type code within a set (R474, code 0x05). -/
def chkTy (p : Ty → Bool) (n : Nat) : Chk := [(5, !((Ty.ofCode n).any p))]

/-- A code that must name something (the condition, operation or function codes of R474, code 0x06). -/
def chkSome {α : Type} (code : Nat) (x : Option α) (p : α → Bool) : Chk := [(code, !(x.any p))]

/-- What the decoder finds: the class 1 codes that the word raises, and the instruction that its fields spell. -/
structure Dec where
  codes : List Nat
  instr : Instr
  deriving DecidableEq, Repr

/-- The codes of the checks that fail. -/
def failing : Chk → List Nat
  | [] => []
  | (c, b) :: t => if b then c :: failing t else failing t

/-- The codes with the mark of a wrong vector or mask kind read as given. -/
def kindAs (c : Nat) (l : List Nat) : List Nat := l.map fun x => if x = kindMark then c else x

/-- The code that the record carries: 0x03 before every other, and otherwise the lowest (R473). -/
def pickCode : List Nat → Option Nat
  | [] => none
  | c :: t => if (c :: t).contains 3 then some 3 else some (t.foldl Nat.min c)

def dec (c : Chk) (i : Instr) : Option Dec := some ⟨failing c, i⟩

def sreg (x : Nat) : SReg := BitVec.ofNat 6 x
def vreg (x : Nat) : VReg := BitVec.ofNat 5 x
def preg (x : Nat) : PReg := BitVec.ofNat 3 x
def mreg (x : Nat) : MReg := BitVec.ofNat 3 x
def lreg (x : Nat) : LReg := BitVec.ofNat 2 x
def tyD (n : Nat) : Ty := (Ty.ofCode n).getD .i8
def mskD (f : FmtA) : Msk := ⟨mreg f.msk, f.mz == 1⟩

/-- The specifiers of the register kinds (R169). -/
def specV (v : VReg) : Nat := 64 + v.toNat
def specP (p : PReg) : Nat := 96 + p.toNat
def specM (m : MReg) : Nat := 104 + m.toNat
def specT (t : LReg) : Nat := 116 + t.toNat

/-! ### Shapes of the A format -/

/-- MSK, MZ, SAT and bit 8 all zero. -/
def chkPlain (f : FmtA) : Chk := chkZ 2 f.msk ++ chkZ 9 f.mz ++ chkZ 9 f.sat ++ chkZ 2 f.res

/-- A mask is permitted; SAT and bit 8 are zero. -/
def chkMasked (f : FmtA) : Chk := chkZ 9 f.sat ++ chkZ 2 f.res

/-- d, s1, s2 scalars with a type (R200, R201). -/
def shS3 (f : FmtA) (k : SReg → SReg → SReg → Ty → Instr) : Option Dec :=
  dec (chkS f.d ++ chkS f.s1 ++ chkS f.s2 ++ chk0 f.s3 ++ chkTy Ty.isInt f.ty ++ chkPlain f ++ chkZ 2 f.sub)
    (k (sreg f.d) (sreg f.s1) (sreg f.s2) (tyD f.ty))

/-- The same with SAT permitted. -/
def shS3Sat (f : FmtA) (k : SReg → SReg → SReg → Ty → Bool → Instr) : Option Dec :=
  dec (chkS f.d ++ chkS f.s1 ++ chkS f.s2 ++ chk0 f.s3 ++ chkTy Ty.isInt f.ty ++ chkZ 2 f.msk ++ chkZ 9 f.mz
      ++ chkZ 2 f.res ++ chkZ 2 f.sub)
    (k (sreg f.d) (sreg f.s1) (sreg f.s2) (tyD f.ty) (f.sat == 1))

/-- d, s1 scalars with a type. -/
def shS2 (f : FmtA) (k : SReg → SReg → Ty → Instr) : Option Dec :=
  dec (chkS f.d ++ chkS f.s1 ++ chk0 f.s2 ++ chk0 f.s3 ++ chkTy Ty.isInt f.ty ++ chkPlain f ++ chkZ 2 f.sub)
    (k (sreg f.d) (sreg f.s1) (tyD f.ty))

/-- All fields below HOLD zero. -/
def shNone (f : FmtA) (i : Instr) : Option Dec :=
  dec (chk0 f.d ++ chk0 f.s1 ++ chk0 f.s2 ++ chk0 f.s3 ++ chkZ 2 f.ty ++ chkPlain f ++ chkZ 2 f.sub) i

/-- Three vectors, a type and a mask (R239, R242). -/
def shV3 (p : Ty → Bool) (f : FmtA) (k : VReg → VReg → VReg → Ty → Msk → Instr) : Option Dec :=
  dec (chkV f.d ++ chkV f.s1 ++ chkV f.s2 ++ chk0 f.s3 ++ chkTy p f.ty ++ chkMasked f ++ chkZ 2 f.sub)
    (k (vreg f.d) (vreg f.s1) (vreg f.s2) (tyD f.ty) (mskD f))

/-- The same with SAT permitted. -/
def shV3Sat (f : FmtA) (k : VReg → VReg → VReg → Ty → Bool → Msk → Instr) : Option Dec :=
  dec (chkV f.d ++ chkV f.s1 ++ chkV f.s2 ++ chk0 f.s3 ++ chkTy Ty.isIT f.ty ++ chkZ 2 f.res ++ chkZ 2 f.sub)
    (k (vreg f.d) (vreg f.s1) (vreg f.s2) (tyD f.ty) (f.sat == 1) (mskD f))

/-- Four vectors, an FP type and a mask. -/
def shV4 (f : FmtA) (k : VReg → VReg → VReg → VReg → Ty → Msk → Instr) : Option Dec :=
  dec (chkV f.d ++ chkV f.s1 ++ chkV f.s2 ++ chkV f.s3 ++ chkTy Ty.isFT f.ty ++ chkMasked f ++ chkZ 2 f.sub)
    (k (vreg f.d) (vreg f.s1) (vreg f.s2) (vreg f.s3) (tyD f.ty) (mskD f))

/-- Two vectors, a type and a mask. -/
def shV2 (p : Ty → Bool) (f : FmtA) (k : VReg → VReg → Ty → Msk → Instr) : Option Dec :=
  dec (chkV f.d ++ chkV f.s1 ++ chk0 f.s2 ++ chk0 f.s3 ++ chkTy p f.ty ++ chkMasked f ++ chkZ 2 f.sub)
    (k (vreg f.d) (vreg f.s1) (tyD f.ty) (mskD f))

/-- A scalar from a vector under a mask without MZ, f32 only (R250). -/
def shRed (f : FmtA) (k : SReg → VReg → MReg → Instr) : Option Dec :=
  dec (chkS f.d ++ chkV f.s1 ++ chk0 f.s2 ++ chk0 f.s3 ++ chkTy (· == .f32) f.ty ++ chkZ 9 f.mz ++ chkMasked f
      ++ chkZ 2 f.sub)
    (k (sreg f.d) (vreg f.s1) (mreg f.msk))

/-- VPACK and VUNPK (R256). -/
def shPack (f : FmtA) (k : VReg → VReg → SReg → Ty → Bool → Instr) : Option Dec :=
  dec (chkV f.d ++ chkV f.s1 ++ chkS f.s2 ++ chk0 f.s3 ++ chkTy Ty.packOk f.ty ++ chkPlain f
      ++ chkZ 2 (bitsOf f.sub 1 7)
      ++ [(6, bitsOf f.sub 0 1 == 1 && !(Ty.ofCode f.ty).any Ty.isMX)])
    (k (vreg f.d) (vreg f.s1) (sreg f.s2) (tyD f.ty) (bitsOf f.sub 0 1 == 1))

/-- PMOV, by its form (R212). -/
def decPmov (g : Guard) (f : FmtA) : Option Dec :=
  let c := chk0 f.s2 ++ chk0 f.s3 ++ chkZ 2 f.ty ++ chkPlain f ++ chkZ 2 (bitsOf f.sub 2 6)
  match bitsOf f.sub 0 2 with
  | 0 => dec (chkS f.d ++ chk0 f.s1 ++ c) (.pmov g (.pk (sreg f.d)))
  | 1 => dec (chk0 f.d ++ chkS f.s1 ++ c) (.pmov g (.upk (sreg f.s1)))
  | 2 => dec (chkP f.d ++ chkS f.s1 ++ c) (.pmov g (.sp (preg (f.d - 96)) (sreg f.s1)))
  | _ => dec (chkS f.d ++ chkP f.s1 ++ c) (.pmov g (.ps (sreg f.d) (preg (f.s1 - 96))))

/-- The A format, by major opcode (R186). -/
def decA (op : Nat) (g : Guard) (f : FmtA) : Option Dec :=
  match op with
  | 0x001 => shS3Sat f (.add g)
  | 0x002 => shS3Sat f (.sub g)
  | 0x003 => shS3Sat f (.mul g)
  | 0x004 => shS3 f (.mulh g)
  | 0x005 => shS3 f (.div g)
  | 0x006 => shS3 f (.rem g)
  | 0x007 => shS3 f (.and g)
  | 0x008 => shS3 f (.or g)
  | 0x009 => shS3 f (.xor g)
  | 0x00A => shS3 f (.andn g)
  | 0x00B => shS3 f (.shl g)
  | 0x00C => shS3 f (.shr g)
  | 0x00D => shS3 f (.sar g)
  | 0x00E => shS3 f (.rotl g)
  | 0x00F => shS3 f (.min g)
  | 0x010 => shS3 f (.max g)
  | 0x011 => dec (chkS f.d ++ chkS f.s1 ++ chk0 f.s2 ++ chk0 f.s3 ++ chkTy Ty.isSigned f.ty ++ chkZ 2 f.msk ++ chkZ 9 f.mz
      ++ chkZ 2 f.res ++ chkZ 2 f.sub)
      (.abs g (sreg f.d) (sreg f.s1) (tyD f.ty) (f.sat == 1))
  | 0x012 => shS2 f (.clz g)
  | 0x013 => shS2 f (.ctz g)
  | 0x014 => shS2 f (.popc g)
  | 0x015 => shS2 f (.bswap g)
  | 0x018 => dec (chkS f.d ++ chkS f.s1 ++ chkS f.s2 ++ chk0 f.s3 ++ chkZ 2 f.ty ++ chkPlain f ++ chkZ 2 (bitsOf f.sub 2 6))
      (.lea g (sreg f.d) (sreg f.s1) (sreg f.s2) (BitVec.ofNat 2 (bitsOf f.sub 0 2)))
  | 0x01B => shS2 f (.mov g)
  | 0x01C => dec (chkP f.d ++ chkS f.s1 ++ chkS f.s2 ++ chk0 f.s3 ++ chkTy Ty.isInt f.ty ++ chkPlain f
      ++ chkZ 2 (bitsOf f.sub 4 4) ++ chkSome 6 (Cond.ofCode (bitsOf f.sub 0 4)) Cond.isIntCond)
      (.cmp g (preg (f.d - 96)) (sreg f.s1) (sreg f.s2) (tyD f.ty) ((Cond.ofCode (bitsOf f.sub 0 4)).getD .eq))
  | 0x01D => dec (chkS f.d ++ chkS f.s1 ++ chkS f.s2 ++ chkP f.s3 ++ chkZ 2 f.ty ++ chkPlain f ++ chkZ 2 f.sub)
      (.csel g (sreg f.d) (sreg f.s1) (sreg f.s2) (preg (f.s3 - 96)))
  | 0x01E => dec (chkP f.d ++ chkP f.s1 ++ chkP f.s2 ++ chk0 f.s3 ++ chkZ 2 f.ty ++ chkPlain f ++ chkZ 2 (bitsOf f.sub 4 4))
      (.plog g (preg (f.d - 96)) (preg (f.s1 - 96)) (preg (f.s2 - 96)) (BitVec.ofNat 4 (bitsOf f.sub 0 4)))
  | 0x01F => decPmov g f
  | 0x080 => shNone f (.nop g)
  | 0x104 => dec (chkS f.d ++ chkS f.s1 ++ chkS f.s2 ++ chkS f.s3
      ++ [(2, f.s3 != 0 && (AOp.ofCode (bitsOf f.sub 0 4)) != some .cas)] ++ chkPlain f
      ++ chkZ 2 (bitsOf f.sub 4 4) ++ chkSome 6 (AOp.ofCode (bitsOf f.sub 0 4)) (fun _ => true)
      ++ chkTy (fun t => match AOp.ofCode (bitsOf f.sub 0 4) with
          | some o => if o.isFP then t == .f32 else t.isInt
          | none => t.isInt || t == .f32) f.ty)
      (.latom g (sreg f.d) (sreg f.s1) (sreg f.s2) (sreg f.s3) (tyD f.ty)
        ((AOp.ofCode (bitsOf f.sub 0 4)).getD .store))
  | 0x105 => shNone f (.cwb g)
  | 0x107 => shNone f (.fetchb g)
  | 0x10A => dec (chkV f.d ++ chkS f.s1 ++ chkS f.s2 ++ chk0 f.s3 ++ chkTy Ty.isET f.ty ++ chkMasked f ++ chkZ 2 f.sub)
      (.vlds g (vreg f.d) (sreg f.s1) (sreg f.s2) (tyD f.ty) (mskD f))
  | 0x10B => dec (chk0 f.d ++ chkS f.s1 ++ chkS f.s2 ++ chkV f.s3 ++ chkTy Ty.isET f.ty ++ chkZ 9 f.mz ++ chkMasked f
      ++ chkZ 2 f.sub)
      (.vsts g (sreg f.s1) (sreg f.s2) (vreg f.s3) (tyD f.ty) (mreg f.msk))
  | 0x10C => dec (chkV f.d ++ chkS f.s1 ++ chkV f.s2 ++ chk0 f.s3 ++ chkTy Ty.isET f.ty ++ chkMasked f
      ++ chkZ 2 (bitsOf f.sub 2 6))
      (.vgath g (vreg f.d) (sreg f.s1) (vreg f.s2) (tyD f.ty) (mskD f) (BitVec.ofNat 2 (bitsOf f.sub 0 2)))
  | 0x10D => dec (chk0 f.d ++ chkS f.s1 ++ chkV f.s2 ++ chkV f.s3 ++ chkTy Ty.isET f.ty ++ chkZ 9 f.mz ++ chkMasked f
      ++ chkZ 2 (bitsOf f.sub 2 6))
      (.vscat g (sreg f.s1) (vreg f.s2) (vreg f.s3) (tyD f.ty) (mreg f.msk) (BitVec.ofNat 2 (bitsOf f.sub 0 2)))
  | 0x180 => shV3 Ty.isFT f (.vadd g)
  | 0x181 => shV3 Ty.isFT f (.vsub g)
  | 0x182 => shV3 Ty.isFT f (.vmul g)
  | 0x183 => shV4 f (.vfma g)
  | 0x184 => shV4 f (.vfms g)
  | 0x185 => shV3 Ty.isFT f (.vmin g)
  | 0x186 => shV3 Ty.isFT f (.vmax g)
  | 0x187 => shV2 Ty.isFT f (.vabs g)
  | 0x188 => shV2 Ty.isFT f (.vneg g)
  | 0x189 => dec (chkM f.d ++ chkV f.s1 ++ chkV f.s2 ++ chk0 f.s3 ++ chkTy Ty.isFT f.ty ++ chkMasked f
      ++ chkZ 2 (bitsOf f.sub 4 4) ++ chkSome 6 (Cond.ofCode (bitsOf f.sub 0 4)) (fun _ => true))
      (.vcmpf g (mreg (f.d - 104)) (vreg f.s1) (vreg f.s2) (tyD f.ty) ((Cond.ofCode (bitsOf f.sub 0 4)).getD .eq)
        (mskD f))
  | 0x18A => shV2 Ty.isFT f (.vclass g)
  | 0x18B => shV2 (· == .f32) f (fun d a _ m => .vexp2 g d a m)
  | 0x18C => shV2 (· == .f32) f (fun d a _ m => .vlog2 g d a m)
  | 0x18D => shV2 (· == .f32) f (fun d a _ m => .vrcp g d a m)
  | 0x18E => shV2 (· == .f32) f (fun d a _ m => .vrsq g d a m)
  | 0x18F => shRed f (.vredadd g)
  | 0x190 => shRed f (.vredmax g)
  | 0x191 => shRed f (.vredmin g)
  | 0x192 => shV2 (· == .f32) f (fun d a _ m => .vscan g d a m)
  | 0x193 => dec (chkV f.d ++ chkV f.s1 ++ chk0 f.s2 ++ chk0 f.s3 ++ chkMasked f
      ++ [(5, !((Ty.ofCode f.ty).any fun t => (Ty.ofCode (bitsOf f.sub 3 5)).any fun s => Ty.cvtOk s t))])
      (.vcvt g (vreg f.d) (vreg f.s1) (tyD f.ty) (tyD (bitsOf f.sub 3 5)) (BitVec.ofNat 3 (bitsOf f.sub 0 3)) (mskD f))
  | 0x194 => shPack f (.vpack g)
  | 0x195 => shPack f (.vunpk g)
  | 0x200 => shV3Sat f (.viadd g)
  | 0x201 => shV3Sat f (.visub g)
  | 0x202 => shV3Sat f (.vimul g)
  | 0x203 => shV3 Ty.isIT f (.vimulh g)
  | 0x204 => shV3 Ty.isIT f (.vand g)
  | 0x205 => shV3 Ty.isIT f (.vor g)
  | 0x206 => shV3 Ty.isIT f (.vxor g)
  | 0x207 => shV3 Ty.isIT f (.vshl g)
  | 0x208 => shV3 Ty.isIT f (.vshr g)
  | 0x209 => shV3 Ty.isIT f (.vsar g)
  | 0x20B => shV3 Ty.isIT f (.vimin g)
  | 0x20C => shV3 Ty.isIT f (.vimax g)
  | 0x20A => dec (chkM f.d ++ chkV f.s1 ++ chkV f.s2 ++ chk0 f.s3 ++ chkTy Ty.isIT f.ty ++ chkMasked f
      ++ chkZ 2 (bitsOf f.sub 4 4) ++ chkSome 6 (Cond.ofCode (bitsOf f.sub 0 4)) Cond.isIntCond)
      (.vicmp g (mreg (f.d - 104)) (vreg f.s1) (vreg f.s2) (tyD f.ty) ((Cond.ofCode (bitsOf f.sub 0 4)).getD .eq)
        (mskD f))
  | 0x20D => dec (chkS f.d ++ chkV f.s1 ++ chk0 f.s2 ++ chk0 f.s3 ++ chkTy Ty.isIT f.ty ++ chkZ 9 f.mz ++ chkMasked f
      ++ chkZ 2 (bitsOf f.sub 4 4) ++ chkSome 6 (RedOp.ofCode (bitsOf f.sub 0 4)) (fun _ => true))
      (.vired g (sreg f.d) (vreg f.s1) (tyD f.ty) ((RedOp.ofCode (bitsOf f.sub 0 4)).getD .add) (mreg f.msk))
  | 0x20E => dec (chkV f.d ++ chkS f.s1 ++ chk0 f.s2 ++ chk0 f.s3 ++ chkTy Ty.isET f.ty ++ chkMasked f ++ chkZ 2 f.sub)
      (.vbcast g (vreg f.d) (sreg f.s1) (tyD f.ty) (mskD f))
  | 0x20F => dec (chkS f.d ++ chkV f.s1 ++ chkS f.s2 ++ chk0 f.s3 ++ chkTy Ty.isET f.ty ++ chkPlain f ++ chkZ 2 f.sub)
      (.vext g (sreg f.d) (vreg f.s1) (sreg f.s2) (tyD f.ty))
  | 0x210 => dec (chkV f.d ++ chkS f.s1 ++ chkS f.s2 ++ chk0 f.s3 ++ chkTy Ty.isET f.ty ++ chkPlain f ++ chkZ 2 f.sub)
      (.vins g (vreg f.d) (sreg f.s1) (sreg f.s2) (tyD f.ty))
  | 0x211 => dec (chkV f.d ++ chkV f.s1 ++ chkV f.s2 ++ chkM f.s3 ++ chkZ 2 f.ty ++ chkPlain f ++ chkZ 2 f.sub)
      (.vsel g (vreg f.d) (vreg f.s1) (vreg f.s2) (mreg (f.s3 - 104)))
  | 0x212 => dec (chkV f.d ++ chkV f.s1 ++ chkV f.s2 ++ chk0 f.s3 ++ chkZ 2 f.ty ++ chkMasked f ++ chkZ 2 (bitsOf f.sub 1 7))
      (.vpermb g (vreg f.d) (vreg f.s1) (vreg f.s2) (bitsOf f.sub 0 1 == 1) (mskD f))
  | 0x213 => dec (chkV f.d ++ chkV f.s1 ++ chkV f.s2 ++ chk0 f.s3 ++ chkZ 2 f.ty ++ chkMasked f ++ chkZ 2 f.sub)
      (.vshuf g (vreg f.d) (vreg f.s1) (vreg f.s2) (mskD f))
  | 0x214 => dec (chkV f.d ++ chkV f.s1 ++ chkV f.s2 ++ chkS f.s3 ++ chkZ 2 f.ty ++ chkMasked f ++ chkZ 2 (bitsOf f.sub 1 7))
      (.vslide g (vreg f.d) (vreg f.s1) (vreg f.s2) (sreg f.s3) (bitsOf f.sub 0 1 == 1) (mskD f))
  | 0x215 => dec (chkV f.d ++ chkS f.s1 ++ chk0 f.s2 ++ chk0 f.s3 ++ chkZ 2 f.ty ++ chkMasked f ++ chkZ 2 f.sub)
      (.viota g (vreg f.d) (sreg f.s1) (mskD f))
  | 0x216 => dec (chkM f.d ++ chkM f.s1 ++ chkM f.s2 ++ chk0 f.s3 ++ chkZ 2 f.ty ++ chkPlain f ++ chkZ 2 (bitsOf f.sub 4 4))
      (.mlog g (mreg (f.d - 104)) (mreg (f.s1 - 104)) (mreg (f.s2 - 104)) (BitVec.ofNat 4 (bitsOf f.sub 0 4)))
  | 0x217 => dec (chkS f.d ++ chkM f.s1 ++ chk0 f.s2 ++ chk0 f.s3 ++ chkZ 2 f.ty ++ chkPlain f ++ chkZ 2 f.sub)
      (.mfirst g (sreg f.d) (mreg (f.s1 - 104)))
  | 0x218 => dec (chkS f.d ++ chkM f.s1 ++ chk0 f.s2 ++ chk0 f.s3 ++ chkZ 2 f.ty ++ chkPlain f ++ chkZ 2 f.sub)
      (.mpopc g (sreg f.d) (mreg (f.s1 - 104)))
  | 0x219 => dec (chkM f.d ++ chkS f.s1 ++ chkS f.s2 ++ [(2, bitsOf f.sub 0 1 == 1 && f.s2 != 0)] ++ chk0 f.s3 ++ chkZ 2 f.ty
      ++ chkPlain f ++ chkZ 2 (bitsOf f.sub 1 7))
      (.mset g (mreg (f.d - 104)) (sreg f.s1) (sreg f.s2) (bitsOf f.sub 0 1 == 1))
  | 0x21A => dec (chkS f.d ++ chkM f.s1 ++ chk0 f.s2 ++ chk0 f.s3 ++ chkZ 2 f.ty ++ chkPlain f ++ chkZ 2 (bitsOf f.sub 1 7))
      (.mget g (sreg f.d) (mreg (f.s1 - 104)) (bitsOf f.sub 0 1 == 1))
  | _ => none

/-- An immediate form (R187, R202). -/
def shImm (f : FmtI) (k : SReg → SReg → BitVec 33 → Instr) : Option Dec :=
  dec (chkS f.d ++ chkS f.s1) (k (sreg f.d) (sreg f.s1) (BitVec.ofNat 33 f.imm))

/-- BFX and BFI (R207). -/
def shBf (f : FmtI) (k : SReg → SReg → BitVec 6 → BitVec 7 → Instr) : Option Dec :=
  dec (chkS f.d ++ chkS f.s1 ++ chkZ 2 (bitsOf f.imm 13 20)
      ++ [(0xD, decide (bitsOf f.imm 6 7 = 0) || decide (64 < bitsOf f.imm 6 7))])
    (k (sreg f.d) (sreg f.s1) (BitVec.ofNat 6 (bitsOf f.imm 0 6)) (BitVec.ofNat 7 (bitsOf f.imm 6 7)))

/-- The I format, by major opcode. -/
def decI (op : Nat) (g : Guard) (f : FmtI) : Option Dec :=
  match op with
  | 0x016 => shBf f (.bfx g)
  | 0x017 => shBf f (.bfi g)
  | 0x019 => dec (chkS f.d ++ chk0 f.s1) (.movi g (sreg f.d) (BitVec.ofNat 33 f.imm))
  | 0x01A => dec (chkS f.d ++ chkS f.s1 ++ chkZ 0xD (bitsOf f.imm 32 1))
      (.movhi g (sreg f.d) (sreg f.s1) (BitVec.ofNat 32 (bitsOf f.imm 0 32)))
  | 0x021 => shImm f (.addImm g)
  | 0x022 => shImm f (.subImm g)
  | 0x023 => shImm f (.mulImm g)
  | 0x027 => shImm f (.andImm g)
  | 0x028 => shImm f (.orImm g)
  | 0x029 => shImm f (.xorImm g)
  | 0x02B => shImm f (.shlImm g)
  | 0x02C => shImm f (.shrImm g)
  | 0x02D => shImm f (.sarImm g)
  | 0x02E => shImm f (.rotlImm g)
  | 0x02F => shImm f (.minImm g)
  | 0x030 => shImm f (.maxImm g)
  | 0x038 => shImm f (.leaImm g)
  | 0x03C => dec (chkP f.d ++ chkS f.s1 ++ chkSome 0xD (Cond.ofCode (bitsOf f.imm 0 4)) Cond.isIntCond)
      (.cmpImm g (preg (f.d - 96)) (sreg f.s1) ((Cond.ofCode (bitsOf f.imm 0 4)).getD .eq) (bitsOf f.imm 4 1 == 1)
        (BitVec.ofNat 28 (bitsOf f.imm 5 28)))
  | _ => none

/-- SIZE of the M format, up to a greatest value (R179). -/
def chkSize (most x : Nat) : Chk := [(8, decide (most < x))]

/-- SCOPE of an instruction that permits the codes of R131 (R221). -/
def chkScope (x : Nat) : Chk := [(7, decide (4 < x))]

def scopeD (x : Nat) : Scope := (Scope.ofCode x).getD .slot

/-- An odd scalar specifier where an even one is asked for (R219, R306); a field of another kind has its own code (R486). -/
def oddS (x : Nat) : Bool := decide (x < 64) && x % 2 == 1

/-- An even DATA (R219). -/
def chkEven (x : Nat) : Chk := chkS x ++ [(4, oddS x)]

/-- The M format, by major opcode (R219, R226, R243). -/
def decM (op : Nat) (g : Guard) (f : FmtM) : Option Dec :=
  match op with
  | 0x100 => dec (chkS f.d ++ chkS f.s1 ++ chkSize 3 f.size ++ chkZ 7 f.scope ++ [(9, f.sx == 1 && f.size == 3)])
      (.ld g (sreg f.d) (sreg f.s1) (BitVec.ofNat 2 f.size) (f.sx == 1) (BitVec.ofNat 26 f.off))
  | 0x101 => dec (chkS f.d ++ chkS f.s1 ++ chkSize 3 f.size ++ chkScope f.scope ++ chkZ 9 f.sx)
      (.st g (sreg f.d) (sreg f.s1) (BitVec.ofNat 2 f.size) (scopeD f.scope) (BitVec.ofNat 26 f.off))
  | 0x102 => dec (chkEven f.d ++ chkS f.s1 ++ chkSize 3 f.size ++ chkZ 7 f.scope ++ [(9, f.sx == 1 && f.size == 3)])
      (.ldp g (BitVec.ofNat 5 (f.d / 2)) (sreg f.s1) (BitVec.ofNat 2 f.size) (f.sx == 1) (BitVec.ofNat 26 f.off))
  | 0x103 => dec (chkEven f.d ++ chkS f.s1 ++ chkSize 3 f.size ++ chkScope f.scope ++ chkZ 9 f.sx)
      (.stp g (BitVec.ofNat 5 (f.d / 2)) (sreg f.s1) (BitVec.ofNat 2 f.size) (scopeD f.scope) (BitVec.ofNat 26 f.off))
  | 0x106 => dec (chkS f.d ++ chkS f.s1 ++ chkZ 8 f.size ++ chkZ 7 f.scope ++ chkZ 9 f.sx)
      (.iinv g (sreg f.d) (sreg f.s1) (BitVec.ofNat 26 f.off))
  | 0x108 => dec (chkV f.d ++ chkS f.s1 ++ chkSize 2 f.size ++ chkZ 7 f.scope ++ [(9, f.sx == 1 && f.size == 3)])
      (.vld g (vreg f.d) (sreg f.s1) (BitVec.ofNat 2 f.size) (f.sx == 1) (BitVec.ofNat 26 f.off))
  | 0x109 => dec (chkV f.d ++ chkS f.s1 ++ chkSize 2 f.size ++ chkScope f.scope ++ chkZ 9 f.sx)
      (.vst g (vreg f.d) (sreg f.s1) (BitVec.ofNat 2 f.size) (scopeD f.scope) (BitVec.ofNat 26 f.off))
  | _ => none

/-- The J format, by major opcode (R215). -/
def decJ (op : Nat) (g : Guard) (f : FmtJ) : Option Dec :=
  match op with
  | 0x081 => dec (chk0 f.lc) (.br g (BitVec.ofNat 40 f.off))
  | 0x082 => dec (chkS f.lc) (.jmp g (sreg f.lc) (BitVec.ofNat 40 f.off))
  | 0x083 => dec (chkS f.lc) (.call g (sreg f.lc) (BitVec.ofNat 40 f.off))
  | 0x084 => dec (chkS f.lc ++ chkZ 2 f.off) (.ret g (sreg f.lc))
  | 0x085 => dec (chkS f.lc ++ [(4, f.lc == 0)]) (.loop g (sreg f.lc) (BitVec.ofNat 40 f.off))
  | _ => none

/-- The Y format, by major opcode (R216 to R218, R228, R229, R232, R465). -/
def decY (op : Nat) (g : Guard) (f : FmtY) : Option Dec :=
  match op with
  | 0x086 => dec (chk0 f.d ++ chk0 f.s1 ++ chkZ 2 f.sys) (.yield g (BitVec.ofNat 21 f.imm))
  | 0x087 => dec (chk0 f.d ++ chkS f.s1 ++ chkZ 2 f.sys) (.sleep g (sreg f.s1) (BitVec.ofNat 21 f.imm))
  | 0x088 => dec (chk0 f.d ++ chk0 f.s1 ++ chkZ 2 f.sys ++ chkZ 2 f.imm) (.endSlot g)
  | 0x089 => dec (chk0 f.d ++ chk0 f.s1 ++ chkZ 2 f.sys) (.trap g (BitVec.ofNat 21 f.imm))
  | 0x08A => dec (chk0 f.d ++ chk0 f.s1 ++ chkZ 2 f.sys ++ chkZ 2 (bitsOf f.imm 1 20)) (.eret g (bitsOf f.imm 0 1 == 1))
  | 0x08B => dec (chkS f.d ++ chk0 f.s1 ++ chkZ 2 f.imm) (.mfs g (sreg f.d) (BitVec.ofNat 12 f.sys))
  | 0x08C => dec (chk0 f.d ++ chkS f.s1 ++ chkZ 2 f.imm) (.mts g (BitVec.ofNat 12 f.sys) (sreg f.s1))
  | 0x08D => dec (chkS f.d ++ chk0 f.s1 ++ chkZ 2 f.sys ++ chkZ 2 f.imm) (.cycle g (sreg f.d))
  | 0x08E => dec (chkS f.d ++ chk0 f.s1 ++ chkZ 2 f.sys ++ chkZ 2 f.imm) (.time g (sreg f.d))
  | 0x08F => dec (chkS f.d ++ chkS f.s1 ++ chkZ 2 f.sys ++ chkZ 2 f.imm) (.capq g (sreg f.d) (sreg f.s1))
  | 0x090 => dec (chkS f.d ++ chk0 f.s1 ++ chkZ 2 f.sys ++ chkZ 2 (bitsOf f.imm 3 1) ++ chkZ 2 (bitsOf f.imm 8 13)
        ++ chkSome 6 (WidqFn.ofCode (bitsOf f.imm 4 4)) (fun _ => true)
        ++ [(6, bitsOf f.imm 0 3 == 7 || (bitsOf f.imm 4 4 == 3 && bitsOf f.imm 0 3 != 0))])
      (.widq g (sreg f.d) ((WidqFn.ofCode (bitsOf f.imm 4 4)).getD .fld) (BitVec.ofNat 3 (bitsOf f.imm 0 3)))
  | _ => none

/-! ### The X format -/

def qtagX (f : FmtX) : QTag := ⟨BitVec.ofNat 6 (bitsOf f.sub 8 6), bitsOf f.sub 7 1 == 1⟩

/-- TE and TAG of a queued instruction (R260). -/
def chkQX (f : FmtX) : Chk := [(9, bitsOf f.sub 7 1 == 0 && bitsOf f.sub 8 6 != 0)]

/-- FMT where no use is stated (R183, R487). -/
def chkFmt0 (f : FmtX) : Chk := chkZ 6 f.fmt

/-- A plane width: signed form with w = 1 is none. -/
def chkPlane (uns npl : Nat) : Chk := [(0xC, uns == 0 && npl == 0)]

def accD (f : FmtX) : BitVec 2 := BitVec.ofNat 2 f.acc

/-- A row operation with its specifier fields checked elsewhere; NPL, FMT and SUB[6:0] zero (R269). -/
def chkRow (f : FmtX) : Chk := chkZ 2 f.npl ++ chkFmt0 f ++ chkQX f ++ chkZ 2 (bitsOf f.sub 0 7)

/-- A row operation with the head dimension in SUB[1]. -/
def chkRowD (f : FmtX) : Chk :=
  chkZ 2 f.npl ++ chkFmt0 f ++ chkQX f ++ chkZ 2 (bitsOf f.sub 0 1) ++ chkZ 2 (bitsOf f.sub 2 5)

/-- ACC, NPL and FMT zero, for the instructions of group 6. -/
def chkNoAcc (f : FmtX) : Chk := chkZ 2 f.acc ++ chkZ 2 f.npl ++ chkFmt0 f

/-- A queued instruction of group 6 whose SUB[6:0] is zero. -/
def chkQ6 (f : FmtX) : Chk := chkNoAcc f ++ chkQX f ++ chkZ 2 (bitsOf f.sub 0 7)

/-- A shard instruction with a modifier in SUB[0] (R291). -/
def chkShard (f : FmtX) : Chk :=
  chkS f.d ++ chkS f.s1 ++ chkS f.s2 ++ chkNoAcc f ++ chkQX f ++ chkZ 2 (bitsOf f.sub 1 6)

/-- The X format, by major opcode (R267 to R291). -/
def decX (op : Nat) (g : Guard) (f : FmtX) : Option Dec :=
  match op with
  | 0x280 => dec (chkS f.d ++ chkS f.s1 ++ chkS f.s2 ++ chkZ 2 f.acc ++ chkQX f ++ chkZ 2 (bitsOf f.sub 0 7)
        ++ chkSome 6 (Ty.ofCode (bitsOf f.fmt 0 5)) Ty.pldOk ++ chkPlane (bitsOf f.fmt 5 1) f.npl)
      (.pld g (sreg f.d) (sreg f.s1) (sreg f.s2) (tyD (bitsOf f.fmt 0 5)) (bitsOf f.fmt 5 1 == 1)
        (BitVec.ofNat 4 f.npl) (qtagX f))
  | 0x281 => dec (chkS f.d ++ chkV f.s1 ++ chkS f.s2 ++ chkZ 2 f.acc ++ chkQX f ++ chkZ 2 (bitsOf f.sub 0 7)
        ++ chkSome 6 (Ty.ofCode (bitsOf f.fmt 0 5)) Ty.isFT ++ chkPlane (bitsOf f.fmt 5 1) f.npl)
      (.pldv g (sreg f.d) (vreg f.s1) (sreg f.s2) (tyD (bitsOf f.fmt 0 5)) (bitsOf f.fmt 5 1 == 1)
        (BitVec.ofNat 4 f.npl) (qtagX f))
  | 0x282 => dec (chk0 f.d ++ chk0 f.s1 ++ chk0 f.s2 ++ chkRow f) (.az g (accD f) (qtagX f))
  | 0x283 => dec (chk0 f.d ++ chkS f.s1 ++ chkS f.s2 ++ chkQX f ++ chkPlane (bitsOf f.fmt 0 1) (bitsOf f.fmt 1 4)
        ++ chkPlane (bitsOf f.fmt 5 1) f.npl)
      (.mma g (sreg f.s1) (sreg f.s2) (accD f) (BitVec.ofNat 4 (bitsOf f.fmt 1 4)) (BitVec.ofNat 4 f.npl)
        (bitsOf f.fmt 0 1 == 1) (bitsOf f.fmt 5 1 == 1) (bitsOf f.sub 6 1 == 1) (BitVec.ofNat 6 (bitsOf f.sub 0 6))
        (qtagX f))
  | 0x284 => dec (chk0 f.d ++ chkS f.s1 ++ chkS f.s2 ++ chkRow f) (.ard g (sreg f.s1) (sreg f.s2) (accD f) (qtagX f))
  | 0x285 => dec (chk0 f.d ++ chkS f.s1 ++ chkS f.s2 ++ chkRow f) (.awr g (sreg f.s1) (sreg f.s2) (accD f) (qtagX f))
  | 0x286 => dec (chk0 f.d ++ chkS f.s1 ++ chk0 f.s2 ++ chkRow f) (.ascl g (sreg f.s1) (accD f) (qtagX f))
  | 0x287 => dec (chk0 f.d ++ chkS f.s1 ++ chkS f.s2 ++ chkRow f)
      (.arowmax g (sreg f.s1) (sreg f.s2) (accD f) (qtagX f))
  | 0x288 => dec (chk0 f.d ++ chkS f.s1 ++ chk0 f.s2 ++ chkRow f) (.aexp g (sreg f.s1) (accD f) (qtagX f))
  | 0x289 => dec (chk0 f.d ++ chkS f.s1 ++ chkS f.s2 ++ chkRow f)
      (.arowsum g (sreg f.s1) (sreg f.s2) (accD f) (qtagX f))
  | 0x28A => dec (chk0 f.d ++ chkS f.s1 ++ chk0 f.s2 ++ chkQX f ++ chkZ 2 (bitsOf f.sub 0 7)
        ++ [(6, bitsOf f.fmt 0 5 != 8)] ++ chkPlane (bitsOf f.fmt 5 1) f.npl)
      (.acvt g (sreg f.s1) (accD f) (bitsOf f.fmt 5 1 == 1) (BitVec.ofNat 4 f.npl) (qtagX f))
  | 0x28B => dec (chk0 f.d ++ chkS f.s1 ++ chkS f.s2 ++ chkRow f) (.amask g (sreg f.s1) (sreg f.s2) (accD f) (qtagX f))
  | 0x28C => dec (chkS f.d ++ chkS f.s1 ++ chkS f.s2 ++ chkQX f ++ chkZ 2 (bitsOf f.sub 2 5)
        ++ chkZ 0xC (bitsOf f.fmt 0 1) ++ chkPlane 0 (bitsOf f.fmt 1 4) ++ chkPlane (bitsOf f.fmt 5 1) f.npl)
      (.attv g (sreg f.d) (sreg f.s1) (sreg f.s2) (accD f) (BitVec.ofNat 4 (bitsOf f.fmt 1 4)) (BitVec.ofNat 4 f.npl)
        (bitsOf f.fmt 5 1 == 1) (bitsOf f.sub 0 1 == 1) (bitsOf f.sub 1 1 == 1) (qtagX f))
  | 0x28D => dec (chkS f.d ++ chkS f.s1 ++ chkS f.s2 ++ chkRowD f)
      (.acmb g (sreg f.d) (sreg f.s1) (sreg f.s2) (accD f) (bitsOf f.sub 1 1 == 1) (qtagX f))
  | 0x28E => dec (chk0 f.d ++ chkS f.s1 ++ chk0 f.s2 ++ chkRowD f)
      (.anrm g (sreg f.s1) (accD f) (bitsOf f.sub 1 1 == 1) (qtagX f))
  | 0x300 => dec (chk0 f.d ++ chkS f.s1 ++ chkS f.s2 ++ chkQ6 f) (.tsend g (sreg f.s1) (sreg f.s2) (qtagX f))
  | 0x301 => dec (chk0 f.d ++ chkT f.s1 ++ chkS f.s2 ++ chkQ6 f) (.tfwd g (lreg (f.s1 - 116)) (sreg f.s2) (qtagX f))
  | 0x302 => dec (chkS f.d ++ chkT f.s1 ++ chkS f.s2 ++ chkQ6 f)
      (.tfork g (sreg f.d) (lreg (f.s1 - 116)) (sreg f.s2) (qtagX f))
  | 0x303 => dec (chkS f.d ++ chkT f.s1 ++ chk0 f.s2 ++ chkNoAcc f ++ chkZ 2 f.sub)
      (.tjoin g (sreg f.d) (lreg (f.s1 - 116)))
  | 0x304 => dec (chkS f.d ++ chkT f.s1 ++ chk0 f.s2 ++ chkNoAcc f ++ chkZ 2 (bitsOf f.sub 4 10))
      (.ttake g (sreg f.d) (lreg (f.s1 - 116)) (BitVec.ofNat 3 (bitsOf f.sub 0 3)) (bitsOf f.sub 3 1 == 1))
  | 0x305 => dec (chk0 f.d ++ chk0 f.s1 ++ chk0 f.s2 ++ chkNoAcc f ++ chkZ 2 f.sub) (.hret g)
  | 0x306 => dec (chk0 f.d ++ chkS f.s1 ++ chkS f.s2 ++ chkNoAcc f ++ chkZ 2 f.sub) (.hset g (sreg f.s1) (sreg f.s2))
  | 0x307 => dec (chk0 f.d ++ chkS f.s1 ++ chkS f.s2 ++ chkNoAcc f ++ chkZ 2 f.sub) (.hmsk g (sreg f.s1) (sreg f.s2))
  | 0x308 => dec (chk0 f.d ++ chkS f.s1 ++ chk0 f.s2 ++ chkQ6 f) (.eos g (sreg f.s1) (qtagX f))
  | 0x309 => dec (chk0 f.d ++ chkS f.s1 ++ chkS f.s2 ++ chkQ6 f) (.cfgld g (sreg f.s1) (sreg f.s2) (qtagX f))
  | 0x30A => dec (chk0 f.d ++ chk0 f.s1 ++ chk0 f.s2 ++ chkNoAcc f ++ chkZ 2 f.sub) (.cfgswap g)
  | 0x30B => dec (chkS f.d ++ chk0 f.s1 ++ chk0 f.s2 ++ chkNoAcc f ++ chkZ 2 f.sub) (.drainq g (sreg f.d))
  | 0x30C => dec (chkS f.d ++ chkS f.s1 ++ chkS f.s2 ++ chkQ6 f) (.shlk g (sreg f.d) (sreg f.s1) (sreg f.s2) (qtagX f))
  | 0x30D => dec (chkShard f) (.shmap g (sreg f.d) (sreg f.s1) (sreg f.s2) (bitsOf f.sub 0 1 == 1) (qtagX f))
  | 0x30E => dec (chkShard f) (.shunmap g (sreg f.d) (sreg f.s1) (sreg f.s2) (bitsOf f.sub 0 1 == 1) (qtagX f))
  | 0x30F => dec (chkShard f) (.shref g (sreg f.d) (sreg f.s1) (sreg f.s2) (bitsOf f.sub 0 1 == 1) (qtagX f))
  | _ => none

/-! ### The E format -/

def qtagE (f : FmtE) : QTag := ⟨BitVec.ofNat 6 f.tag, bitsOf f.sub 7 1 == 1⟩

/-- TE and TAG of a tag-taking instruction (R295). -/
def chkQE (f : FmtE) : Chk := [(9, bitsOf f.sub 7 1 == 0 && f.tag != 0)]

/-- QUEUE and ENG zero outside the copy-engine commands (R294). -/
def chkNoEng (f : FmtE) : Chk := chkZ 2 f.queue ++ chkZ 2 f.eng

/-- SCOPE and KIND zero outside FENCE (R294, R487). -/
def chkNoScope (f : FmtE) : Chk := chkZ 7 f.scope ++ chkZ 7 f.kind

def engD (f : FmtE) : EngQ := ⟨BitVec.ofNat 3 f.queue, BitVec.ofNat 4 f.eng⟩

/-- A copy-engine command: SUB[6:0] zero (R301). -/
def chkCpy (f : FmtE) : Chk := chkQE f ++ chkNoScope f ++ chkZ 2 (bitsOf f.sub 0 7)

/-- A tag-taking instruction that is no copy-engine command. -/
def chkTagged (f : FmtE) : Chk := chkQE f ++ chkNoEng f ++ chkNoScope f

/-- An instruction that takes no tag: TAG and SUB[7] zero. -/
def chkUntagged (f : FmtE) : Chk := chkZ 2 f.tag ++ chkNoEng f ++ chkNoScope f ++ chkZ 2 (bitsOf f.sub 7 1)

def aopD (f : FmtE) : AOp := (AOp.ofCode (bitsOf f.sub 0 4)).getD .add

/-- OP, SIZE and the pair of S1 of RAT, RATF (R306, R307, R326). -/
def chkRat (f : FmtE) : Chk :=
  chkSome 6 (AOp.ofCode (bitsOf f.sub 0 4)) (· != .store)
    ++ [(8, (AOp.ofCode (bitsOf f.sub 0 4)).any AOp.isFP && bitsOf f.sub 4 2 != 2),
        (4, AOp.ofCode (bitsOf f.sub 0 4) == some .cas && oddS f.s1)]

/-- The E format, by major opcode (R298 to R324). -/
def decE (op : Nat) (g : Guard) (f : FmtE) : Option Dec :=
  match op with
  | 0x380 => dec (chkS f.d ++ chkS f.s1 ++ chkS f.s2 ++ chkCpy f)
      (.cpy g (sreg f.d) (sreg f.s1) (sreg f.s2) (engD f) (qtagE f))
  | 0x381 => dec (chkS f.d ++ chk0 f.s1 ++ chk0 f.s2 ++ chkCpy f) (.cpy2 g (sreg f.d) (engD f) (qtagE f))
  | 0x382 => dec (chkS f.d ++ chkS f.s1 ++ chk0 f.s2 ++ chkCpy f) (.cpyl g (sreg f.d) (sreg f.s1) (engD f) (qtagE f))
  | 0x383 => dec (chkS f.d ++ chk0 f.s1 ++ chk0 f.s2 ++ chkCpy f) (.cpyc g (sreg f.d) (engD f) (qtagE f))
  | 0x384 => dec (chkS f.d ++ chkS f.s1 ++ chkS f.s2 ++ chkCpy f)
      (.fill g (sreg f.d) (sreg f.s1) (sreg f.s2) (engD f) (qtagE f))
  | 0x385 => dec (chk0 f.d ++ chkS f.s1 ++ chk0 f.s2 ++ chkCpy f) (.qfence g (sreg f.s1) (engD f) (qtagE f))
  | 0x386 => dec (chk0 f.d ++ chkS f.s1 ++ chk0 f.s2 ++ [(2, f.s1 != 0 && f.tag != 0)] ++ chkNoEng f ++ chkNoScope f
        ++ chkZ 2 (bitsOf f.sub 1 7) ++ [(2, f.s1 == 0 && bitsOf f.sub 0 1 == 1)])
      (.twait g (sreg f.s1) (BitVec.ofNat 6 f.tag) (bitsOf f.sub 0 1 == 1))
  | 0x387 => dec (chkS f.d ++ chkS f.s1 ++ chk0 f.s2 ++ chkUntagged f ++ chkZ 2 (bitsOf f.sub 0 7))
      (.tfirst g (sreg f.d) (sreg f.s1))
  | 0x388 => dec (chk0 f.d ++ chkS f.s1 ++ chk0 f.s2 ++ chkUntagged f ++ chkZ 2 (bitsOf f.sub 0 7)) (.tclr g (sreg f.s1))
  | 0x389 => dec (chkS f.d ++ chkS f.s1 ++ chk0 f.s2 ++ chkUntagged f ++ chkZ 2 (bitsOf f.sub 4 3))
      (.bkinit g (BitVec.ofNat 4 (bitsOf f.sub 0 4)) (sreg f.d) (sreg f.s1))
  | 0x38A => dec (chkS f.d ++ chk0 f.s1 ++ chk0 f.s2 ++ chkUntagged f ++ chkZ 2 (bitsOf f.sub 5 2))
      (.bkaw g (BitVec.ofNat 4 (bitsOf f.sub 0 4)) (sreg f.d) (bitsOf f.sub 4 1 == 1))
  | 0x38B => dec (chk0 f.d ++ chkS f.s1 ++ chkS f.s2 ++ chkUntagged f ++ chkZ 2 (bitsOf f.sub 4 3))
      (.bkpost g (BitVec.ofNat 4 (bitsOf f.sub 0 4)) (sreg f.s1) (sreg f.s2))
  | 0x38C => dec (chk0 f.d ++ chkS f.s1 ++ chk0 f.s2 ++ chkUntagged f ++ chkZ 2 (bitsOf f.sub 4 3))
      (.bkrel g (BitVec.ofNat 4 (bitsOf f.sub 0 4)) (sreg f.s1))
  | 0x38D => dec (chkS f.d ++ chkS f.s1 ++ chk0 f.s2 ++ chkUntagged f ++ chkZ 2 (bitsOf f.sub 0 4)
        ++ chkZ 2 (bitsOf f.sub 6 1))
      (.rst g (sreg f.d) (sreg f.s1) (BitVec.ofNat 2 (bitsOf f.sub 4 2)))
  | 0x38E => dec (chkS f.d ++ chkS f.s1 ++ chk0 f.s2 ++ chkUntagged f ++ chkRat f
        ++ [(9, bitsOf f.sub 6 1 == 1 && !(aopD f == .add || aopD f == .fadd))])
      (.rat g (sreg f.d) (sreg f.s1) (aopD f) (BitVec.ofNat 2 (bitsOf f.sub 4 2)) (bitsOf f.sub 6 1 == 1))
  | 0x38F => dec (chkS f.d ++ chkS f.s1 ++ chkS f.s2 ++ chkTagged f ++ chkRat f ++ chkZ 9 (bitsOf f.sub 6 1))
      (.ratf g (sreg f.d) (sreg f.s1) (sreg f.s2) (aopD f) (BitVec.ofNat 2 (bitsOf f.sub 4 2)) (qtagE f))
  | 0x390 => dec (chkS f.d ++ chkS f.s1 ++ chk0 f.s2 ++ chkTagged f ++ chkZ 2 (bitsOf f.sub 0 4)
        ++ chkZ 2 (bitsOf f.sub 6 1))
      (.rld g (sreg f.d) (sreg f.s1) (BitVec.ofNat 2 (bitsOf f.sub 4 2)) (qtagE f))
  | 0x391 => dec (chkS f.d ++ [(2, bitsOf f.sub 0 1 == 1 && f.d != 0)] ++ chk0 f.s1 ++ chk0 f.s2 ++ chkTagged f
        ++ chkZ 2 (bitsOf f.sub 1 6))
      (.hflush g (sreg f.d) (bitsOf f.sub 0 1 == 1) (qtagE f))
  | 0x392 => dec (chk0 f.d ++ chkS f.s1 ++ chk0 f.s2 ++ chkUntagged f ++ chkZ 2 (bitsOf f.sub 0 7)) (.hcfg g (sreg f.s1))
  | 0x393 => dec (chkS f.d ++ chkS f.s1 ++ chk0 f.s2 ++ chkUntagged f ++ chkZ 2 (bitsOf f.sub 1 6))
      (.hstat g (sreg f.d) (sreg f.s1) (bitsOf f.sub 0 1 == 1))
  | 0x394 => dec (chk0 f.d ++ chk0 f.s1 ++ chk0 f.s2 ++ chkZ 2 f.tag ++ chkNoEng f ++ chkZ 2 f.sub
        ++ chkScope f.scope ++ [(7, f.kind == 3)])
      (.fence g ((FKind.ofCode f.kind).getD .acq) (scopeD f.scope))
  | 0x395 => dec (chkS f.d ++ chkS f.s1 ++ chk0 f.s2 ++ chkTagged f ++ chkZ 2 (bitsOf f.sub 1 6))
      (.bari g (sreg f.d) (sreg f.s1) (bitsOf f.sub 0 1 == 1) (qtagE f))
  | 0x396 => dec (chkS f.d ++ chk0 f.s1 ++ chk0 f.s2 ++ chkTagged f ++ chkZ 2 (bitsOf f.sub 1 6))
      (.bara g (sreg f.d) (bitsOf f.sub 0 1 == 1) (qtagE f))
  | 0x397 => dec (chkS f.d ++ chk0 f.s1 ++ chk0 f.s2 ++ chkUntagged f ++ chkZ 2 (bitsOf f.sub 1 6))
      (.barw g (sreg f.d) (bitsOf f.sub 0 1 == 1))
  | 0x398 => dec (chkS f.d ++ chkS f.s1 ++ chk0 f.s2 ++ chkUntagged f ++ chkZ 2 (bitsOf f.sub 2 5)
        ++ [(6, bitsOf f.sub 0 2 == 3)])
      (.waitm g (sreg f.d) (sreg f.s1) ((WCond.ofCode (bitsOf f.sub 0 2)).getD .ne))
  | 0x399 => dec (chk0 f.d ++ chk0 f.s1 ++ chk0 f.s2 ++ chkUntagged f ++ chkZ 2 (bitsOf f.sub 0 7)) (.phase g)
  | 0x39A => dec (chk0 f.d ++ chk0 f.s1 ++ chk0 f.s2 ++ chkUntagged f ++ chkZ 2 (bitsOf f.sub 0 7)) (.prep g)
  | 0x39B => dec (chkS f.d ++ chkS f.s1 ++ chk0 f.s2 ++ chkUntagged f ++ chkZ 2 (bitsOf f.sub 1 6))
      (.keep g (sreg f.d) (sreg f.s1) (bitsOf f.sub 0 1 == 1))
  | 0x39C => dec (chkS f.d ++ chkS f.s1 ++ chk0 f.s2 ++ chkUntagged f ++ chkZ 2 (bitsOf f.sub 0 7))
      (.disc g (sreg f.d) (sreg f.s1))
  | 0x39D => dec (chkS f.d ++ chkS f.s1 ++ chkS f.s2 ++ chkTagged f ++ chkZ 2 (bitsOf f.sub 6 1)
        ++ chkSome 6 (AOp.ofCode (bitsOf f.sub 0 4)) AOp.redOk
        ++ [(8, (AOp.ofCode (bitsOf f.sub 0 4)).any AOp.isFP && bitsOf f.sub 4 2 != 2)])
      (.nred g (sreg f.d) (sreg f.s1) (sreg f.s2) (aopD f) (BitVec.ofNat 2 (bitsOf f.sub 4 2)) (qtagE f))
  | 0x39E => dec (chkS f.d ++ chkS f.s1 ++ chkS f.s2 ++ chkTagged f ++ chkZ 2 (bitsOf f.sub 0 4))
      (.nbcast g (sreg f.d) (sreg f.s1) (sreg f.s2) (BitVec.ofNat 2 (bitsOf f.sub 4 2)) (bitsOf f.sub 6 1 == 1) (qtagE f))
  | _ => none

/-! ### The decoder -/

/-- What the fields of a word spell; none for a reserved major opcode (R484). -/
def decodeRaw (w : Nat) : Option Dec :=
  let op := bitsOf w 54 10
  let g := guardOf w
  match decA op g (unpackA w) with
  | some r => some r
  | none =>
  match decI op g (unpackI w) with
  | some r => some r
  | none =>
  match decM op g (unpackM w) with
  | some r => some r
  | none =>
  match decJ op g (unpackJ w) with
  | some r => some r
  | none =>
  match decY op g (unpackY w) with
  | some r => some r
  | none =>
  match decX op g (unpackX w) with
  | some r => some r
  | none => decE op g (unpackE w)

/-- The outcome of decoding: an instruction, or the CODE of the class 1 fault that the word raises wherever it is
issued (R473, R474). -/
inductive DecodeResult where
  | ok (i : Instr)
  | encodingFault (code : Nat)
  deriving DecidableEq, Repr

/-- The decoder of one instruction word, total on every word. -/
def decode (w : W64) : DecodeResult :=
  match decodeRaw w.toNat with
  | none => .encodingFault 1
  | some r =>
    match pickCode (kindAs 4 r.codes) with
    | some c => .encodingFault c
    | none => .ok r.instr

/-! ### The encoder -/

/-- A body of the A format with every field zero. -/
def a0 : FmtA := ⟨0, 0, 0, 0, 0, 0, 0, 0, 0, 0⟩
def e0 : FmtE := ⟨0, 0, 0, 0, 0, 0, 0, 0, 0⟩
def x0 : FmtX := ⟨0, 0, 0, 0, 0, 0, 0⟩

def encS3 (d a b : SReg) (ty : Ty) (sat : Bool) : Body :=
  .a { a0 with d := d.toNat, s1 := a.toNat, s2 := b.toNat, ty := ty.code, sat := bitNat sat }

def encS2 (d a : SReg) (ty : Ty) (sat : Bool) : Body :=
  .a { a0 with d := d.toNat, s1 := a.toNat, ty := ty.code, sat := bitNat sat }

def encImm (d a : SReg) (imm : BitVec 33) : Body := .i ⟨d.toNat, a.toNat, imm.toNat⟩

def encBf (d a : SReg) (pos : BitVec 6) (wid : BitVec 7) : Body :=
  .i ⟨d.toNat, a.toNat, pos.toNat + wid.toNat * 2 ^ 6⟩

def encV3 (d a b : VReg) (ty : Ty) (sat : Bool) (m : Msk) : Body :=
  .a { a0 with d := specV d, s1 := specV a, s2 := specV b, ty := ty.code, sat := bitNat sat, msk := m.m.toNat,
               mz := bitNat m.mz }

def encV4 (d a b c : VReg) (ty : Ty) (m : Msk) : Body :=
  .a { a0 with d := specV d, s1 := specV a, s2 := specV b, s3 := specV c, ty := ty.code, msk := m.m.toNat,
               mz := bitNat m.mz }

def encV2 (d a : VReg) (ty : Ty) (m : Msk) : Body :=
  .a { a0 with d := specV d, s1 := specV a, ty := ty.code, msk := m.m.toNat, mz := bitNat m.mz }

def encRed (d : SReg) (a : VReg) (ty : Ty) (m : MReg) (sub : Nat) : Body :=
  .a { a0 with d := d.toNat, s1 := specV a, ty := ty.code, msk := m.toNat, sub := sub }

def encPack (d a : VReg) (b : SReg) (ty : Ty) (scale : Bool) : Body :=
  .a { a0 with d := specV d, s1 := specV a, s2 := b.toNat, ty := ty.code, sub := bitNat scale }

/-- SUB of an X-format queued instruction: its own fields with TAG and TE (R260). -/
def subX (q : QTag) (low : Nat) : Nat := low + bitNat q.te * 2 ^ 7 + q.tag.toNat * 2 ^ 8

def encRow (a b : SReg) (acc : BitVec 2) (q : QTag) : Body :=
  .x { x0 with s1 := a.toNat, s2 := b.toNat, acc := acc.toNat, sub := subX q 0 }

def encShard (d a b : SReg) (q : QTag) (low : Bool) : Body :=
  .x { x0 with d := d.toNat, s1 := a.toNat, s2 := b.toNat, sub := subX q (bitNat low) }

/-- A tagged body of the E format. -/
def encE (d a b : SReg) (q : QTag) (low : Nat) : Body :=
  .e { e0 with d := d.toNat, s1 := a.toNat, s2 := b.toNat, tag := q.tag.toNat, sub := low + bitNat q.te * 2 ^ 7 }

def encEng (d a b : SReg) (e : EngQ) (q : QTag) : Body :=
  .e { e0 with d := d.toNat, s1 := a.toNat, s2 := b.toNat, tag := q.tag.toNat, queue := e.queue.toNat,
               eng := e.eng.toNat, sub := bitNat q.te * 2 ^ 7 }

/-- An untagged body of the E format. -/
def encU (d a b : SReg) (sub : Nat) : Body :=
  .e { e0 with d := d.toNat, s1 := a.toNat, s2 := b.toNat, sub := sub }

/-- The major opcode, guard and body of an instruction word; none for the rows that are events. -/
def Instr.body : Instr → Option (Nat × Guard × Body)
  | .add g d a b ty sat => some (0x001, g, encS3 d a b ty sat)
  | .sub g d a b ty sat => some (0x002, g, encS3 d a b ty sat)
  | .mul g d a b ty sat => some (0x003, g, encS3 d a b ty sat)
  | .mulh g d a b ty => some (0x004, g, encS3 d a b ty false)
  | .div g d a b ty => some (0x005, g, encS3 d a b ty false)
  | .rem g d a b ty => some (0x006, g, encS3 d a b ty false)
  | .and g d a b ty => some (0x007, g, encS3 d a b ty false)
  | .or g d a b ty => some (0x008, g, encS3 d a b ty false)
  | .xor g d a b ty => some (0x009, g, encS3 d a b ty false)
  | .andn g d a b ty => some (0x00A, g, encS3 d a b ty false)
  | .shl g d a b ty => some (0x00B, g, encS3 d a b ty false)
  | .shr g d a b ty => some (0x00C, g, encS3 d a b ty false)
  | .sar g d a b ty => some (0x00D, g, encS3 d a b ty false)
  | .rotl g d a b ty => some (0x00E, g, encS3 d a b ty false)
  | .min g d a b ty => some (0x00F, g, encS3 d a b ty false)
  | .max g d a b ty => some (0x010, g, encS3 d a b ty false)
  | .abs g d a ty sat => some (0x011, g, encS2 d a ty sat)
  | .clz g d a ty => some (0x012, g, encS2 d a ty false)
  | .ctz g d a ty => some (0x013, g, encS2 d a ty false)
  | .popc g d a ty => some (0x014, g, encS2 d a ty false)
  | .bswap g d a ty => some (0x015, g, encS2 d a ty false)
  | .mov g d a ty => some (0x01B, g, encS2 d a ty false)
  | .bfx g d a pos wid => some (0x016, g, encBf d a pos wid)
  | .bfi g d a pos wid => some (0x017, g, encBf d a pos wid)
  | .lea g d a b k => some (0x018, g, .a { a0 with d := d.toNat, s1 := a.toNat, s2 := b.toNat, sub := k.toNat })
  | .movi g d imm => some (0x019, g, encImm d 0 imm)
  | .movhi g d a imm => some (0x01A, g, .i ⟨d.toNat, a.toNat, imm.toNat⟩)
  | .cmp g d a b ty cc =>
      some (0x01C, g, .a { a0 with d := specP d, s1 := a.toNat, s2 := b.toNat, ty := ty.code, sub := cc.code })
  | .csel g d a b p => some (0x01D, g, .a { a0 with d := d.toNat, s1 := a.toNat, s2 := b.toNat, s3 := specP p })
  | .plog g d a b tt => some (0x01E, g, .a { a0 with d := specP d, s1 := specP a, s2 := specP b, sub := tt.toNat })
  | .pmov g (.pk d) => some (0x01F, g, .a { a0 with d := d.toNat })
  | .pmov g (.upk s) => some (0x01F, g, .a { a0 with s1 := s.toNat, sub := 1 })
  | .pmov g (.sp p s) => some (0x01F, g, .a { a0 with d := specP p, s1 := s.toNat, sub := 2 })
  | .pmov g (.ps d p) => some (0x01F, g, .a { a0 with d := d.toNat, s1 := specP p, sub := 3 })
  | .addImm g d a imm => some (0x021, g, encImm d a imm)
  | .subImm g d a imm => some (0x022, g, encImm d a imm)
  | .mulImm g d a imm => some (0x023, g, encImm d a imm)
  | .andImm g d a imm => some (0x027, g, encImm d a imm)
  | .orImm g d a imm => some (0x028, g, encImm d a imm)
  | .xorImm g d a imm => some (0x029, g, encImm d a imm)
  | .shlImm g d a imm => some (0x02B, g, encImm d a imm)
  | .shrImm g d a imm => some (0x02C, g, encImm d a imm)
  | .sarImm g d a imm => some (0x02D, g, encImm d a imm)
  | .rotlImm g d a imm => some (0x02E, g, encImm d a imm)
  | .minImm g d a imm => some (0x02F, g, encImm d a imm)
  | .maxImm g d a imm => some (0x030, g, encImm d a imm)
  | .leaImm g d a imm => some (0x038, g, encImm d a imm)
  | .cmpImm g d a cc uns imm =>
      some (0x03C, g, .i ⟨specP d, a.toNat, cc.code + bitNat uns * 2 ^ 4 + imm.toNat * 2 ^ 5⟩)
  | .nop g => some (0x080, g, .a a0)
  | .br g off => some (0x081, g, .j ⟨0, off.toNat⟩)
  | .jmp g lc off => some (0x082, g, .j ⟨lc.toNat, off.toNat⟩)
  | .call g lc off => some (0x083, g, .j ⟨lc.toNat, off.toNat⟩)
  | .loop g lc off => some (0x085, g, .j ⟨lc.toNat, off.toNat⟩)
  | .ret g lc => some (0x084, g, .j ⟨lc.toNat, 0⟩)
  | .yield g imm => some (0x086, g, .y ⟨0, 0, 0, imm.toNat⟩)
  | .sleep g a imm => some (0x087, g, .y ⟨0, a.toNat, 0, imm.toNat⟩)
  | .endSlot g => some (0x088, g, .y ⟨0, 0, 0, 0⟩)
  | .trap g imm => some (0x089, g, .y ⟨0, 0, 0, imm.toNat⟩)
  | .eret g skip => some (0x08A, g, .y ⟨0, 0, 0, bitNat skip⟩)
  | .mfs g d n => some (0x08B, g, .y ⟨d.toNat, 0, n.toNat, 0⟩)
  | .mts g n a => some (0x08C, g, .y ⟨0, a.toNat, n.toNat, 0⟩)
  | .cycle g d => some (0x08D, g, .y ⟨d.toNat, 0, 0, 0⟩)
  | .time g d => some (0x08E, g, .y ⟨d.toNat, 0, 0, 0⟩)
  | .capq g d a => some (0x08F, g, .y ⟨d.toNat, a.toNat, 0, 0⟩)
  | .widq g d f k => some (0x090, g, .y ⟨d.toNat, 0, 0, k.toNat + f.code * 2 ^ 4⟩)
  | .ld g d a size sx off => some (0x100, g, .m ⟨d.toNat, a.toNat, size.toNat, 0, bitNat sx, off.toNat⟩)
  | .st g d a size scope off => some (0x101, g, .m ⟨d.toNat, a.toNat, size.toNat, scope.code, 0, off.toNat⟩)
  | .ldp g d a size sx off => some (0x102, g, .m ⟨2 * d.toNat, a.toNat, size.toNat, 0, bitNat sx, off.toNat⟩)
  | .stp g d a size scope off => some (0x103, g, .m ⟨2 * d.toNat, a.toNat, size.toNat, scope.code, 0, off.toNat⟩)
  | .latom g d a b c ty op =>
      some (0x104, g, .a { a0 with d := d.toNat, s1 := a.toNat, s2 := b.toNat, s3 := c.toNat, ty := ty.code, sub := op.code })
  | .cwb g => some (0x105, g, .a a0)
  | .iinv g d a off => some (0x106, g, .m ⟨d.toNat, a.toNat, 0, 0, 0, off.toNat⟩)
  | .fetchb g => some (0x107, g, .a a0)
  | .vld g d a size sx off => some (0x108, g, .m ⟨specV d, a.toNat, size.toNat, 0, bitNat sx, off.toNat⟩)
  | .vst g d a size scope off => some (0x109, g, .m ⟨specV d, a.toNat, size.toNat, scope.code, 0, off.toNat⟩)
  | .vlds g d a b ty m =>
      some (0x10A, g, .a { a0 with d := specV d, s1 := a.toNat, s2 := b.toNat, ty := ty.code, msk := m.m.toNat, mz := bitNat m.mz })
  | .vsts g a b c ty m =>
      some (0x10B, g, .a { a0 with s1 := a.toNat, s2 := b.toNat, s3 := specV c, ty := ty.code, msk := m.toNat })
  | .vgath g d a b ty m k =>
      some (0x10C, g, .a { a0 with d := specV d, s1 := a.toNat, s2 := specV b, ty := ty.code, msk := m.m.toNat, mz := bitNat m.mz, sub := k.toNat })
  | .vscat g a b c ty m k =>
      some (0x10D, g, .a { a0 with s1 := a.toNat, s2 := specV b, s3 := specV c, ty := ty.code, msk := m.toNat, sub := k.toNat })
  | .vadd g d a b ty m => some (0x180, g, encV3 d a b ty false m)
  | .vsub g d a b ty m => some (0x181, g, encV3 d a b ty false m)
  | .vmul g d a b ty m => some (0x182, g, encV3 d a b ty false m)
  | .vmin g d a b ty m => some (0x185, g, encV3 d a b ty false m)
  | .vmax g d a b ty m => some (0x186, g, encV3 d a b ty false m)
  | .vimulh g d a b ty m => some (0x203, g, encV3 d a b ty false m)
  | .vand g d a b ty m => some (0x204, g, encV3 d a b ty false m)
  | .vor g d a b ty m => some (0x205, g, encV3 d a b ty false m)
  | .vxor g d a b ty m => some (0x206, g, encV3 d a b ty false m)
  | .vshl g d a b ty m => some (0x207, g, encV3 d a b ty false m)
  | .vshr g d a b ty m => some (0x208, g, encV3 d a b ty false m)
  | .vsar g d a b ty m => some (0x209, g, encV3 d a b ty false m)
  | .vimin g d a b ty m => some (0x20B, g, encV3 d a b ty false m)
  | .vimax g d a b ty m => some (0x20C, g, encV3 d a b ty false m)
  | .viadd g d a b ty sat m => some (0x200, g, encV3 d a b ty sat m)
  | .visub g d a b ty sat m => some (0x201, g, encV3 d a b ty sat m)
  | .vimul g d a b ty sat m => some (0x202, g, encV3 d a b ty sat m)
  | .vfma g d a b c ty m => some (0x183, g, encV4 d a b c ty m)
  | .vfms g d a b c ty m => some (0x184, g, encV4 d a b c ty m)
  | .vabs g d a ty m => some (0x187, g, encV2 d a ty m)
  | .vneg g d a ty m => some (0x188, g, encV2 d a ty m)
  | .vclass g d a ty m => some (0x18A, g, encV2 d a ty m)
  | .vexp2 g d a m => some (0x18B, g, encV2 d a .f32 m)
  | .vlog2 g d a m => some (0x18C, g, encV2 d a .f32 m)
  | .vrcp g d a m => some (0x18D, g, encV2 d a .f32 m)
  | .vrsq g d a m => some (0x18E, g, encV2 d a .f32 m)
  | .vscan g d a m => some (0x192, g, encV2 d a .f32 m)
  | .vcmpf g d a b ty cc m =>
      some (0x189, g, .a { a0 with d := specM d, s1 := specV a, s2 := specV b, ty := ty.code, msk := m.m.toNat, mz := bitNat m.mz, sub := cc.code })
  | .vicmp g d a b ty cc m =>
      some (0x20A, g, .a { a0 with d := specM d, s1 := specV a, s2 := specV b, ty := ty.code, msk := m.m.toNat, mz := bitNat m.mz, sub := cc.code })
  | .vredadd g d a m => some (0x18F, g, encRed d a .f32 m 0)
  | .vredmax g d a m => some (0x190, g, encRed d a .f32 m 0)
  | .vredmin g d a m => some (0x191, g, encRed d a .f32 m 0)
  | .vcvt g d a dst src rc m =>
      some (0x193, g, .a { a0 with d := specV d, s1 := specV a, ty := dst.code, msk := m.m.toNat, mz := bitNat m.mz, sub := rc.toNat + src.code * 2 ^ 3 })
  | .vpack g d a b ty scale => some (0x194, g, encPack d a b ty scale)
  | .vunpk g d a b ty scale => some (0x195, g, encPack d a b ty scale)
  | .vired g d a ty op m => some (0x20D, g, encRed d a ty m op.code)
  | .vbcast g d a ty m =>
      some (0x20E, g, .a { a0 with d := specV d, s1 := a.toNat, ty := ty.code, msk := m.m.toNat, mz := bitNat m.mz })
  | .vext g d a b ty => some (0x20F, g, .a { a0 with d := d.toNat, s1 := specV a, s2 := b.toNat, ty := ty.code })
  | .vins g d a b ty => some (0x210, g, .a { a0 with d := specV d, s1 := a.toNat, s2 := b.toNat, ty := ty.code })
  | .vsel g d a b c => some (0x211, g, .a { a0 with d := specV d, s1 := specV a, s2 := specV b, s3 := specM c })
  | .vpermb g d a b lane m =>
      some (0x212, g, .a { a0 with d := specV d, s1 := specV a, s2 := specV b, msk := m.m.toNat, mz := bitNat m.mz, sub := bitNat lane })
  | .vshuf g d a b m =>
      some (0x213, g, .a { a0 with d := specV d, s1 := specV a, s2 := specV b, msk := m.m.toNat, mz := bitNat m.mz })
  | .vslide g d a b c down m =>
      some (0x214, g, .a { a0 with d := specV d, s1 := specV a, s2 := specV b, s3 := c.toNat, msk := m.m.toNat, mz := bitNat m.mz, sub := bitNat down })
  | .viota g d a m => some (0x215, g, .a { a0 with d := specV d, s1 := a.toNat, msk := m.m.toNat, mz := bitNat m.mz })
  | .mlog g d a b tt => some (0x216, g, .a { a0 with d := specM d, s1 := specM a, s2 := specM b, sub := tt.toNat })
  | .mfirst g d a => some (0x217, g, .a { a0 with d := d.toNat, s1 := specM a })
  | .mpopc g d a => some (0x218, g, .a { a0 with d := d.toNat, s1 := specM a })
  | .mset g d a b first =>
      some (0x219, g, .a { a0 with d := specM d, s1 := a.toNat, s2 := b.toNat, sub := bitNat first })
  | .mget g d a hi => some (0x21A, g, .a { a0 with d := d.toNat, s1 := specM a, sub := bitNat hi })
  | .pld g d a b ty uns npl q =>
      some (0x280, g, .x { x0 with d := d.toNat, s1 := a.toNat, s2 := b.toNat, npl := npl.toNat, fmt := ty.code + bitNat uns * 2 ^ 5, sub := subX q 0 })
  | .pldv g d a b ty uns npl q =>
      some (0x281, g, .x { x0 with d := d.toNat, s1 := specV a, s2 := b.toNat, npl := npl.toNat, fmt := ty.code + bitNat uns * 2 ^ 5, sub := subX q 0 })
  | .az g acc q => some (0x282, g, encRow 0 0 acc q)
  | .mma g a b acc wa npl ua ub bs nb q =>
      some (0x283, g, .x { x0 with s1 := a.toNat, s2 := b.toNat, acc := acc.toNat, npl := npl.toNat, fmt := bitNat ua + wa.toNat * 2 + bitNat ub * 2 ^ 5, sub := subX q (nb.toNat + bitNat bs * 2 ^ 6) })
  | .ard g a b acc q => some (0x284, g, encRow a b acc q)
  | .awr g a b acc q => some (0x285, g, encRow a b acc q)
  | .arowmax g a b acc q => some (0x287, g, encRow a b acc q)
  | .arowsum g a b acc q => some (0x289, g, encRow a b acc q)
  | .amask g a b acc q => some (0x28B, g, encRow a b acc q)
  | .ascl g a acc q => some (0x286, g, encRow a 0 acc q)
  | .aexp g a acc q => some (0x288, g, encRow a 0 acc q)
  | .acvt g a acc uns npl q =>
      some (0x28A, g, .x { x0 with s1 := a.toNat, acc := acc.toNat, npl := npl.toNat, fmt := 8 + bitNat uns * 2 ^ 5, sub := subX q 0 })
  | .attv g d a b acc wa npl ub mk d128 q =>
      some (0x28C, g, .x { x0 with d := d.toNat, s1 := a.toNat, s2 := b.toNat, acc := acc.toNat, npl := npl.toNat, fmt := wa.toNat * 2 + bitNat ub * 2 ^ 5, sub := subX q (bitNat mk + bitNat d128 * 2) })
  | .acmb g d a b acc d128 q =>
      some (0x28D, g, .x { x0 with d := d.toNat, s1 := a.toNat, s2 := b.toNat, acc := acc.toNat, sub := subX q (bitNat d128 * 2) })
  | .anrm g a acc d128 q =>
      some (0x28E, g, .x { x0 with s1 := a.toNat, acc := acc.toNat, sub := subX q (bitNat d128 * 2) })
  | .tsend g a b q => some (0x300, g, .x { x0 with s1 := a.toNat, s2 := b.toNat, sub := subX q 0 })
  | .tfwd g l b q => some (0x301, g, .x { x0 with s1 := specT l, s2 := b.toNat, sub := subX q 0 })
  | .tfork g d l b q => some (0x302, g, .x { x0 with d := d.toNat, s1 := specT l, s2 := b.toNat, sub := subX q 0 })
  | .tjoin g d l => some (0x303, g, .x { x0 with d := d.toNat, s1 := specT l })
  | .ttake g d l word rel =>
      some (0x304, g, .x { x0 with d := d.toNat, s1 := specT l, sub := word.toNat + bitNat rel * 2 ^ 3 })
  | .hret g => some (0x305, g, .x x0)
  | .hset g a b => some (0x306, g, .x { x0 with s1 := a.toNat, s2 := b.toNat })
  | .hmsk g a b => some (0x307, g, .x { x0 with s1 := a.toNat, s2 := b.toNat })
  | .eos g a q => some (0x308, g, .x { x0 with s1 := a.toNat, sub := subX q 0 })
  | .cfgld g a b q => some (0x309, g, .x { x0 with s1 := a.toNat, s2 := b.toNat, sub := subX q 0 })
  | .cfgswap g => some (0x30A, g, .x x0)
  | .drainq g d => some (0x30B, g, .x { x0 with d := d.toNat })
  | .shlk g d a b q => some (0x30C, g, encShard d a b q false)
  | .shmap g d a b new q => some (0x30D, g, encShard d a b q new)
  | .shunmap g d a b cond q => some (0x30E, g, encShard d a b q cond)
  | .shref g d a b dec q => some (0x30F, g, encShard d a b q dec)
  | .cpy g d a b e q => some (0x380, g, encEng d a b e q)
  | .cpy2 g d e q => some (0x381, g, encEng d 0 0 e q)
  | .cpyl g d a e q => some (0x382, g, encEng d a 0 e q)
  | .cpyc g d e q => some (0x383, g, encEng d 0 0 e q)
  | .fill g d a b e q => some (0x384, g, encEng d a b e q)
  | .qfence g a e q => some (0x385, g, encEng 0 a 0 e q)
  | .twait g a tag any => some (0x386, g, .e { e0 with s1 := a.toNat, tag := tag.toNat, sub := bitNat any })
  | .tfirst g d a => some (0x387, g, encU d a 0 0)
  | .tclr g a => some (0x388, g, encU 0 a 0 0)
  | .bkinit g k d a => some (0x389, g, encU d a 0 k.toNat)
  | .bkaw g k d once => some (0x38A, g, encU d 0 0 (k.toNat + bitNat once * 2 ^ 4))
  | .bkpost g k a b => some (0x38B, g, encU 0 a b k.toNat)
  | .bkrel g k a => some (0x38C, g, encU 0 a 0 k.toNat)
  | .rst g d a size => some (0x38D, g, encU d a 0 (size.toNat * 2 ^ 4))
  | .rat g d a op size comb => some (0x38E, g, encU d a 0 (op.code + size.toNat * 2 ^ 4 + bitNat comb * 2 ^ 6))
  | .ratf g d a b op size q => some (0x38F, g, encE d a b q (op.code + size.toNat * 2 ^ 4))
  | .rld g d a size q => some (0x390, g, encE d a 0 q (size.toNat * 2 ^ 4))
  | .hflush g d all q => some (0x391, g, encE d 0 0 q (bitNat all))
  | .hcfg g a => some (0x392, g, encU 0 a 0 0)
  | .hstat g d a dst => some (0x393, g, encU d a 0 (bitNat dst))
  | .fence g k scope => some (0x394, g, .e { e0 with scope := scope.code, kind := k.code })
  | .bari g d a mem q => some (0x395, g, encE d a 0 q (bitNat mem))
  | .bara g d mem q => some (0x396, g, encE d 0 0 q (bitNat mem))
  | .barw g d mem => some (0x397, g, encU d 0 0 (bitNat mem))
  | .waitm g d a cc => some (0x398, g, encU d a 0 cc.code)
  | .phase g => some (0x399, g, encU 0 0 0 0)
  | .prep g => some (0x39A, g, encU 0 0 0 0)
  | .keep g d a plain => some (0x39B, g, encU d a 0 (bitNat plain))
  | .disc g d a => some (0x39C, g, encU d a 0 0)
  | .nred g d a b op size q => some (0x39D, g, encE d a b q (op.code + size.toNat * 2 ^ 4))
  | .nbcast g d a b size root q => some (0x39E, g, encE d a b q (size.toNat * 2 ^ 4 + bitNat root * 2 ^ 6))
  | .landingCycle .. | .holdExpiry .. | .slotWake .. | .backedRetry .. | .handlerSelection .. | .handlerAged ..
  | .handlerOverrun .. | .arrivalCounts .. | .claimRequest .. | .claimGrant .. | .tokenSendPerform ..
  | .insertionStage .. | .hamperAgeTrigger .. | .handOff .. | .hamperPacketPerform ..
  | .hamperAcknowledgement .. | .enginePortForward .. | .engineCommandComplete .. | .arrayEntryComplete ..
  | .networkCommandExecute .. | .cfgldComplete .. | .shardOperation .. | .remoteRequestPerform ..
  | .remoteRequestResponse .. | .barrierInitAtHome .. | .barrierArrivalAtHome .. | .barrierPoll ..
  | .barrierWaitRequest .. | .collectiveComplete .. | .collectiveBroken .. | .monitorReread ..
  | .phaseComplete .. | .configurationSwap .. | .strayAfterSwap .. | .operandPacketDelivery ..
  | .endOfStreamDelivery .. | .kernelCompletion .. | .faultDelivery .. | .deferredTrap ..
  | .sequentialPcFault .. | .bypassedSliceEmptied .. | .packageReset .. | .firmwareReady
  | .fabricPacketArrival .. | .indeterminateDeclaration .. | .heldPacketResend .. | .xfcmdRetry ..
  | .xfcmdDecline .. | .lateCommandCompletion .. | .schtrig .. | .launch .. | .launchNotice ..
  | .placePartRequest .. | .startNotice .. | .releaseNotice .. | .partCompletionReport .. | .selectionRound
  | .schpreFull .. | .schpreCompact .. | .schpreWithdraw .. | .compactTimeout .. | .preemptionStop ..
  | .savePoint .. | .schres .. | .restoration .. | .testRound .. | .htest .. | .hostTestRun .. | .hangSweep
  | .oldestAnnounce .. | .patrolScrub .. | .flitParityRetry .. | .routerFailure .. | .routingTableRewrite
  | .prst .. | .linkReplay .. | .linkTrained .. | .fabricPortDown .. | .hostLinkDown .. | .hostLinkRetrain ..
  | .apertureRead .. | .apertureWrite .. | .apertureAtomic .. | .hostCompletionTimeout .. | .powerWindow ..
  | .thermalTrip .. | .markFrame .. | .mscfgEnable .. | .mscfgDisable .. | .cacheWritebackDone | .vsplit ..
  | .pkgnum .. | .ivqPage .. | .ivqRange .. | .ivqSpace .. | .ivqAll .. | .ivqAcknowledge | .hwin ..
  | .pgctl .. | .pwrceil .. | .lnklim .. | .mkfmt .. | .lgb .. | .attest .. | .extend .. | .keyload ..
  | .markkey .. | .recoveryImage .. | .fltcfg .. | .katcfg .. | .hangcfg .. | .registerWrite .. => none

/-- The word of an instruction (R178); none for an event. -/
def encode (i : Instr) : Option W64 :=
  i.body.map fun (op, g, b) => BitVec.ofNat 64 (packWord op g b)

/-- The instruction that the decoder reads from the first bits of an instruction, numbered from the least significant
bit of its first word; the bits above nbits are zero. An instruction is one 64-bit word (R178). -/
def decodeTableWord (nbits w : Nat) : Option Instr :=
  match decode (BitVec.ofNat 64 (w % 2 ^ nbits)) with
  | .ok i => some i
  | .encodingFault _ => none

end Sys2Proof
end

