-- ==== Sys2Proof/Machine/Float.lean ====
section
/-!
DEFINITION. Floating-point values and arithmetic, exact to the bit (R81 to R85, R94 to R97, R102, R103): a value is an
exact sign, magnitude and power of two, every operation forms its exact result, and one rounding function writes it in
a format.
-/

namespace Sys2Proof.Machine

/-- The element formats of R81. -/
inductive Fmt where
  | f32 | f16 | bf16 | e4m3 | e5m2 | e2m1
  deriving DecidableEq, Repr

/-- Width in bits (R81). -/
def Fmt.width : Fmt → Nat
  | .f32 => 32 | .f16 => 16 | .bf16 => 16 | .e4m3 => 8 | .e5m2 => 8 | .e2m1 => 4

/-- Width of the fraction field (R81). -/
def Fmt.fbits : Fmt → Nat
  | .f32 => 23 | .f16 => 10 | .bf16 => 7 | .e4m3 => 3 | .e5m2 => 2 | .e2m1 => 1

/-- Exponent bias (R81). -/
def Fmt.bias : Fmt → Nat
  | .f32 => 127 | .f16 => 15 | .bf16 => 127 | .e4m3 => 7 | .e5m2 => 15 | .e2m1 => 1

/-- The code of the largest finite magnitude (R81). -/
def Fmt.maxCode : Fmt → Nat
  | .f32 => 0x7F7FFFFF | .f16 => 0x7BFF | .bf16 => 0x7F7F | .e4m3 => 0x7E | .e5m2 => 0x7B | .e2m1 => 0x7

/-- The default NaN (R83); E2M1 has none and nothing asks for it. -/
def Fmt.nanCode : Fmt → Nat
  | .f32 => 0x7FC00000 | .f16 => 0x7E00 | .bf16 => 0x7FC0 | .e4m3 => 0x7F | .e5m2 => 0x7E | .e2m1 => 0x7

/-- The format of an FP element type (R182). -/
def Fmt.ofTy : Ty → Option Fmt
  | .f32 => some .f32 | .f16 => some .f16 | .bf16 => some .bf16 | .e4m3 => some .e4m3 | .e5m2 => some .e5m2
  | _ => none

/-- An exact value: (-1)^neg × (num + δ) × 2^exp, with δ = 0, or 0 < δ < 1 when sticky (the value then lies strictly
between two neighbouring multiples of 2^exp, which lie far below every rounding boundary). -/
inductive FVal where
  | nan
  | inf (neg : Bool)
  | fin (neg : Bool) (num : Nat) (exp : Int) (sticky : Bool)
  deriving DecidableEq, Repr

/-- The code of an infinity; in E4M3, which has none, the default NaN (R95). -/
def infCode (f : Fmt) (neg : Bool) : Nat :=
  match f with
  | .e4m3 => f.nanCode
  | .e2m1 => f.maxCode + (if neg then 8 else 0)
  | _ => (2 ^ (f.width - 1 - f.fbits) - 1) * 2 ^ f.fbits + (if neg then 2 ^ (f.width - 1) else 0)

/-- The value of an encoding (R82). -/
def decodeF (f : Fmt) (x : Nat) : FVal :=
  let neg := x / 2 ^ (f.width - 1) % 2 == 1
  let mag := x % 2 ^ (f.width - 1)
  let e := mag / 2 ^ f.fbits
  let m := mag % 2 ^ f.fbits
  if mag > f.maxCode then
    if f != .e4m3 && m == 0 then .inf neg else .nan
  else if e == 0 then .fin neg m (1 - (f.bias : Int) - f.fbits) false
  else .fin neg (2 ^ f.fbits + m) ((e : Int) - f.bias - f.fbits) false

/-- The rounding directions of RC[1:0] (R94). -/
inductive RMode where
  | rn | rz | ru | rd
  deriving DecidableEq, Repr

def RMode.ofRc (rc : Nat) : RMode :=
  match rc % 4 with
  | 0 => .rn
  | 1 => .rz
  | 2 => .ru
  | _ => .rd

/-- Whether the magnitude is rounded up: sig is the kept part, r / 2^s the rest (R94). -/
def roundsUp (m : RMode) (neg : Bool) (sig r s : Nat) (sticky : Bool) : Bool :=
  let inexact := r != 0 || sticky
  match m with
  | .rn => decide (2 * r > 2 ^ s) || (2 * r == 2 ^ s && (sticky || sig % 2 == 1))
  | .rz => false
  | .ru => !neg && inexact
  | .rd => neg && inexact

/-- num / 2^s rounded to an integer magnitude. -/
def roundShift (m : RMode) (neg : Bool) (num s : Nat) (sticky : Bool) : Nat :=
  let sig := num / 2 ^ s
  let r := num % 2 ^ s
  if roundsUp m neg sig r s sticky then sig + 1 else sig

/-- The value 2^q × num × 2^(exp - q), rounded to a multiple of 2^q. -/
def roundTo (m : RMode) (neg : Bool) (num : Nat) (exp q : Int) (sticky : Bool) : Nat :=
  if exp ≥ q then num * 2 ^ (exp - q).toNat else roundShift m neg num (q - exp).toNat sticky

/-- What an overflow gives (R95). -/
def overflowCode (f : Fmt) (m : RMode) (sat neg : Bool) : Nat :=
  let sgn := if neg then 2 ^ (f.width - 1) else 0
  if sat then f.maxCode + sgn
  else match m, neg with
    | .rz, _ => f.maxCode + sgn
    | .ru, true => f.maxCode + sgn
    | .rd, false => f.maxCode + sgn
    | _, _ => infCode f neg

/-- A value written in a format by the rounding control RC (R94, R95). -/
def roundF (f : Fmt) (rc : Nat) (v : FVal) : Nat :=
  let m := RMode.ofRc rc
  let sat := rc / 4 % 2 == 1
  match v with
  | .nan => f.nanCode
  | .inf neg => if sat then f.maxCode + (if neg then 2 ^ (f.width - 1) else 0) else infCode f neg
  | .fin neg num exp sticky =>
    let sgn := if neg then 2 ^ (f.width - 1) else 0
    if num == 0 then sgn
    else
      let top : Int := (Nat.log2 num : Int) + exp
      let qmin : Int := 1 - (f.bias : Int) - f.fbits
      let q := max (top - f.fbits) qmin
      let sig := roundTo m neg num exp q sticky
      let (sig, q) := if sig == 2 ^ (f.fbits + 1) then (2 ^ f.fbits, q + 1) else (sig, q)
      let mag := if sig < 2 ^ f.fbits then sig
        else (q + f.fbits + f.bias).toNat * 2 ^ f.fbits + (sig - 2 ^ f.fbits)
      if mag > f.maxCode then overflowCode f m sat neg else mag + sgn

/-- RNE of a value (R85, R94). -/
def rne (f : Fmt) (v : FVal) : Nat := roundF f 0 v

/-- The signed integer of num × 2^e for e at or above a lower exponent. -/
def alignInt (neg : Bool) (num : Nat) (exp e : Int) : Int :=
  let n : Int := num * 2 ^ (exp - e).toNat
  if neg then -n else n

/-- The exact sum (R85). -/
def addV (a b : FVal) : FVal :=
  match a, b with
  | .nan, _ => .nan
  | _, .nan => .nan
  | .inf s, .inf t => if s == t then .inf s else .nan
  | .inf s, _ => .inf s
  | _, .inf t => .inf t
  | .fin s m e _, .fin t n k _ =>
    let l := min e k
    let z := alignInt s m e l + alignInt t n k l
    if z == 0 then .fin (s && t) 0 0 false else .fin (z < 0) z.natAbs l false

/-- The value with its sign inverted. -/
def negV : FVal → FVal
  | .nan => .nan
  | .inf s => .inf (!s)
  | .fin s m e k => .fin (!s) m e k

/-- The exact product (R85). -/
def mulV (a b : FVal) : FVal :=
  match a, b with
  | .nan, _ => .nan
  | _, .nan => .nan
  | .inf s, .inf t => .inf (s != t)
  | .inf s, .fin t n _ _ => if n == 0 then .nan else .inf (s != t)
  | .fin s m _ _, .inf t => if m == 0 then .nan else .inf (s != t)
  | .fin s m e _, .fin t n k _ => .fin (s != t) (m * n) (e + k) false

/-- The exact quotient, to 64 bits below the dividend's least and a sticky remainder (R85, R97). -/
def divV (a b : FVal) : FVal :=
  match a, b with
  | .nan, _ => .nan
  | _, .nan => .nan
  | .inf _, .inf _ => .nan
  | .inf s, .fin t _ _ _ => .inf (s != t)
  | .fin s _ _ _, .inf t => .fin (s != t) 0 0 false
  | .fin s m e _, .fin t n k _ =>
    if n == 0 then (if m == 0 then .nan else .inf (s != t))
    else .fin (s != t) (m * 2 ^ 64 / n) (e - k - 64) (m * 2 ^ 64 % n != 0)

/-- The order of two values that are no NaN: -1, 0 or 1; the zeros are equal. -/
def cmpV (a b : FVal) : Int :=
  match a, b with
  | .inf s, .inf t => if s == t then 0 else if s then -1 else 1
  | .inf s, _ => if s then -1 else 1
  | _, .inf t => if t then 1 else -1
  | .fin s m e _, .fin t n k _ =>
    let l := min e k
    let z := alignInt s m e l - alignInt t n k l
    if z < 0 then -1 else if z == 0 then 0 else 1
  | _, _ => 0

def FVal.isNan : FVal → Bool
  | .nan => true
  | _ => false

def FVal.isNeg : FVal → Bool
  | .nan => false
  | .inf s => s
  | .fin s _ _ _ => s

def FVal.isZero : FVal → Bool
  | .fin _ m _ k => m == 0 && !k
  | _ => false

def FVal.isFinite : FVal → Bool
  | .fin .. => true
  | _ => false

/-- The lesser of two values, -0 below +0, a NaN for a NaN (R85). -/
def minV (a b : FVal) : FVal :=
  if a.isNan || b.isNan then .nan
  else if cmpV a b < 0 then a
  else if cmpV a b > 0 then b
  else if a.isNeg then a else b

/-- The greater of two values, -0 below +0, a NaN for a NaN (R85). -/
def maxV (a b : FVal) : FVal :=
  if a.isNan || b.isNan then .nan
  else if cmpV a b > 0 then a
  else if cmpV a b < 0 then b
  else if a.isNeg then b else a

/-- A condition of R181 on two values. -/
def condV (c : Cond) (a b : FVal) : Bool :=
  let un := a.isNan || b.isNan
  match c with
  | .eq => !un && cmpV a b == 0
  | .ne => un || cmpV a b != 0
  | .lt => !un && cmpV a b < 0
  | .le => !un && cmpV a b ≤ 0
  | .gt => !un && cmpV a b > 0
  | .ge => !un && cmpV a b ≥ 0
  | .un => un
  | .ord => !un

/-- A value rounded to an integer by a rounding direction; 0 for a NaN (R96); infinities saturate below. -/
def toIntV (m : RMode) : FVal → Int
  | .nan => 0
  | .inf s => if s then -(2 ^ 200 : Int) else 2 ^ 200
  | .fin s n e k =>
    let r : Int := roundTo m s n e 0 k
    if s then -r else r

/-- An integer as a value (R96). -/
def ofIntV (z : Int) : FVal := .fin (z < 0) z.natAbs 0 false

/-- SAT of R80. -/
def satInt (x lo hi : Int) : Int := if x < lo then lo else if x > hi then hi else x

/-! ### Operations on encodings -/

def fadd (f : Fmt) (a b : Nat) : Nat := rne f (addV (decodeF f a) (decodeF f b))
def fsub (f : Fmt) (a b : Nat) : Nat := rne f (addV (decodeF f a) (negV (decodeF f b)))
def fmul (f : Fmt) (a b : Nat) : Nat := rne f (mulV (decodeF f a) (decodeF f b))
def fdiv (f : Fmt) (a b : Nat) : Nat := rne f (divV (decodeF f a) (decodeF f b))
def ffma (f : Fmt) (a b c : Nat) : Nat := rne f (addV (mulV (decodeF f a) (decodeF f b)) (decodeF f c))
def ffms (f : Fmt) (a b c : Nat) : Nat := rne f (addV (mulV (decodeF f a) (decodeF f b)) (negV (decodeF f c)))
def fminC (f : Fmt) (a b : Nat) : Nat := rne f (minV (decodeF f a) (decodeF f b))
def fmaxC (f : Fmt) (a b : Nat) : Nat := rne f (maxV (decodeF f a) (decodeF f b))

/-- The sign bit cleared, a NaN to the default NaN (R239). -/
def fabsC (f : Fmt) (a : Nat) : Nat := if (decodeF f a).isNan then f.nanCode else a % 2 ^ (f.width - 1)

/-- The sign bit inverted, a NaN to the default NaN (R239). -/
def fnegC (f : Fmt) (a : Nat) : Nat :=
  if (decodeF f a).isNan then f.nanCode
  else (a + 2 ^ (f.width - 1)) % 2 ^ f.width

/-- The class word of VCLASS (R240). -/
def classWord (f : Fmt) (a : Nat) : Nat :=
  let e := a % 2 ^ (f.width - 1) / 2 ^ f.fbits
  match decodeF f a with
  | .nan => 2 ^ 8
  | .inf s => if s then 1 else 2 ^ 7
  | .fin s n _ _ =>
    if n == 0 then (if s then 2 ^ 3 else 2 ^ 4)
    else if e == 0 then (if s then 2 ^ 2 else 2 ^ 5)
    else if s then 2 ^ 1 else 2 ^ 6

/-! ### Special functions (R97) -/

/-- One Newton step towards the integer square root, from above, at most fuel times. -/
def isqrtFrom (n : Nat) : Nat → Nat → Nat
  | 0, x => x
  | fuel + 1, x =>
    let y := (x + n / x) / 2
    if y < x then isqrtFrom n fuel y else x

/-- The integer square root: the greatest r with r × r ≤ n. -/
def isqrt (n : Nat) : Nat := if n == 0 then 0 else isqrtFrom n 600 (2 ^ (Nat.log2 n / 2 + 1))

/-- RCP. -/
def frcp (a : Nat) : Nat := rne .f32 (divV (.fin false 1 0 false) (decodeF .f32 a))

/-- RSQ. -/
def frsq (a : Nat) : Nat :=
  match decodeF .f32 a with
  | .nan => Fmt.f32.nanCode
  | .inf s => if s then Fmt.f32.nanCode else 0
  | .fin s m e _ =>
    if m == 0 then infCode .f32 s
    else if s then Fmt.f32.nanCode
    else
      let (m, e) := if e % 2 == 0 then (m, e) else (2 * m, e - 1)
      let r := isqrt (2 ^ 160 / m)
      rne .f32 (.fin false r (-80 - e / 2) (r * r * m != 2 ^ 160))

/-- A lower bound of 2^(f / 2^k) in units of 2^-p, from the top of k bits of f downwards: acc × the product over the set
bits of the successive square roots of 2, each step erring by less than 3 units below. -/
def exp2Bits (p : Nat) : Nat → Nat → Nat → Nat → Nat
  | 0, _, _, acc => acc
  | k + 1, f, root, acc =>
    let root := isqrt (root * 2 ^ p)
    let acc := if f / 2 ^ k % 2 == 1 then acc * root / 2 ^ p else acc
    exp2Bits p k f root acc

/-- 2^(f / 2^k) for 0 < f < 2^k as a sticky value, at the first precision of the list at which the enclosure decides
every bit above 2^-60 × 2^-(p - 60). -/
def exp2Frac (k f : Nat) : List Nat → FVal
  | [] => .fin false 1 0 false
  | p :: ps =>
    let lo := exp2Bits p k f (2 * 2 ^ p) (2 ^ p)
    let g := p - 80
    if lo / 2 ^ g == (lo + 16 * (k + 1)) / 2 ^ g then .fin false (lo / 2 ^ g) (-80) true
    else exp2Frac k f ps

/-- EXP2 (R97). An argument below 2^-25 in magnitude gives 1.0; otherwise the argument has at most 49 fraction bits. -/
def fexp2 (a : Nat) : Nat :=
  match decodeF .f32 a with
  | .nan => Fmt.f32.nanCode
  | .inf s => if s then 0 else infCode .f32 false
  | .fin s m e _ =>
    if m == 0 then 0x3F800000
    else if (Nat.log2 m : Int) + e < -25 then 0x3F800000
    else if (Nat.log2 m : Int) + e > 9 then (if s then 0 else infCode .f32 false)
    else
      let z := alignInt s m (max e (-49)) (-49)
      let n := z / 2 ^ 49
      let f := (z % 2 ^ 49).toNat
      if f == 0 then rne .f32 (.fin false 1 n false)
      else match exp2Frac 49 f [160, 320, 640] with
        | .fin _ num x st => rne .f32 (.fin false num (x + n) st)
        | v => rne .f32 v

/-- Binary digits of log2 of a number in [1, 2) held as an enclosure [lo, hi] in units of 2^-p, by repeated squaring;
none when the enclosure no longer decides a digit. -/
def log2Digits (p : Nat) : Nat → Nat → Nat → Nat → Option Nat
  | 0, _, _, d => some d
  | k + 1, lo, hi, d =>
    let lo := lo * lo / 2 ^ p
    let hi := hi * hi / 2 ^ p + 1
    if lo ≥ 2 * 2 ^ p then log2Digits p k (lo / 2) (hi / 2 + 1) (2 * d + 1)
    else if hi < 2 * 2 ^ p then log2Digits p k lo hi (2 * d)
    else none

/-- The first k digits of log2 of m / 2^t, at the first precision of the list that decides them. -/
def log2Frac (k m t : Nat) : List Nat → Nat
  | [] => 0
  | p :: ps =>
    match log2Digits p k (m * 2 ^ p / 2 ^ t) (m * 2 ^ p / 2 ^ t) 0 with
    | some d => d
    | none => log2Frac k m t ps

/-- LOG2 (R97). -/
def flog2 (a : Nat) : Nat :=
  match decodeF .f32 a with
  | .nan => Fmt.f32.nanCode
  | .inf s => if s then Fmt.f32.nanCode else infCode .f32 false
  | .fin s m e _ =>
    if m == 0 then infCode .f32 true
    else if s then Fmt.f32.nanCode
    else
      let t := Nat.log2 m
      let n : Int := e + t
      if m == 2 ^ t then rne .f32 (ofIntV n)
      else
        let z : Int := n * 2 ^ 100 + log2Frac 100 m t [260, 400, 600]
        if z < 0 then rne .f32 (.fin true (z.natAbs - 1) (-100) true)
        else rne .f32 (.fin false z.natAbs (-100) true)

/-! ### Orders of sums (R102, R103) -/

/-- One level of REDTREE: neighbouring pairs. -/
def redLevel (op : Nat → Nat → Nat) : List Nat → List Nat
  | x :: y :: t => op x y :: redLevel op t
  | l => l

/-- REDTREE over a list whose length is a power of two up to 2^fuel (R102). -/
def redTree (op : Nat → Nat → Nat) : Nat → List Nat → Nat
  | 0, l => l.headD 0
  | fuel + 1, l =>
    match l with
    | [x] => x
    | l => redTree op fuel (redLevel op l)

/-- SUMSEQ of a non-empty list of FP32 codes, from the first term (R103). -/
def sumSeq : List Nat → Nat
  | [] => 0
  | x :: t => t.foldl (fadd .f32) x

end Sys2Proof.Machine
end

