-- ==== Sys2Proof/Machine/Operands.lean ====
section
/-!
DEFINITION. Operand forms: typed integers (R79, R80, R200, R235), immediates (R202), global addresses (R110 to R113),
and the bit fields of packed words.
-/

namespace Sys2Proof.Machine

/-- Bits [lo + n - 1 : lo] of a 64-bit word, as a number (R3). -/
def fld (x : W64) (lo n : Nat) : Nat := bitsOf x.toNat lo n

/-- The width of an element of a type in bits (R79, R81, R235). -/
def tyWidth : Ty → Nat
  | .i8 => 8 | .i16 => 16 | .i32 => 32 | .i64 => 64 | .n8 => 8 | .n16 => 16 | .n32 => 32 | .n64 => 64
  | .f32 => 32 | .f16 => 16 | .bf16 => 16 | .e4m3 => 8 | .e5m2 => 8 | .mx8 => 8 | .mx8e5 => 8 | .mx4 => 4
  | .mxi8 => 8 | .pl => 32

/-- An integer modulo 2^w, as a number below 2^w (R79). -/
def wrapTo (w : Nat) (r : Int) : Nat := (r % (2 ^ w : Nat)).toNat

/-- SV(x): the low w bits read as a signed number (R200). -/
def svOf (w x : Nat) : Int := if x % 2 ^ w < 2 ^ (w - 1) then (x % 2 ^ w : Nat) else (x % 2 ^ w : Nat) - (2 ^ w : Nat)

/-- UV(x): the low w bits read as an unsigned number (R200). -/
def uvOf (w x : Nat) : Nat := x % 2 ^ w

/-- VAL(x) by the type (R200). -/
def valOf (ty : Ty) (x : Nat) : Int := if ty.isSigned then svOf (tyWidth ty) x else (uvOf (tyWidth ty) x : Nat)

/-- The range of a type (R80). -/
def tyLo (ty : Ty) : Int := if ty.isSigned then -(2 ^ (tyWidth ty - 1) : Nat) else 0
def tyHi (ty : Ty) : Int := if ty.isSigned then (2 ^ (tyWidth ty - 1) : Nat) - 1 else (2 ^ tyWidth ty : Nat) - 1

/-- The result in range, where the saturating form is asked for (R80). -/
def satIf (sat : Bool) (ty : Ty) (r : Int) : Int := if sat then satInt r (tyLo ty) (tyHi ty) else r

/-- EXT(r): r mod 2^w extended to 64 bits by the type (R200). -/
def extOf (ty : Ty) (r : Int) : W64 :=
  if ty.isSigned then BitVec.ofInt 64 (svOf (tyWidth ty) (wrapTo (tyWidth ty) r))
  else BitVec.ofNat 64 (wrapTo (tyWidth ty) r)

/-- An element written into a lane (R235). -/
def laneOut (ty : Ty) (r : Int) : W32 :=
  if ty.isSigned then BitVec.ofInt 32 (svOf (tyWidth ty) (wrapTo (tyWidth ty) r))
  else BitVec.ofNat 32 (wrapTo (tyWidth ty) r)

/-- 2^SIZE bytes, loaded with or without sign extension, as a 64-bit value (R219). -/
def extSize (size : Nat) (sx : Bool) (x : Nat) : W64 :=
  if sx then BitVec.ofInt 64 (svOf (8 * 2 ^ size) x) else BitVec.ofNat 64 (uvOf (8 * 2 ^ size) x)

/-- log2 of the element size of a type in bytes. -/
def tySize (ty : Ty) : Nat :=
  match tyWidth ty with
  | 8 => 0 | 16 => 1 | 32 => 2 | 64 => 3 | _ => 0

/-- The immediate of an I-format form, sign-extended (R202). -/
def immOf {n : Nat} (imm : BitVec n) : W64 := imm.signExtend 64

/-- The effective address (UV(BASE) + SEXT(OFF)) mod 2^64 (R219). -/
def effAddr {n : Nat} (base : W64) (off : BitVec n) : Nat := (base + off.signExtend 64).toNat

/-! ### Global addresses (R110 to R113) -/

/-- A global address by its form: a tile window or a virtual address. -/
inductive GAddr where
  | tile (coord bank off : Nat)
  | virt (va : Nat)
  | reserved
  deriving DecidableEq, Repr

def gaddr (x : W64) : GAddr :=
  match fld x 60 4 with
  | 0x0 => .virt (fld x 0 60)
  | 0x8 => .tile (fld x 38 22) (fld x 36 2) (fld x 0 36)
  | _ => .reserved

/-- The bytes of a bank class (R111); of bank class 2, the bound that every place knows. -/
def bankBytes : Nat → Nat
  | 0 => 0x200000
  | 1 => 0x80000
  | 2 => 0x1800000
  | _ => 0x800

/-- The package of a tile coordinate, and its site number (R12). -/
def coordPkg (c : Nat) : Nat := c / 1024
def coordSite (c : Nat) : Nat := c % 1024

/-- The codes of R476 that a range of n bytes of a global address breaks at issue, for accesses other than store
elements: 0x04, 0x05, 0x06 and 0x07. -/
def gaddrCodes (x : W64) (n : Nat) : List Nat :=
  match gaddr x with
  | .reserved => [4]
  | .virt va => if 2 ^ 57 < va + n || 2 ^ 57 ≤ va then [5] else []
  | .tile _ bank off =>
    (if bankBytes bank < off + n || bankBytes bank ≤ off then [6] else []) ++ (if bank = 3 then [7] else [])

/-- A bit of a number. -/
def bitOf (x n : Nat) : Bool := x / 2 ^ n % 2 == 1

/-- The number of set bits below n. -/
def popNat (x : Nat) : Nat → Nat
  | 0 => 0
  | n + 1 => popNat x n + (if bitOf x n then 1 else 0)

/-- The lowest set bit below n, where there is one. -/
def lowestSet (x n : Nat) : Option Nat := (List.range n).find? (bitOf x)

/-- A mask below 2^n from its bits. -/
def maskOf (n : Nat) (f : Nat → Bool) : Nat := (List.range n).foldl (fun acc i => acc + (if f i then 2 ^ i else 0)) 0

/-- A 64-bit word from its fields. -/
def word64 (l : List (Nat × Nat)) : W64 := BitVec.ofNat 64 (l.foldl (fun acc (lo, x) => acc + x * 2 ^ lo) 0)

end Sys2Proof.Machine
end

