-- ==== Sys2Proof/Machine/Flags.lean ====
section
/-!
DEFINITION. Conditions and truth tables: what CMP, VICMP, PLOG, MLOG and WAITM compute. The machine has no other flags
(R84).
-/

namespace Sys2Proof.Machine

/-- A condition over integers (R181); the two FP conditions name no integer condition. -/
def condI (c : Cond) (a b : Int) : Bool :=
  match c with
  | .eq => a == b
  | .ne => a != b
  | .lt => decide (a < b)
  | .le => decide (a ≤ b)
  | .gt => decide (a > b)
  | .ge => decide (a ≥ b)
  | .un => false
  | .ord => false

/-- SUB[2 × A + B] of a truth table (R211, R257). -/
def truth (tt : BitVec 4) (a b : Bool) : Bool := tt.getLsbD (2 * bitNat a + bitNat b)

/-- The condition of WAITM (R319). -/
def condW (c : WCond) (x v : W64) : Bool :=
  match c with
  | .ne => x != v
  | .eq => x == v
  | .geu => decide (v.toNat ≤ x.toNat)

/-- The comparison of VCMPF on two elements of a format (R181, R239). -/
def condF (f : Fmt) (c : Cond) (a b : Nat) : Bool := condV c (decodeF f a) (decodeF f b)

end Sys2Proof.Machine
end

