-- ==== Sys2Proof/Machine/Maps.lean ====
section
/-!
DEFINITION. The operations on stores indexed by a number (lists of pairs in strictly ascending key order), and on
memories held as lists of listed bytes.
-/

namespace Sys2Proof.Machine

/-- The value at a key; the default where the key is not listed. -/
def getD {α : Type} (d : α) : Sparse α → Nat → α
  | [], _ => d
  | (j, x) :: t, k => if j = k then x else getD d t k

/-- The store with a value at a key. -/
def put {α : Type} (k : Nat) (x : α) : Sparse α → Sparse α
  | [] => [(k, x)]
  | (j, y) :: t =>
    if j = k then (k, x) :: t
    else if k < j then (k, x) :: (j, y) :: t
    else (j, y) :: put k x t

/-- The store with no value listed at a key. -/
def erase {α : Type} (k : Nat) (l : Sparse α) : Sparse α := l.filter (·.1 != k)

/-- The store with a value at a key, the default being left unlisted. -/
def putD {α : Type} [DecidableEq α] (d : α) (k : Nat) (x : α) (l : Sparse α) : Sparse α :=
  if x = d then erase k l else put k x l

/-- A set of numbers as an ascending list: whether a number is in it. -/
def inSet (k : Nat) (l : List Nat) : Bool := l.contains k

/-- The set with a number put in. -/
def insSet (k : Nat) : List Nat → List Nat
  | [] => [k]
  | j :: t => if j = k then j :: t else if k < j then k :: j :: t else j :: insSet k t

/-- The set without a number. -/
def delSet (k : Nat) (l : List Nat) : List Nat := l.filter (· != k)

/-- The value at an index of a list. -/
def nth {α : Type} (l : List α) (n : Nat) (d : α) : α := (l[n]?).getD d

/-! ### Memories -/

/-- The byte at an address. An unlisted address reads as zero (notes/assumptions/4.md). -/
def byteAt (m : List Host.Cell) (a : Nat) : Byte := getD 0 m a

/-- The memory with a byte written; a zero byte is left unlisted. -/
def setByte (m : List Host.Cell) (a : Nat) (b : Byte) : List Host.Cell := putD 0 a b m

/-- n bytes from an address upwards. -/
def bytesAt (m : List Host.Cell) (a : Nat) : Nat → List Byte
  | 0 => []
  | n + 1 => byteAt m a :: bytesAt m (a + 1) n

/-- The memory with bytes written from an address upwards. -/
def setBytes (m : List Host.Cell) (a : Nat) : List Byte → List Host.Cell
  | [] => m
  | b :: t => setBytes (setByte m a b) (a + 1) t

/-- The number that bytes spell, the first least significant (R3). -/
def leNat : List Byte → Nat
  | [] => 0
  | b :: t => b.toNat + 256 * leNat t

/-- The n bytes of a number, the least significant first (R3). -/
def leBytes : Nat → Nat → List Byte
  | 0, _ => []
  | n + 1, x => BitVec.ofNat 8 x :: leBytes n (x / 256)

/-- The little-endian number held in n bytes from an address upwards. -/
def loadNat (m : List Host.Cell) (a n : Nat) : Nat := leNat (bytesAt m a n)

/-- The memory with the low n bytes of a number written from an address upwards. -/
def storeNat (m : List Host.Cell) (a n x : Nat) : List Host.Cell := setBytes m a (leBytes n x)

/-- The memory with every byte of [lo, lo + n) zero. -/
def zeroRange (m : List Host.Cell) (lo n : Nat) : List Host.Cell := m.filter fun c => c.1 < lo || lo + n ≤ c.1

/-- Keys strictly rising. -/
def rising {α : Type} : Sparse α → Bool
  | [] => true
  | [_] => true
  | (j, _) :: (k, y) :: t => decide (j < k) && rising ((k, y) :: t)

/-- The canonical form of a memory: addresses strictly rising, no byte equal to what an unlisted address reads as. -/
def Memory.wf (m : List Host.Cell) : Bool := rising m && m.all (fun c => c.2 != 0)

/-! ### Poison: ascending lists of poisoned granules -/

/-- The granules of 2^g bytes that n bytes from an address touch. -/
def granules (g a n : Nat) : List Nat :=
  if n = 0 then [] else (List.range ((a + n - 1) / 2 ^ g - a / 2 ^ g + 1)).map (a / 2 ^ g + ·)

/-- Whether any granule that the bytes touch is poisoned. -/
def anyPoison (g : Nat) (p : List Nat) (a n : Nat) : Bool := (granules g a n).any (inSet · p)

/-- A write of n bytes clears the granules it covers wholly and leaves the others (R471). -/
def clearPoison (g : Nat) (p : List Nat) (a n : Nat) : List Nat :=
  p.filter fun k => !(decide (a ≤ k * 2 ^ g) && decide ((k + 1) * 2 ^ g ≤ a + n))

/-- Every granule that the bytes touch becomes poisoned (R469). -/
def addPoison (g : Nat) (p : List Nat) (a n : Nat) : List Nat := (granules g a n).foldl (fun l k => insSet k l) p

end Sys2Proof.Machine
end

