-- ==== Sys2Proof/Machine/State.lean ====
section
/-!
DEFINITION. The state of one package of the MLV-7960 with the memories of its hosts, as plain data, and the state right
after package reset. INVENTORY.md lists every field with the rule that names it and its reset value.
-/

namespace Sys2Proof.Machine

/-- Why the machine stops. -/
inductive Fault where
  /-- Raised by step after a thermal trip where the agenda holds no package reset (R437): all clocks stand. Safe: the machine
  goes no further there either. -/
  | clocksStopped
  deriving DecidableEq, Repr

/-- Why the model gives no next state. -/
inductive Refusal where
  /-- An instruction that has no meaning in the model. Safe: nothing is claimed of it. -/
  | notModelled (mnemonic : String)
  /-- Raised by step when the agenda holds an instruction word: words come from SRAM only. Safe: no such agenda is
  ever made by a step. -/
  | agendaNotEvent
  deriving DecidableEq, Repr

/-! ### Slots (R48, R169 to R171, R462) -/

/-- The slot states of R48. -/
inductive SlotState where
  | empty | run | held | asleep | backed | stopped | done
  deriving DecidableEq, Repr

/-- Whether a slot acts at its own positions. -/
def SlotState.acts : SlotState → Bool
  | .run => true
  | .held => true
  | .asleep => true
  | .backed => true
  | _ => false

/-- The wake condition of a slot in ASLEEP (R49). -/
inductive Wake where
  /-- SLEEP: at or after a cycle (R217) -/
  | time (c : Nat)
  /-- TWAIT (R298) -/
  | tags (mask : W64) (any : Bool)
  /-- BARW: the generation joined once the home has answered, and whether it has completed (R317, R536) -/
  | bar (handle : W64) (mem : Bool) (gen : Option W64) (met : Bool)
  /-- WAITM on a monitor; met once the condition held at a read (R319) -/
  | mon (m : Nat) (met : Bool)
  /-- PHASE; met once it has completed (R311) -/
  | phase (met : Bool)
  /-- FENCE, with the cycle by which the earlier local loads have landed (R310) -/
  | fence (k : FKind) (scope : Scope) (landed : Nat)
  /-- CWB (stores performed, and a cycle) and FETCHB (a cycle alone) (R225, R227) -/
  | code (cwb : Bool) (c : Nat)
  /-- CFGSWAP; met once the swap has taken place (R288) -/
  | swap (met : Bool)
  /-- BKAW of a basket with its destination (R314) -/
  | bkaw (k : Nat) (d : SReg)
  /-- PREP (R321) -/
  | prep
  deriving DecidableEq, Repr

/-- An effect that an issued instruction has in its landing cycle. -/
inductive PEffect where
  | s (r : Nat) (v : W64)
  | p (r : Nat) (v : Bool)
  /-- bits v of lane mask r where en is set -/
  | m (r : Nat) (en v : Nat)
  /-- lanes of vector register r -/
  | v (r : Nat) (lanes : List (Nat × W32))
  /-- HCFG, TVEC or TSCR, by its number -/
  | sys (n : Nat) (v : W64)
  | tclr (mask : W64)
  | hset (e : Nat) (v : W64)
  | hmsk (sel new : W64)
  /-- the latch is free for selections (R283) -/
  | latch (l : Nat)
  | bkinit (k base : Nat) (w : W64)
  | bkpost (k slot : Nat) (w : W64)
  | bkrel (k slot : Nat)
  /-- marks over granules of the allocation: 0 plain, 1 kept, 2 discardable (R322) -/
  | marks (lo hi mark : Nat)
  deriving DecidableEq, Repr

/-- A pending effect with its landing cycle and the issue cycle of its instruction (R38). -/
structure Pend where
  land : Nat
  iss : Nat
  eff : PEffect
  /-- the landing of a local load (R138) -/
  load : Bool
  deriving DecidableEq, Repr

/-- A recorded fault (R457, R463), with what covers it (R458). -/
structure FaultRec where
  cls : Nat
  code : Nat
  tr : Trace
  async : Bool
  value : W64
  lane : Nat
  cyc : Nat
  /-- tags of HFLUSH instructions that waited for the element (R501) -/
  flush : List Nat
  /-- an element or a remote request: a wide fence covers it -/
  fence : Bool
  /-- the arrival of a BARW -/
  barw : Bool
  /-- a fault against a CFGSWAP whose slot is asleep there (R529) -/
  swap : Bool
  deriving DecidableEq, Repr

/-- The running handler of a handler slot (R55, R57, R59). -/
structure Handler where
  entry : Nat
  chan : Nat
  latch : Nat
  held : Bool
  /-- own positions counted since the selection (R524) -/
  counted : Nat
  deriving DecidableEq, Repr

structure Slot where
  state : SlotState
  hslot : Bool
  hold : Nat
  /-- hold positions to count after the wake (R36) -/
  wakeHold : Nat
  wake : Option Wake
  /-- the state to resume, while STOPPED (R389) -/
  resume : SlotState
  /-- the lowest slot of the kernel bound to this slot -/
  kern : Nat
  pc : Nat
  s : Sparse W64
  p : Sparse Bool
  /-- lane masks m1 to m7 as numbers below 2^VLEN -/
  m : Sparse Nat
  /-- lane i of register r at key 128 × r + i -/
  v : Sparse W32
  pend : List Pend
  base : Nat
  count : Nat
  budget : Nat
  hcfg : W64
  tvec : W64
  tcause : W64
  tepc : W64
  tval : W64
  tscr : W64
  /-- issue cycles of the last true-predicated divide and SFU instruction (R40) -/
  lastDiv : Option Nat
  lastSfu : Option Nat
  faults : List FaultRec
  /-- deferred poison faults with the cycle from which they are due (R460) -/
  deferred : List (Nat × FaultRec)
  hnd : Option Handler
  /-- an overrun is due that a precise fault has put off (R524) -/
  overrun : Bool
  /-- older values of words that the slot may have fetched ahead, by physical word index (R130, R227) -/
  ahead : Sparse (List W64)
  /-- the last word of the allocation, once it has issued and passed on to its successor (R477) -/
  lastTr : Option Trace
  deriving DecidableEq, Repr

/-- A slot with no kernel bound (R48, R71, R165, R462). -/
def Slot.reset : Slot :=
  { state := .empty, hslot := false, hold := 0, wakeHold := 0, wake := none, resume := .run, kern := 0, pc := 0,
    s := [], p := [], m := [], v := [], pend := [], base := 0, count := 0, budget := 0, hcfg := 0x20020, tvec := 0,
    tcause := 0, tepc := 0, tval := 0, tscr := 0, lastDiv := none, lastSfu := none, faults := [], deferred := [],
    hnd := none, overrun := false, ahead := [], lastTr := none }

/-! ### Kernels on a tile (R52, R61, R222, R265, R378) -/

structure Kernel where
  /-- lowest-numbered slot of the kernel (R377) -/
  owner : Nat
  /-- physical slot and kernel slot number, in kernel slot order -/
  slots : List (Nat × Nat)
  mains : List Nat
  useMask : W64
  /-- the key of its launch -/
  l : Nat
  node : Nat
  graph : Nat
  wid : W64
  /-- widths of the fields of the work identifier (R67) and their extents (R68) -/
  widths : List Nat
  exts : List Nat
  rankIndex : Nat
  rankSize : Nat
  phno : Nat
  pagepol : Nat
  plen : Nat
  sbase : Nat
  sram : Nat
  pbase : Nat
  planes : Nat
  /-- physical accumulators of kernel accumulators 0 to B - 1 (R170) -/
  accs : List Nat
  /-- marks of granules of the allocation, 0 where unlisted (R322) -/
  marks : Sparse Nat
  /-- bit L: ring level L is held (R336) -/
  rings : Nat
  cfgOuts : Nat
  /-- the counted part of the image, for discardable granules (R392) -/
  tagUse : W64
  asp : Nat
  started : Bool
  deriving DecidableEq, Repr

/-! ### Local memory port (R132, R134) -/

/-- What a local access does in its SRAM cycle; addresses are physical SRAM bytes. -/
inductive LAct where
  | load (dst : List (Nat × Nat)) (size : Nat) (sx : Bool)
  | vload (r : Nat) (lanes : List (Nat × Nat)) (size : Nat) (sx : Bool) (zero : List Nat)
  /-- single-copy atomic pieces in their order, whether it is a release store (R221), and whether its pieces are performed
  in that order everywhere (R133); the lanes of a vector store are in no order (R246) -/
  | store (pieces : List (Nat × List Byte)) (rel ordered : Bool)
  | atom (d addr : Nat) (op : AOp) (size : Nat) (data swap : W64) (sx : Bool)
  | iinv (lo hi : Nat)
  | desc (cmd : Nat) (addr : Nat)
  | arm (mon : Nat)
  deriving DecidableEq, Repr

structure LAccess where
  cyc : Nat
  tr : Trace
  act : LAct
  deriving DecidableEq, Repr

/-- A single-copy atomic piece of a local store, performed at tile scope and not yet at a wider one (R133, R134): its slot,
its SRAM cycle, the bytes that it replaced with their addresses, whether it is a release store (R221), and whether it
follows the earlier pieces of its store everywhere. -/
structure Shadow where
  slot : Nat
  kern : Nat
  cyc : Nat
  old : List (Nat × Byte)
  rel : Bool
  ordered : Bool
  deriving DecidableEq, Repr

/-! ### Handlers and arrivals (R52 to R60, R276, R277, R312) -/

/-- State of a handler-table entry (R53). -/
structure HState where
  age : Nat
  pend : Nat
  aged : Bool
  running : Bool
  deriving DecidableEq, Repr

def HState.reset : HState := ⟨0, 0, false, false⟩

/-- An arrival written and not yet taken by a handler. -/
structure Arrival where
  chan : Nat
  kind : Nat
  basket : Nat
  slot : Option Nat
  len : Nat
  /-- words 1 to 7 of the latch; a token's are read from its slot -/
  words : List W64
  /-- the cycle in which PEND rises (R54) -/
  due : Nat
  /-- the entry in which it has counted -/
  entry : Option Nat
  deriving DecidableEq, Repr

/-- The states of a basket slot (10, Baskets). -/
inductive BState where
  | free | filling | claimed | ready | held
  deriving DecidableEq, Repr

structure Basket where
  valid : Bool
  rsv : Bool
  nm1 : Nat
  sz : Nat
  next : Nat
  owner : Nat
  base : Nat
  st : Sparse BState
  deriving DecidableEq, Repr

def Basket.reset : Basket := ⟨false, false, 0, 0, 0, 0, 0, []⟩

/-! ### Hampers (R144 to R168) -/

/-- An entry of the insertion queue: an element or a marker, with the cycle from which the stage may take it. -/
inductive InsItem where
  | elem (asp : Nat) (dst : HDest) (e : Elem)
  /-- FENCE and PHASE (R154) -/
  | fence (slot : Nat)
  /-- HFLUSH: the destination, or every hamper of the slot; its trace, with the tag (R308) -/
  | flush (slot : Nat) (dst : Option HDest) (tr : Trace)
  deriving DecidableEq, Repr

structure Hamper where
  /-- the cycle in which it closed -/
  closed : Option Nat
  dst : HDest
  elems : List Elem
  age : Nat
  thresh : Nat
  first : Nat
  latest : Nat
  /-- stopped by a translation fault (R157) -/
  stopped : Bool
  deriving DecidableEq, Repr

/-- A hamper packet that has left and is not acknowledged (R505). -/
structure HeldPkt where
  id : Nat
  since : Nat
  pkt : HPacket
  deriving DecidableEq, Repr

/-- An HFLUSH with TE = 1 waiting for the elements of its slot up to a count of elements (R308). -/
structure FlushWait where
  tr : Trace
  dst : Option HDest
  /-- ESEQ of the elements it covers that are not acknowledged -/
  elems : List Nat
  deriving DecidableEq, Repr

/-! ### Queued work of a tile -/

/-- An entry of the array, network or shard queue: the instruction and the operand values captured at issue (R262). -/
structure QEntry where
  i : Instr
  tr : Trace
  d : W64
  a : W64
  b : W64
  /-- lanes of a vector operand -/
  lanes : List W32
  /-- the basket and basket slot of a latch operand -/
  bslot : Option (Nat × Nat)
  iss : Nat
  deriving DecidableEq, Repr

/-- A token send that has made its claim and stepped aside (R261, R345). -/
structure Send where
  id : Nat
  e : QEntry
  /-- branches still to send: destination tile, channel, branch bit of TFORK -/
  dst : Nat
  chan : Nat
  len : Nat
  branch : Option Bool
  /-- its image goes out with BORN set: it has been registered in the census (R347) -/
  born : Bool
  since : Nat
  deriving DecidableEq, Repr

/-- What an engine command does (R301 to R305). -/
inductive EOp where
  | cpy (dst src : W64) (len : Nat)
  | cpy2 (desc : Option (List W64))
  /-- CPYL, with its list as read when it started: the entries, and whether any of it is poisoned -/
  | cpyl (addr n : Nat) (list : Option (List (List W64) × Bool))
  | cpyc (desc : Option (List W64))
  | fill (dst pat : W64) (len : Nat)
  | qfence (mask : Nat) (await : List Nat)
  deriving DecidableEq, Repr

structure ECmd where
  id : Nat
  iss : Nat
  tr : Trace
  eng : Nat
  queue : Nat
  op : EOp
  /-- the descriptor read is poisoned (R470) -/
  bad : Bool
  /-- stopped by a translation fault (R492) -/
  stopped : Bool
  /-- in progress when its node was saved (R386) -/
  late : Bool
  /-- its writes to other packages that are not acknowledged (R137) -/
  acks : List Nat
  /-- its reads and writes have been made; and the class, code and VALUE of its failure -/
  ran : Bool
  failed : Option (Nat × Nat × W64)
  /-- the beats of what it reads, and then of what it makes itself, that arrive poisoned (R469) -/
  beats : List Nat
  /-- entries of the list of a CPYL that have been performed (R303) -/
  done : Nat := 0
  /-- host ports that have not answered its reads in time (R508) -/
  mute : List Nat := []
  deriving DecidableEq, Repr

/-- An entry of the remote request queue, sent or waiting (R307, R317). -/
structure RReq where
  id : Nat
  req : Req
  /-- the local physical offset that the answer is written at -/
  dst : Nat
  since : Nat
  sent : Bool
  stopped : Bool
  /-- the generation that a BARA has joined and waits for -/
  gen : Option W64
  /-- BARW: the waiting slot -/
  barw : Bool
  /-- the request as it has left for another package, while its answer is awaited (R505) -/
  gone : Option Req
  deriving DecidableEq, Repr

/-- An entry of the collective queue (R323, R324). -/
structure CEntry where
  tr : Trace
  iss : Nat
  d : Nat
  a : Nat
  n : Nat
  size : Nat
  op : Option AOp
  root : Bool
  group : W64
  count : Nat
  level : Nat
  index : Nat
  deriving DecidableEq, Repr

/-- A hardware barrier object (R316), with the kernel whose BARI initialised it and the site of that BARI (R65). -/
structure BObj where
  valid : Bool
  count : Nat
  arrived : Nat
  gen : Nat
  init : Option RegionId
  maker : Nat
  deriving DecidableEq, Repr

def BObj.reset : BObj := ⟨false, 0, 0, 0, none, 0⟩

/-- An arrival whose generation has not completed, waiting at the home for its answer. -/
structure BWait where
  obj : Nat
  gen : Nat
  src : Nat
  id : Nat
  asp : Nat
  owner : Nat
  deriving DecidableEq, Repr

/-- A monitor in use (R319, R320). -/
structure Mon where
  slot : Nat
  cond : WCond
  word : Nat
  val : W64
  armed : Bool
  deriving DecidableEq, Repr

/-- An entry of the join table (R282). -/
structure Join where
  kern : Nat
  tokid : Nat
  depth : Nat
  path : Nat
  first : Bool
  basket : Nat
  slot : Nat
  off : Nat
  word1 : W64
  deriving DecidableEq, Repr

/-! ### Switch boxes (R288, R289, R400 to R404) -/

/-- A switch box: its two planes, what stands in its local output after conversion, and what its converter holds. -/
structure Box where
  active : Option BoxCfg
  under : Option BoxCfg
  loaded : Bool
  /-- bytes in the local output, with their poison -/
  inbuf : List (Byte × Bool)
  /-- the end-of-stream token that follows them: its DROP -/
  eos : Option Bool
  /-- end-of-stream tokens received since activation (R289) -/
  eosn : Nat
  /-- operand packets of the route, and payload bytes delivered, since activation -/
  packets : Nat
  payload : Nat
  /-- source bytes that the converter holds until they make up whole groups (R107) -/
  rest : List (Byte × Bool)
  /-- inputs that have received their end-of-stream token -/
  eosIn : List Nat
  /-- inputs on which strays stand (R529) -/
  strays : List Nat
  /-- the tile's CFGSWAP (its trace), before the swap and for faults afterwards; and whether a slot waits in it -/
  swapTr : Option Trace
  swapWait : Bool
  /-- the cycle since which LOCAL has read 1 (R289) -/
  localAt : Option Nat
  deriving DecidableEq, Repr

def Box.reset : Box :=
  { active := none, under := none, loaded := false, inbuf := [], eos := none, eosn := 0, packets := 0, payload := 0,
    rest := [], eosIn := [], strays := [], swapTr := none, swapWait := false, localAt := none }

/-! ### A tile -/

structure Tile where
  wheel : W64
  palette : W64
  sram : List Host.Cell
  sramPoison : List Nat
  plane : List Host.Cell
  planePoison : List Nat
  /-- element (r, c) of accumulator a at key 4096 × a + 64 × r + c -/
  acc : Sparse W32
  accPoison : List Nat
  slots : Sparse Slot
  kernels : List Kernel
  accesses : List LAccess
  shadow : List Shadow
  /-- older values of SRAM words that the fetch buffer may still hold, by physical word index (R129, R130;
  notes/assumptions/9.md) -/
  fetch : Sparse (List W64)
  hent : Sparse W64
  hste : Sparse HState
  arrivals : List Arrival
  latches : Sparse (List W64)
  tags : W64
  tagCount : Sparse Nat
  insQ : List (Nat × InsItem)
  eseq : Nat
  hampers : Sparse Hamper
  /-- LAST and DEPS of each hamper (R167) -/
  hlast : Sparse Nat
  hdeps : Sparse Nat
  egress : List (Nat × HPacket)
  /-- kernels whose end is evaluated at the end of this cycle (R154) -/
  kends : List Nat
  unacked : List HeldPkt
  flushes : List FlushWait
  /-- records of the hamper fault log and HFLCNT (R502) -/
  hlog : Sparse (List W64)
  hflWr : Nat
  hflLost : Nat
  engPort : List ECmd
  arrayQ : List QEntry
  netQ : List QEntry
  netStopped : Bool
  sends : List Send
  /-- token images that have left and are not acknowledged, with the message (R505) -/
  tokensOut : List (Send × TokenMsg)
  shardQ : List QEntry
  remote : List RReq
  collQ : List CEntry
  /-- collectives issued, by the key of the launch and the group (R324) -/
  collSeq : Sparse (Sparse Nat)
  baskets : Sparse Basket
  claims : List Claim
  /-- basket slots granted to sends whose image has not come: basket, slot, the send's tile and number -/
  grants : List (Nat × Nat × Nat × Nat)
  bobjs : Sparse BObj
  bwaits : List BWait
  mons : Sparse Mon
  joins : Sparse Join
  box : Box
  reloc : List (Nat × Nat)
  /-- OLDEST as last announced, per launch (R347) -/
  oldest : Sparse Nat
  nextId : Nat
  /-- last cycle of an event of R525, by the owner slot of the kernel -/
  progress : Sparse Nat
  deriving DecidableEq, Repr

/-- A tile right after package reset (R71, R174, R297). -/
def Tile.reset : Tile :=
  { wheel := 0xFFFFFFFFFFFFFFFF, palette := 0x1FFFFFFFFFFF, sram := [], sramPoison := [], plane := [],
    planePoison := [], acc := [], accPoison := [], slots := [], kernels := [], accesses := [], shadow := [],
    fetch := [], hent := [], hste := [], arrivals := [], latches := [], tags := 0xFFFFFFFFFFFFFFFF, tagCount := [],
    insQ := [], eseq := 0, hampers := [], hlast := [], hdeps := [], egress := [], kends := [], unacked := [], flushes := [],
    hlog := [], hflWr := 0, hflLost := 0, engPort := [], arrayQ := [], netQ := [], netStopped := false, sends := [],
    tokensOut := [], shardQ := [], remote := [], collQ := [], collSeq := [], baskets := [], claims := [], grants := [], bobjs := [], bwaits := [], mons := [],
    joins := [], box := Box.reset, reloc := [], oldest := [], nextId := 0, progress := [] }

/-! ### The scheduler (R359 to R394) -/

/-- The states of a node of a live launch; placing: its parts are asked of other packages. -/
inductive NState where
  | waiting | ready | placing | placed | saved | done (status : Nat)
  deriving DecidableEq, Repr

structure Node where
  st : NState
  insts : Nat
  faults : Nat
  ftile : Nat
  /-- parts on other packages that have not reported their end -/
  parts : List Nat
  /-- sites where a tile of the node was saved and vacated, with their coordinates (R522) -/
  vacated : List Nat
  /-- the members of the pod ring, by instance, as the spanned packages report them -/
  pods : List (W64 × Nat)
  /-- the tiles that the node's latest placement has moved, in every package: saved and new coordinate (R523) -/
  moves : List (Nat × Nat) := []
  /-- one more than the cycle of its latest progress when it was swept (R525) -/
  swept : Nat
  /-- while its parts are asked for: the answers that a part is not placed, 0 blocked, 1 its header refused, 2 unplaceable -/
  verdict : List Nat
  deriving DecidableEq, Repr

/-- A live launch (R368); l is its key: its launch number, and above bit 31 one more than its lead package. -/
structure Launch where
  l : Nat
  sigma : Nat
  graph : Nat
  lead : Nat
  params : List Byte
  nodes : Sparse Node
  /-- the tile of the first fault delivered to the scheduler -/
  ftile : Option Nat
  /-- listed packages that have not answered the launch notice (R369) -/
  await : List Nat
  deriving DecidableEq, Repr

/-- A queued node: launch, node, and the cycle in which it became the head. -/
structure QNode where
  l : Nat
  node : Nat
  headSince : Nat
  deriving DecidableEq, Repr

/-- AGE, NOBF and PRIO of a launch queue (R361). -/
structure QCfg where
  age : Nat
  nobf : Bool
  prio : Nat
  deriving DecidableEq, Repr

def QCfg.reset : QCfg := ⟨0x40, false, 0⟩

/-- A standing or running pre-emption (R384, R385). -/
structure Preempt where
  l : Nat
  node : Nat
  compact : Bool
  conv : Bool
  /-- the cycle at which a compact request expires -/
  due : Option Nat
  /-- asked for by the scheduler after a palette clear: the node is made ready again (R520, R521) -/
  palette : Bool
  stopped : Bool
  /-- the node ends with status 3 and nothing is saved (R466) -/
  ending : Bool
  /-- asked for by a write to SCHPRE, whose result SCHPST is to show (R383) -/
  host : Bool := false
  /-- the cycle in which its slots began to stop (R525) -/
  since : Nat := 0
  /-- space reserved in the rucksack store: site, address, length (R384) -/
  resv : List (Nat × Nat × Nat)
  deriving DecidableEq, Repr

/-- A saved tile (R388 to R390): its rucksack lies in the rucksack store. Its SRAM, plane-store and accumulator contents are
read back from there; what the spec gives no byte layout is kept here beside it, and so is the save block (R387). -/
structure Ruck where
  l : Nat
  node : Nat
  site : Nat
  compact : Bool
  addr : Nat
  /-- offsets of the eight sections, then the length -/
  offs : List Nat
  kern : Kernel
  slots : Sparse Slot
  tagSave : W64
  pendSave : Sparse Nat
  late : Nat
  baskets : Sparse Basket
  joins : List Join
  bobjs : Sparse BObj
  mons : Sparse Mon
  hent : Sparse W64
  hste : Sparse HState
  arrivals : List Arrival
  latches : Sparse (List W64)
  cmds : List ECmd
  /-- deferred sends that have sent nothing yet, and single branches still to send -/
  sends : List QEntry
  branches : List Send
  colls : List CEntry
  waits : List RReq
  reloc : List (Nat × Nat)
  /-- collectives issued by the tile for the launch -/
  collSeq : Sparse Nat
  /-- wheel positions of each slot -/
  wheel : W64
  /-- the site at which the tile has been placed again -/
  dest : Option Nat
  /-- cycles without progress before the save, which count on after it (R525) -/
  idle : Nat
  deriving DecidableEq, Repr

/-- A selection round that waits for other packages to place their parts: the heads still to come, as queue and effective
priority, the size limit, the queue registers as the round uses them (R361), and whether another round has been asked for
meanwhile (R369, R374). -/
structure Round where
  rest : List (Nat × Nat)
  limit : Option Nat
  cfg : Sparse QCfg
  again : Bool
  deriving DecidableEq, Repr

/-- A collective of a group that is broken (R509), or to which partial results of other packages have come (R407, R409), with
the result come down, and whether this package's own partial result has gone up. -/
structure Coll where
  l : Nat
  level : Nat
  fields : Nat
  index : Nat
  broken : Bool
  parts : List Partial
  result : Option Partial
  sent : Bool
  deriving DecidableEq, Repr

/-- A posted write of the scheduler to host memory with the interrupt that follows it, waiting for a slice that is being emptied
(R128, R379): port, address space, virtual address, bytes, vector. -/
structure Posted where
  port : Nat
  asp : Nat
  va : Nat
  data : List Byte
  vec : Nat
  deriving DecidableEq, Repr

structure Sched where
  mem : List Host.Cell
  trigs : List W64
  ref : Bool
  ovf : Bool
  badg : Nat
  trigCount : Nat
  /-- launch number given to each pending trigger -/
  trigL : List Nat
  qcfg : Sparse QCfg
  queues : Sparse (List QNode)
  schgr : Sparse W64
  schgc : Sparse Nat
  schpst : W64
  rkb : W64
  rkl : W64
  launches : List Launch
  lastq : Sparse Nat
  colls : List Coll
  /-- registered tokens of the census: the region that registered each, and its TOKID (R347) -/
  census : List (RegionId × Nat)
  preempts : List Preempt
  rucks : List Ruck
  round : Option Round
  posted : List Posted
  deriving DecidableEq, Repr

def Sched.reset : Sched :=
  { mem := [], trigs := [], ref := false, ovf := false, badg := 0, trigCount := 0, trigL := [], qcfg := [],
    queues := [], schgr := [], schgc := [], schpst := 0, rkb := 0, rkl := 0, launches := [], lastq := [], colls := [],
    census := [], preempts := [], rucks := [], round := none, posted := [] }

/-! ### Maps, management and platform registers -/

/-- A translation cached at a memory port (R119). -/
structure Xlat where
  port : Nat
  asp : Nat
  rng : Nat
  vpage : Nat
  pme : W64
  deriving DecidableEq, Repr

/-- A stopped generator behind a translation record (R492, R493). -/
inductive Gen where
  | eng (e q : Nat)
  | hamper (site h : Nat)
  | req (site id : Nat)
  | net (site : Nat)
  deriving DecidableEq, Repr

structure XRec where
  gen : Gen
  words : List W64
  deriving DecidableEq, Repr

structure Mgmt where
  /-- fused site maps, as ascending lists of sites (R17) -/
  tileEn : List Nat
  routeEn : List Nat
  step : Nat
  fmax : Nat
  minSvn : Nat
  keyHash : List Byte
  pkgnum : W64
  svc : List Nat
  vltsvc : List Nat
  rtsvc : List Nat
  /-- consecutive parity failures of flits, at key 4 × receiving site + link (R499) -/
  flits : Sparse Nat
  /-- the map from which the routing tables were last written (R397, R510) -/
  tables : List Nat
  stage : Nat
  ready : Bool
  recov : Bool
  failTiles : Nat
  meas : Sparse (List Byte)
  mcbox : List Host.Cell
  mcErr : Bool
  mcBusy : Bool
  /-- the command or check in progress: the word of its door, and MCBOX as it stood; and the words of MCBOX written since
  (R432, R439) -/
  mcCmd : Option (W64 × List Host.Cell)
  mcWrote : List Nat
  /-- management-controller memory with the image that it runs, and the offset of its start (R428) -/
  mcMem : List Byte
  mcStart : Option Nat
  /-- what the self-test of the bring-up under way finds, and the cycle in which its stage began (R426, R427) -/
  boot : Option (List (Nat × TestResult))
  stageAt : Nat
  session : Option (List Byte)
  /-- XTS pair and CMAC key of each partition, 96 bytes (R411) -/
  keys : Sparse (List Byte)
  mkey : Sparse (List Byte)
  flash : List Byte
  pwrLock : Bool
  pwrCeil : Nat
  pwrStat : W64
  /-- the highest CEIL in force in the present window, and whether stops must begin in it (R437, R439) -/
  pwrTop : Nat
  pwrStop : Bool
  stopNs : Nat
  /-- HBM stacks that can be read no more (R514) -/
  hbmDead : List Nat
  lnkLock : Bool
  portEn : Nat
  tripped : Bool
  vsplit : Sparse Nat
  msEn : Bool
  msBusy : Bool
  /-- cache slices in number order: site and cache MiB (R125) -/
  slices : List (Nat × Nat)
  bypassed : List Nat
  /-- sites whose bypassed slices have not been emptied (R128) -/
  emptying : List Nat
  ivq : List W64
  ivqOvf : Bool
  ivqDone : Nat
  /-- range-table words by (offset - 0x100000) / 8 (R114) -/
  ranges : Sparse W64
  xlats : List Xlat
  hwin : Sparse W64
  apcfg : Sparse W64
  lgb : Sparse W64
  fwdt : Sparse W64
  part : Sparse W64
  partmap : Sparse W64
  pgLock : Bool
  mkfmt : Sparse W64
  mkpay : Sparse W64
  mkcnt : Sparse Nat
  shtcfg : Sparse W64
  xfrec : Sparse XRec
  xfTotal : Nat
  xfWait : List XRec
  fltcfg : W64
  errCE : Nat
  errUE : Nat
  errGW : Nat
  errHPF : Nat
  errLast : W64
  prst : Option Nat
  vapal : Sparse Nat
  katcfg : W64
  katRounds : Nat
  katResid : Nat
  katFails : Nat
  katSkip : Nat
  htest : Option Nat
  htres : W64
  hangcfg : W64
  hangRecs : Nat
  hangLog : Sparse (List W64)
  fltcnt : Nat
  fltlog : Sparse (List W64)
  msixTab : Sparse W64
  msixPba : Sparse W64
  hostUp : List Nat
  deriving DecidableEq, Repr

/-- The fused map of enabled sites (notes/assumptions/3.md): every site of die 0, and on dies 1 to 3 every site below
the fused-off ones of the highest numbers; 960 in all (R10, R17). -/
def fusedSites : List Nat :=
  List.range 256 ++ (List.range 234).map (256 + ·) ++ (List.range 235).map (512 + ·) ++ (List.range 235).map (768 + ·)

/-- The fused map of live routers (notes/assumptions/3.md): that of every site. A disabled site may have one (R16). -/
def fusedRouters : List Nat := List.range 1024

/-- The management registers right after reset. -/
def Mgmt.reset : Mgmt :=
  { tileEn := fusedSites, routeEn := fusedRouters, step := 1, fmax := 2400, minSvn := 0, keyHash := List.replicate 32 0, pkgnum := 0,
    svc := fusedSites, vltsvc := fusedSites, rtsvc := fusedRouters, flits := [], tables := fusedRouters, stage := 0, ready := false,
    recov := false, failTiles := 0, meas := [], mcbox := [], mcErr := false, mcBusy := false, mcCmd := none, mcWrote := [],
    mcMem := [], mcStart := none, boot := none, stageAt := 0, session := none,
    keys := [], mkey := [], flash := [], pwrLock := false, pwrCeil := 2400, pwrStat := 0, pwrTop := 2400, pwrStop := false, stopNs := 0,
    hbmDead := [], lnkLock := false, portEn := 2 ^ 36 - 1, tripped := false, vsplit := [], msEn := false, msBusy := false,
    slices := [], bypassed := [], emptying := [], ivq := [], ivqOvf := false, ivqDone := 0, ranges := [], xlats := [], hwin := [],
    apcfg := [], lgb := [], fwdt := [], part := [], partmap := [], pgLock := false, mkfmt := [], mkpay := [],
    mkcnt := [], shtcfg := [], xfrec := [], xfTotal := 0, xfWait := [], fltcfg := 0x0400004000000000, errCE := 0,
    errUE := 0, errGW := 0, errHPF := 0, errLast := 0, prst := none,
    vapal := fusedSites.map (·, 3), katcfg := 0x800000000000EE6B, katRounds := 0, katResid := 0, katFails := 0,
    katSkip := 0, htest := none, htres := 0, hangcfg := 0x8000000000004000, hangRecs := 0, hangLog := [], fltcnt := 0,
    fltlog := [], msixTab := [], msixPba := [], hostUp := [0, 1] }

/-- What has left the package: to another package, or an interrupt to a host, or an answer to a host. -/
inductive Out where
  | msg (pkg : Nat) (m : Msg)
  | notice (pkg : Nat) (n : Notice)
  | placePart (pkg l node : Nat)
  | start (pkg l node : Nat) (peers : Peers)
  | release (pkg l node : Nat)
  | report (pkg : Nat) (r : PartReport)
  /-- a pre-emption request passed on to a package: the lead of the launch, and the word of SCHPRE -/
  | preempt (pkg lead : Nat) (w : W64)
  /-- a write to a host's memory whose TLP has EP set (R417) -/
  | poisoned (port addr n : Nat)
  | msix (port vec : Nat)
  /-- a completion of an aperture access, with EP -/
  | readReply (port : Nat) (data : List Byte) (poison : Bool)
  /-- a completion with Completer Abort (abort), else with Unsupported Request -/
  | readFail (port : Nat) (abort : Bool)
  | tripPin
  deriving DecidableEq, Repr

/-- A message in flight inside the package, by its number; via is the lane group by which it came from another package. -/
structure Flight where
  n : Nat
  via : Option Nat
  m : Msg
  deriving DecidableEq, Repr

/-- The whole machine: one package and its two hosts' memories, with the model's own fields (the slot that issues, the
agenda of asynchronous events, the rest of the present cycle, the count of free values drawn, what has left, and the
messages in flight inside the package). -/
structure State where
  /-- CYCNT (R230) -/
  cyc : Nat
  tiles : Sparse Tile
  /-- byte o of the vault of site s at 2^25 × s + o -/
  vault : List Host.Cell
  vaultPoison : List Nat
  hbm : List Host.Cell
  hbmPoison : List Nat
  /-- cache slices lost with their router: the number of slices then, the slice, and the lines of it that have been written
  whole since; every other line homed in it is poisoned (R128) -/
  hbmLost : List (Nat × Nat × List Nat)
  /-- the partition keys under which each 64-byte HBM line was last written; unlisted where nothing has written it since
  its keys were loaded (R412, R413) -/
  hbmKey : Sparse (List Byte)
  /-- HBM lines that the memory-side cache holds, or may hold, dirty (R128) -/
  hbmDirty : List Nat
  /-- bytes of host memory whose completions come with EP set, at 2^64 × port + address (R417, R469) -/
  hostPoison : List Nat
  host0 : List Host.Cell
  host1 : List Host.Cell
  /-- engine queues at 8 × engine + queue -/
  engines : Sparse (List ECmd)
  nextCmd : Nat
  /-- packets held for other packages: sequence numbers and windows (R163) -/
  seqOut : Sparse Nat
  winBase : Sparse Nat
  winSeen : Sparse (List Nat)
  /-- failed elements of packets performed, by source package and sequence number: an acknowledgement sent again names
  them too (R163, R500) -/
  winFails : Sparse (List (Nat × List ElemFail))
  /-- packets taken from each package and lost in a router before they were performed (R510), the answers given to requests from
  other packages that change what they act on, by source tile and number (R505), and the writes of the host ports and the scheduler
  to other packages that are not acknowledged, with their address spaces (R121) -/
  winLost : Sparse (List Nat)
  answered : List (Nat × Nat × Answer)
  hostAcks : List (Nat × Nat)
  sched : Sched
  mg : Mgmt
  /-- the model's own fields -/
  curSite : Nat
  curSlot : Nat
  agenda : List (Nat × Instr)
  todo : List Instr
  issues : List Nat
  late : List Instr
  free : Nat
  wire : List Flight
  /-- what the network interfaces hold while the routing tables are rewritten, with the circuit bound for it and the package that it
  goes to (R510) -/
  heldMsgs : List (Option Nat × Nat × Msg)
  nextMsg : Nat
  outbox : List Out
  deriving DecidableEq, Repr

/-- The machine right after package reset. -/
def State.reset : State :=
  { cyc := 0, tiles := [], vault := [], vaultPoison := [], hbm := [], hbmPoison := [], hbmLost := [], hbmKey := [], hbmDirty := [],
    hostPoison := [], host0 := [], host1 := [],
    engines := [], nextCmd := 0, seqOut := [], winBase := [], winSeen := [], winFails := [], winLost := [], answered := [], hostAcks := [], sched := Sched.reset, mg := Mgmt.reset,
    curSite := 0, curSlot := 0, agenda := [], todo := [], issues := [], late := [], free := 0, wire := [], heldMsgs := [], nextMsg := 0,
    outbox := [] }

end Sys2Proof.Machine
end

