-- ==== Sys2Proof/Machine/Ops.lean ====
section
/-!
DEFINITION. The named operations over the state: tiles, slots and kernels; register reads and writes with their landing
cycles (R38); local SRAM and its shadow of stores not yet performed outside the tile (R132 to R134); completion tags
(R296); fault records, taking a trap, delivery to the scheduler and the return from a trap (R457 to R467); and the
order in which a slot decides an instruction word (R481).
-/

namespace Sys2Proof

/-- The tag that an instruction names (R260). -/
def QTag.tagOf (q : QTag) : Option Nat := if q.te then some q.tag.toNat else none

end Sys2Proof

namespace Sys2Proof.Machine

/-- What a step answers. -/
abbrev Res := Host.Outcome State Fault Refusal

/-! ### Tiles, slots, kernels -/

def State.tile (s : State) (n : Nat) : Tile := getD Tile.reset s.tiles n
def State.setTile (s : State) (n : Nat) (t : Tile) : State := { s with tiles := put n t s.tiles }
def State.modTile (s : State) (n : Nat) (f : Tile → Tile) : State := s.setTile n (f (s.tile n))
def Tile.slot (t : Tile) (k : Nat) : Slot := getD Slot.reset t.slots k
def Tile.setSlot (t : Tile) (k : Nat) (x : Slot) : Tile := { t with slots := put k x t.slots }
def Tile.modSlot (t : Tile) (k : Nat) (f : Slot → Slot) : Tile := t.setSlot k (f (t.slot k))
def State.slot (s : State) (n k : Nat) : Slot := (s.tile n).slot k
def State.modSlot (s : State) (n k : Nat) (f : Slot → Slot) : State := s.modTile n fun t => t.modSlot k f

/-- The slot and the tile at which the present instruction issues. -/
def State.me (s : State) : Slot := s.slot s.curSite s.curSlot
def State.here (s : State) : Tile := s.tile s.curSite
def State.modMe (s : State) (f : Slot → Slot) : State := s.modSlot s.curSite s.curSlot f
def State.modHere (s : State) (f : Tile → Tile) : State := s.modTile s.curSite f

/-- The kernel of a slot to which none is bound: nothing is declared. -/
def Kernel.unbound : Kernel :=
  { owner := 0, slots := [], mains := [], useMask := 0, l := 0, node := 0, graph := 0, wid := 0, widths := [],
    exts := [], rankIndex := 0, rankSize := 0, phno := 0, pagepol := 0, plen := 0, sbase := 0, sram := 0, pbase := 0,
    planes := 0, accs := [], marks := [], rings := 0, cfgOuts := 0, tagUse := 0, asp := 0, started := false }

/-- The kernel of a tile whose lowest-numbered slot is given. -/
def Tile.kernelOf (t : Tile) (owner : Nat) : Kernel := (t.kernels.find? (·.owner == owner)).getD Kernel.unbound

/-- The tile with the kernel of that owner changed. -/
def Tile.modKernel (t : Tile) (owner : Nat) (f : Kernel → Kernel) : Tile :=
  { t with kernels := t.kernels.map fun k => if k.owner == owner then f k else k }

def State.kern (s : State) : Kernel := s.here.kernelOf s.me.kern
def State.modKern (s : State) (f : Kernel → Kernel) : State := s.modHere fun t => t.modKernel s.me.kern f

/-- The number of this package (R25), and the tile coordinate of a site (R12). -/
def State.pkg (s : State) : Nat := fld s.mg.pkgnum 0 12
def State.coord (s : State) (site : Nat) : Nat := s.pkg * 1024 + site

/-- The owner identifier of a partition: PART_a.OWNER (R419). -/
def State.ownerOf (s : State) (asp : Nat) : Nat := fld (getD 0 s.mg.part asp) 0 12

/-- VLEN of a slot (R45). -/
def Slot.vlen (x : Slot) : Nat := 8 * x.count

/-! ### Register reads (R38): the last landed write, else the register file -/

/-- What the pending effects leave visible of one register at a cycle: of those that have landed, the value of the one
with the latest landing cycle, and among these of the latest issue. -/
def viewReg {α : Type} (cyc : Nat) (sel : PEffect → Option α) (base : α) (l : List Pend) : α :=
  (l.foldl (fun (acc : Nat × Nat × α) p =>
      match sel p.eff with
      | some v =>
        if p.land ≤ cyc && (decide (acc.1 < p.land) || (acc.1 == p.land && decide (acc.2.1 ≤ p.iss))) then
          (p.land, p.iss, v)
        else acc
      | none => acc) (0, 0, base)).2.2

def selS (r : Nat) : PEffect → Option W64
  | .s q v => if q = r then some v else none
  | _ => none

def selP (r : Nat) : PEffect → Option Bool
  | .p q v => if q = r then some v else none
  | _ => none

def selM (r i : Nat) : PEffect → Option Bool
  | .m q en v => if q = r && bitOf en i then some (bitOf v i) else none
  | _ => none

def selV (r i : Nat) : PEffect → Option W32
  | .v q lanes => if q = r then (lanes.find? (·.1 == i)).map (·.2) else none
  | _ => none

def selSys (n : Nat) : PEffect → Option W64
  | .sys q v => if q = n then some v else none
  | _ => none

/-- A scalar register; s0 reads 0 (R169). -/
def Slot.regS (x : Slot) (cyc r : Nat) : W64 := if r = 0 then 0 else viewReg cyc (selS r) (getD 0 x.s r) x.pend

/-- A predicate; p0 reads true (R169). -/
def Slot.regP (x : Slot) (cyc r : Nat) : Bool :=
  if r = 0 then true else viewReg cyc (selP r) (getD false x.p r) x.pend

/-- Bit i of a lane mask; m0 reads all ones, and bits at VLEN and above read as zero (R46, R169). -/
def Slot.maskBit (x : Slot) (cyc r i : Nat) : Bool :=
  decide (i < x.vlen) && (r == 0 || viewReg cyc (selM r i) (bitOf (getD 0 x.m r) i) x.pend)

/-- A lane mask as a number. -/
def Slot.regM (x : Slot) (cyc r : Nat) : Nat := maskOf x.vlen (x.maskBit cyc r)

/-- Lane i of a vector register (R46). -/
def Slot.lane (x : Slot) (cyc r i : Nat) : W32 := viewReg cyc (selV r i) (getD 0 x.v (128 * r + i)) x.pend

/-- HCFG, TVEC and TSCR as the slot reads them (R172, R228). -/
def Slot.sysReg (x : Slot) (cyc n : Nat) : W64 :=
  viewReg cyc (selSys n) (if n = 0x20 then x.hcfg else if n = 0x30 then x.tvec else x.tscr) x.pend

def State.rS (s : State) (r : SReg) : W64 := s.me.regS s.cyc r.toNat
def State.rP (s : State) (r : PReg) : Bool := s.me.regP s.cyc r.toNat
def State.rM (s : State) (r : MReg) : Nat := s.me.regM s.cyc r.toNat
def State.rLane (s : State) (r : VReg) (i : Nat) : W32 := s.me.lane s.cyc r.toNat i
def State.vlen (s : State) : Nat := s.me.vlen
def State.rV (s : State) (r : VReg) : List W32 := (List.range s.vlen).map (s.rLane r)

/-! ### Register writes with their latency (R38, R39) -/

def latAlu : Nat := 2
def latMul : Nat := 4
def latDiv : Nat := 24
def latLoad : Nat := 6
def latVload : Nat := 7
def latVec : Nat := 5
def latPerm : Nat := 3
def latSfu : Nat := 8

/-- The state with an effect of the issuing instruction pending. -/
def State.pendMe (s : State) (lat : Nat) (e : PEffect) : State :=
  s.modMe fun x => { x with pend := x.pend ++ [⟨s.cyc + lat, s.cyc, e, false⟩] }

/-- A write to a scalar register; to s0 it is discarded (R169). -/
def State.writeS (s : State) (lat : Nat) (d : SReg) (v : W64) : State :=
  if d = 0 then s else s.pendMe lat (.s d.toNat v)

/-- A write to a predicate; to p0 it is discarded (R169). -/
def State.writeP (s : State) (lat : Nat) (d : PReg) (v : Bool) : State :=
  if d = 0 then s else s.pendMe lat (.p d.toNat v)

/-- A write to the enabled bits of a lane mask; to m0 it is discarded (R169, R236). -/
def State.writeM (s : State) (lat : Nat) (d : MReg) (en v : Nat) : State :=
  if d = 0 then s else s.pendMe lat (.m d.toNat en v)

/-- A write to lanes of a vector register (R236). -/
def State.writeV (s : State) (lat : Nat) (d : VReg) (lanes : List (Nat × W32)) : State := s.pendMe lat (.v d.toNat lanes)

/-! ### What an instruction does with its slot -/

/-- The slot after an instruction with a hold: HELD for h own positions, else RUN (R36, R48). -/
def State.retireTo (s : State) (hold pc : Nat) : State :=
  s.modMe fun x => { x with pc := pc, state := if hold = 0 then .run else .held, hold := hold }

/-- The slot moves on to the next word. -/
def State.retire (s : State) (g : Guard) : State := s.retireTo g.hold.toNat (s.me.pc + 1)

/-- The slot sleeps on a condition; its hold is counted from the position at which it would issue (R36, R49). -/
def State.sleepOn (s : State) (g : Guard) (w : Wake) : State :=
  s.modMe fun x => { x with pc := x.pc + 1, state := .asleep, hold := 0, wakeHold := g.hold.toNat, wake := some w }

/-- The slot meets a full queue and keeps its program counter (R44). -/
def State.backed (s : State) : State := s.modMe fun x => { x with state := .backed, hold := 0 }

/-! ### Local SRAM -/

/-- Bytes of the tile's SRAM from a physical offset. -/
def Tile.sramRead (t : Tile) (a n : Nat) : List Byte := bytesAt t.sram a n

/-- The values that a set of words had, kept beside those already kept (R130). -/
def keepWords (m : List Host.Cell) (words : List Nat) (l : Sparse (List W64)) : Sparse (List W64) :=
  words.foldl (fun l k =>
    let w := BitVec.ofNat 64 (loadNat m (8 * k) 8)
    let old := getD [] l k
    if old.contains w then l else put k (old ++ [w]) l) l

/-- Bytes put at a physical offset; the granules they cover lose their poison (R471). -/
def Tile.putSram (t : Tile) (a : Nat) (b : List Byte) : Tile :=
  { t with sram := setBytes t.sram a b, sramPoison := clearPoison 3 t.sramPoison a b.length }

/-- Bytes written at a physical offset: the fetch buffer may still hold the words as they were (R130). -/
def Tile.sramWrite (t : Tile) (a : Nat) (b : List Byte) : Tile :=
  { t.putSram a b with fetch := keepWords t.sram (granules 3 a b.length) t.fetch }

/-- Whether [a, a + n) and [b, b + m) share a byte. -/
def overlaps (a n b m : Nat) : Bool := decide (a < b + m) && decide (b < a + n) && decide (0 < n) && decide (0 < m)

/-- The monitors of a tile whose word a write touches re-read it (R319). -/
def monitorEvents (site : Nat) (t : Tile) (a n : Nat) : List Instr :=
  (t.mons.filter fun (_, m) => m.armed && overlaps a n (8 * m.word) 8).map fun (k, _) => .monitorReread site k

/-- A change of a tile's SRAM by anyone, with the monitor re-reads that it brings about. -/
def State.changeSram (s : State) (site a : Nat) (b : List Byte) (f : Tile → Tile) : State :=
  { s.setTile site (f (s.tile site)) with todo := monitorEvents site (s.tile site) a b.length ++ s.todo }

/-- A write to a tile's SRAM by anyone. -/
def State.sramWrite (s : State) (site a : Nat) (b : List Byte) : State := s.changeSram site a b fun t => t.sramWrite a b

/-- Bytes with their addresses. -/
def placed (a : Nat) (b : List Byte) : List (Nat × Byte) := b.mapIdx fun i x => (a + i, x)

/-- A piece of a local store: performed at tile scope, and not yet outside (R132, R134). -/
def State.storePiece (s : State) (site slot kern : Nat) (rel ordered : Bool) (p : Nat × List Byte) : State :=
  let old := placed p.1 ((s.tile site).sramRead p.1 p.2.length)
  (s.modTile site fun t => { t with shadow := t.shadow ++ [⟨slot, kern, s.cyc, old, rel, ordered⟩] }).changeSram site p.1 p.2
    fun t => t.putSram p.1 p.2

/-- The pieces of a local store reach SRAM in one cycle: the fetch buffer may still hold their words as they were before all of
them (R130, R132). -/
def State.storePieces (s : State) (site slot kern : Nat) (rel ordered : Bool) (l : List (Nat × List Byte)) : State :=
  l.foldl (fun s p => s.storePiece site slot kern rel ordered p) <| s.modTile site fun t =>
    { t with fetch := keepWords t.sram (l.flatMap fun p => granules 3 p.1 p.2.length) t.fetch }

/-- Whether a store hides a byte of [a, a + n). -/
def Shadow.touches (h : Shadow) (a n : Nat) : Bool := h.old.any fun c => decide (a ≤ c.1) && decide (c.1 < a + n)

/-- A run of bytes split at every 8-byte boundary (R133). -/
def splitAligned (a : Nat) : List Byte → List (Nat × List Byte)
  | [] => []
  | x :: t =>
    match splitAligned (a + 1) t with
    | (b, l) :: r => if b % 8 = 0 then (a, [x]) :: (b, l) :: r else (a, x :: l) :: r
    | [] => [(a, [x])]

/-- Free bits (notes/assumptions/5.md): n of them, and the state with them drawn. -/
def State.drawBits (s : State) (n : Nat) : List Bool × State :=
  ((List.range n).map fun i => Config.freeBit (s.free + i), { s with free := s.free + n })

/-- Whether store h, which has reached SRAM before store q, is performed no later than it: a store of a byte that q writes as
well, whose coherence order it precedes (R134), an earlier store of the slot of a release store (R221), or an earlier piece of the
same store (R133). -/
def Shadow.leads (h q : Shadow) : Bool :=
  (h.old.any fun c => q.old.any (·.1 == c.1)) ||
    (h.slot == q.slot && ((q.rel && decide (h.cyc < q.cyc)) || (q.ordered && h.cyc == q.cyc)))

/-- Which of the stores not yet performed outside are performed now: those picked, with every earlier one that leads one of
them. The list runs from the latest store to the earliest; need holds the stores performed so far. -/
def performedNow : List (Shadow × Bool) → List Shadow → List (Shadow × Bool)
  | [], _ => []
  | (h, b) :: t, need =>
    if b || need.any h.leads then (h, true) :: performedNow t (h :: need) else (h, false) :: performedNow t need

/-- The stores that are picked are performed at every scope, with those that lead them (R134). -/
def Tile.perform (t : Tile) (pick : List Bool) : Tile :=
  { t with shadow := ((performedNow (t.shadow.zip pick).reverse []).reverse.filter (!·.2)).map (·.1) }

/-- Every store that meets a condition is performed at every scope. -/
def Tile.performWhere (t : Tile) (p : Shadow → Bool) : Tile := t.perform (t.shadow.map p)

/-- A write from outside the tile's local pipelines. It is later in the coherence order of its bytes than every store already in
SRAM, and performed: so are those of them that write one of its bytes, and those that lead them (R134, R221). -/
def State.remoteWrite (s : State) (site a : Nat) (b : List Byte) : State :=
  (s.modTile site fun t => t.performWhere (·.touches a b.length)).sramWrite site a b

/-- Every local store of a slot is performed at every scope (R134). -/
def Tile.performStores (t : Tile) (slot : Nat) : Tile := t.performWhere (·.slot == slot)

/-- A byte as a party outside the tile reads it: what the earliest store not yet performed there replaced, else what SRAM
holds. -/
def Tile.outsideByte (t : Tile) (a : Nat) : Byte :=
  ((t.shadow.findSome? fun h => h.old.find? (·.1 == a)).map (·.2)).getD (byteAt t.sram a)

/-- A read of SRAM bytes by a party outside the tile: it sees the stores that are performed by now (notes/assumptions/6.md);
the stores of the slots in own are seen (R132). -/
def State.outsideRead (s : State) (site a n : Nat) (own : List Nat) : List Byte × State :=
  let (bits, s) := s.drawBits (s.tile site).shadow.length
  let s := s.modTile site fun t =>
    t.perform ((t.shadow.zip bits).map fun (h, b) => h.touches a n && (b || own.contains h.slot))
  ((List.range n).map fun i => (s.tile site).outsideByte (a + i), s)

/-- Whether n bytes from a local offset lie within an allocation (R220). -/
def inAlloc (budget off n : Nat) : Bool := decide (off + n ≤ budget)

/-- An access of the issuing slot, due in its SRAM cycle c + 3 (R132). -/
def State.access (s : State) (tr : Trace) (a : LAct) : State :=
  s.modHere fun t => { t with accesses := t.accesses ++ [⟨s.cyc + 3, tr, a⟩] }

/-! ### Completion tags (R296) -/

/-- An instruction that names a tag issues: its bit clears and its count rises. -/
def Tile.tagStart (t : Tile) : Option Nat → Tile
  | none => t
  | some k =>
    { t with tags := BitVec.ofNat 64 (t.tags.toNat - if bitOf t.tags.toNat k then 2 ^ k else 0),
             tagCount := putD 0 k (getD 0 t.tagCount k + 1) t.tagCount }

/-- An instruction that named a tag completes: the count falls, and the bit is set when it reaches 0. -/
def Tile.tagDone (t : Tile) : Option Nat → Tile
  | none => t
  | some k =>
    let n := getD 0 t.tagCount k - 1
    { t with tags := if n = 0 then t.tags ||| BitVec.ofNat 64 (2 ^ k) else t.tags, tagCount := putD 0 k n t.tagCount }

/-- A faulted instruction's share of its count is withdrawn, and the bit is not set (R459). -/
def Tile.tagWithdraw (t : Tile) : Option Nat → Tile
  | none => t
  | some k => { t with tagCount := putD 0 k (getD 0 t.tagCount k - 1) t.tagCount }

/-- Room for one more instruction that names the tag. -/
def Tile.tagRoom (t : Tile) : Option Nat → Bool
  | none => true
  | some k => decide (getD 0 t.tagCount k < 255)

/-- The issuing instruction counts towards its tag, which its kernel has then used (R388). -/
def State.startTag (s : State) (tag : Option Nat) : State :=
  match tag with
  | none => s
  | some k =>
    (s.modHere (·.tagStart (some k))).modKern fun q => { q with tagUse := q.tagUse ||| BitVec.ofNat 64 (2 ^ k) }

/-- An event of R525 on a kernel of a tile. -/
def State.noteProgress (s : State) (site kern : Nat) : State :=
  s.modTile site fun t => { t with progress := put kern s.cyc t.progress }

/-- The instruction with this trace completes (R296). -/
def State.complete (s : State) (tr : Trace) : State :=
  (s.modTile tr.site fun t => t.tagDone tr.tag).noteProgress tr.site tr.kern

/-! ### Traces and fault records (R457, R463) -/

/-- The specifiers of D (DATA, DESC, LC), S1 (BASE) and S2 of a word, by the format of its opcode (R179, R186). -/
def operandSpecs (w : Nat) : List Nat :=
  let op := bitsOf w 54 10
  let d := bitsOf w 40 7
  let a := bitsOf w 33 7
  let b := bitsOf w 26 7
  if decodeRaw w = none then [0, 0, 0]
  else if 0x081 ≤ op && op ≤ 0x085 then [d, 0, 0]
  else if op = 0x016 || op = 0x017 || op = 0x019 || op = 0x01A || (0x020 ≤ op && op ≤ 0x07F) ||
      (0x086 ≤ op && op ≤ 0x103) || op = 0x106 || op = 0x108 || op = 0x109 then [d, a, 0]
  else [d, a, b]

/-- The value read from a field at issue; zero where it names no scalar (R463). -/
def Slot.specValue (x : Slot) (cyc spec : Nat) : W64 := if spec < 64 then x.regS cyc spec else 0

/-- The trace of a word at a slot. -/
def State.traceAt (s : State) (site slot pc : Nat) (w : Nat) (tag : Option Nat) : Trace :=
  let x := s.slot site slot
  let k := (s.tile site).kernelOf x.kern
  let sp := operandSpecs w
  { site := site, slot := slot, pc := pc, iw := BitVec.ofNat 64 w, opd := x.specValue s.cyc (nth sp 0 0),
    op1 := x.specValue s.cyc (nth sp 1 0), op2 := x.specValue s.cyc (nth sp 2 0), l := k.l, node := k.node, wid := k.wid,
    chan := x.hnd.map (·.chan), kern := x.kern, asp := k.asp, owner := s.ownerOf k.asp, tag := tag }

/-- The trace of the word that issues now. -/
def State.trace (s : State) (w : Nat) (tag : Option Nat) : Trace := s.traceAt s.curSite s.curSlot s.me.pc w tag

/-- A fault found at issue: class, code, VALUE and lane (R463). -/
structure Trap where
  cls : Nat
  code : Nat
  value : W64
  lane : Nat
  deriving DecidableEq, Repr

/-- The record of a fault, found in the present cycle. -/
def State.faultRec (s : State) (tr : Trace) (t : Trap) (async : Bool) : FaultRec :=
  { cls := t.cls, code := t.code, tr := tr, async := async, value := t.value, lane := t.lane, cyc := s.cyc, flush := [],
    fence := false, barw := false, swap := false }

/-- The eight words of a fault record (R463). -/
def recordWords (coord : Nat) (f : FaultRec) (nest : Bool) : List W64 :=
  [word64 [(56, f.cls), (48, f.code), (45, f.tr.slot), (44, bitNat f.async), (43, bitNat f.tr.chan.isSome),
     (42, bitNat nest), (18, coord), (0, f.tr.pc % 2 ^ 18)],
   f.tr.wid, f.tr.iw, f.value, f.tr.opd, f.tr.op1, f.tr.op2,
   word64 [(56, f.tr.chan.getD 0), (48, f.lane), (0, f.cyc % 2 ^ 32)]]

def wordBytes (l : List W64) : List Byte := l.flatMap fun w => leBytes 8 w.toNat

/-! ### Delivery to the scheduler (R466, R467) -/

/-- The record appended to the fault log. -/
def State.logFault (s : State) (f : FaultRec) (nest : Bool) : State :=
  { s with mg := { s.mg with fltlog := put (s.mg.fltcnt % 1024) (recordWords (s.coord f.tr.site) f nest) s.mg.fltlog,
                             fltcnt := (s.mg.fltcnt + 1) % 2 ^ 32 } }

/-- A node of a live launch changed. -/
def State.modNode (s : State) (l node : Nat) (f : Node → Node) : State :=
  { s with sched := { s.sched with launches := s.sched.launches.map fun a =>
      if a.l == l then { a with nodes := a.nodes.map fun (k, n) => (k, if k == node then f n else n) } else a } }

/-- The launch of a fault keeps the tile of the first. -/
def State.noteFtile (s : State) (f : FaultRec) : State :=
  { s with sched := { s.sched with launches := s.sched.launches.map fun a =>
      if a.l == f.tr.l && a.ftile.isNone then { a with ftile := some (s.coord f.tr.site) } else a } }

/-- Whether a kernel is part of a node. -/
def Kernel.isOf (k : Kernel) (l node : Nat) : Bool := k.l == l && k.node == node

/-- A slot enters STOPPED, unless it is DONE (R385); one that is BACKED resumes as RUN (R389). -/
def Slot.stop (x : Slot) : Slot :=
  match x.state with
  | .done => x
  | .empty => x
  | .stopped => x
  | .backed => { x with state := .stopped, resume := .run }
  | st => { x with state := .stopped, resume := st }

/-- The slots of a node on a tile that are in ASLEEP stop at once, with their wake conditions; each of the others at its next own
position (R385). -/
def Tile.stopNode (t : Tile) (l node : Nat) : Tile :=
  let ks := (t.kernels.filter (·.isOf l node)).flatMap fun k => k.slots.map (·.1)
  ks.foldl (fun t k => t.modSlot k fun x => if x.state == .asleep then x.stop else x) t

/-- Whether the slots of a node are to stop (R385, R466). -/
def State.nodeStopped (s : State) (l node : Nat) : Bool :=
  s.sched.preempts.any fun p => p.l == l && p.node == node && p.stopped

/-- The sleeping slots of a node stop, on every tile of the package. -/
def State.stopNode (s : State) (l node : Nat) : State :=
  { s with tiles := s.tiles.map fun (n, t) => (n, t.stopNode l node) }

/-- SCHPST with a result for a request; it is no longer busy. -/
def State.setResult (s : State) (l node res : Nat) : State :=
  let w := word64 [(62, fld s.sched.schpst 62 1), (56, res), (40, node), (0, l % 2 ^ 32)]
  { s with sched := { s.sched with schpst := w } }

/-- The pre-emption of a node. -/
def State.preemptOf (s : State) (l node : Nat) : Option Preempt :=
  s.sched.preempts.find? fun p => p.l == l && p.node == node

/-- The node is to end with status 3, with nothing saved (R466); a request of the host for it finds it not running (R468). -/
def State.endNode (s : State) (l node : Nat) : State :=
  let asked := (s.preemptOf l node).any (·.host)
  let s := s.stopNode l node
  let s := if asked then s.setResult l node 3 else s
  let rest := s.sched.preempts.filter fun p => !(p.l == l && p.node == node)
  { s with sched := { s.sched with preempts :=
      rest ++ [{ l := l, node := node, compact := false, conv := false, due := none, palette := false, stopped := true,
                 ending := true, since := s.cyc, resv := [] }] } }

/-- A fault delivered to the scheduler is logged, and counted against its node. -/
def State.countFault (s : State) (f : FaultRec) (nest : Bool) : State :=
  ((s.logFault f nest).noteFtile f).modNode f.tr.l f.tr.node fun n =>
    { n with faults := n.faults + 1, ftile := if n.faults = 0 then s.coord f.tr.site else n.ftile }

/-- A fault delivered to the scheduler: its slot stops, the record is logged and counted, and, for every class but 3,
the node ends (R466). -/
def State.schedFault (s : State) (f : FaultRec) (nest : Bool) : State :=
  let x := s.slot f.tr.site f.tr.slot
  let s := if x.state == .done then s else s.modSlot f.tr.site f.tr.slot fun x =>
    { x with state := .stopped, resume := .run, wake := none, hold := 0 }
  let s := s.countFault f nest
  if f.cls = 3 then s else s.endNode f.tr.l f.tr.node

/-! ### Taking a trap (R461, R464) and returning from it (R465) -/

/-- Whether a slot takes a fault itself. -/
def Slot.takes (x : Slot) (cyc budget : Nat) (cls : Nat) : Bool :=
  let tvec := x.sysReg cyc 0x30
  cls != 3 && cls != 13 && cls != 14 && fld tvec 63 1 == 1 && fld x.tcause 63 1 == 0 &&
    inAlloc budget (64 * fld tvec 33 15) 64

/-- A slot of the fault's tile takes it, or it goes to the scheduler. TEPC names tepc; MORE says whether a fault recorded
against a slot in covered is undelivered. -/
def State.takeFaultAt (s : State) (slot : Nat) (f : FaultRec) (tepc : Nat) (covered : List Nat) : State :=
  let site := f.tr.site
  let x := s.slot site slot
  let k := (s.tile site).kernelOf x.kern
  if x.takes s.cyc k.sram f.cls then
    let tvec := x.sysReg s.cyc 0x30
    let words := recordWords (s.coord site) f false
    let s := s.storePieces site slot x.kern false false [(k.sbase + 64 * fld tvec 33 15, wordBytes words)]
    s.modSlot site slot fun x =>
      { x with state := .run, hold := 0, wake := none, wakeHold := 0, pc := fld tvec 0 18, lastTr := none,
               tcause := word64 [(63, 1), (62, bitNat f.async),
                 (61, bitNat (covered.any fun n => !(s.slot site n).faults.isEmpty)), (8, f.code), (0, f.cls)],
               tepc := BitVec.ofNat 64 (tepc % 2 ^ 18), tval := f.value }
  else
    let s := s.modSlot site slot fun x => { x with pc := tepc }
    s.schedFault f (fld x.tcause 63 1 == 1)

/-- The slot of a fault takes it, or it goes to the scheduler. -/
def State.takeFault (s : State) (f : FaultRec) (tepc : Nat) : State := s.takeFaultAt f.tr.slot f tepc [f.tr.slot]

/-- Whether the running handler of the slot has passed its budget of own positions (R59, R524). -/
def State.overLimit (s : State) : Bool :=
  s.me.budget != 0 && s.me.hnd.any fun h => decide (s.me.budget < h.counted)

/-- The slots whose faults a PHASE covers: its own, and from the lowest main slot those of the handler slots (R458). -/
def State.phaseSlots (s : State) : List Nat :=
  let k := s.kern
  if k.mains.head? = some s.curSlot then s.curSlot :: (k.slots.map (·.1)).filter fun n => !k.mains.contains n
  else [s.curSlot]

/-- A precise fault of the word w at its issue (R456): TEPC names the instruction. An overrun due at this position is put
off to the next (R524). -/
def State.trapAt (s : State) (w : Nat) (t : Trap) : State :=
  let s := if s.overLimit then s.modMe fun x => { x with overrun := true } else s
  s.takeFaultAt s.curSlot (s.faultRec (s.trace w none) t false) s.me.pc
    (if bitsOf w 54 10 = 0x399 then s.phaseSlots else [s.curSlot])

/-- A handler overrun against the word that would have issued (R524). -/
def State.overrunAt (s : State) (w : Nat) : State :=
  s.takeFault (s.faultRec (s.trace w none) ⟨14, 0, 0, 0⟩ false) s.me.pc

/-- The return from trap handling: ACTIVE clears and the slot resumes at TEPC.PC + SKIP (R465). -/
def State.returnFromTrap (s : State) (hold : Nat) (skip : Bool) : State :=
  (s.modMe fun x => { x with tcause := BitVec.ofNat 64 (x.tcause.toNat % 2 ^ 63) }).retireTo hold
    (fld s.me.tepc 0 18 + bitNat skip)

/-! ### Asynchronous faults (R457 to R459) -/

/-- An asynchronous fault is recorded against its slot; a ninth goes to the scheduler (R457), and so does one whose kernel has
left the slot. Its tag's share stays until delivery (R459). -/
def State.recordFault (s : State) (f : FaultRec) : State :=
  let x := s.slot f.tr.site f.tr.slot
  if x.state == .empty then (s.modTile f.tr.site fun t => t.tagWithdraw f.tr.tag).countFault f false
  else if x.faults.length < 8 then s.modSlot f.tr.site f.tr.slot fun x => { x with faults := x.faults ++ [f] }
  else (s.modTile f.tr.site fun t => t.tagWithdraw f.tr.tag).schedFault f (fld x.tcause 63 1 == 1)

/-- An asynchronous fault of the instruction with this trace. -/
def State.asyncFault (s : State) (tr : Trace) (cls code : Nat) (value : W64) : State :=
  s.recordFault (s.faultRec tr ⟨cls, code, value, 0⟩ true)

/-- A recorded fault is delivered to a slot at a covering point (R458): the faulted instruction's share of its tag is
withdrawn (R459), and the slot takes the trap with TEPC at the covering point, which covers the faults of some slots. -/
def State.deliver (s : State) (slot : Nat) (f : FaultRec) (tepc : Nat) (covered : List Nat) : State :=
  let s := s.modSlot f.tr.site f.tr.slot fun x => { x with faults := x.faults.erase f }
  (s.modTile f.tr.site fun t => t.tagWithdraw f.tr.tag).takeFaultAt slot f tepc covered

/-- At a covering point: the oldest covered fault of the slots is delivered, else the effect of the point comes about. -/
def State.coverOr (s : State) (slots : List Nat) (p : FaultRec → Bool) (eff : State → State) : State :=
  match slots.findSome? fun k => (s.slot s.curSite k).faults.find? p with
  | some f => s.deliver s.curSlot f s.me.pc slots
  | none => eff s

/-! ### The order of decision at issue (R481) -/

/-- The palette class of a word with an allocated opcode (R175, R176). -/
def klassOf (w : Nat) : Nat :=
  let op := bitsOf w 54 10
  let ty := bitsOf w 14 5
  let half := ty == 9 || ty == 10
  let special : Nat → Option Nat := fun c =>
    match c with
    | 11 => some 20 | 12 => some 21 | 13 => some 22 | 14 => some 23 | 15 => some 24 | 16 => some 25 | _ => none
  if op < 0x080 then
    if op = 0x003 || op = 0x004 || op = 0x023 then 3 else if op = 0x005 || op = 0x006 then 4 else 0
  else if op < 0x08A then 1
  else if op < 0x100 then 2
  else if op < 0x105 then 0
  else if op < 0x108 then 44
  else if op < 0x10C then 5
  else if op < 0x180 then 6
  else if op < 0x182 then if half then 9 else 7
  else if op < 0x185 then if half then 9 else 8
  else if op < 0x18B then if half then 9 else 7
  else if op = 0x18B then 10
  else if op = 0x18C then 11
  else if op < 0x18F then 12
  else if op < 0x193 then 17
  else if op < 0x200 then (special ty).getD ((special (bitsOf w 3 5)).getD 19)
  else if op < 0x202 then 13
  else if op < 0x204 then 14
  else if op < 0x20D then 13
  else if op = 0x20D then 17
  else if op < 0x212 then 16
  else if op < 0x214 then 15
  else if op < 0x216 then 16
  else if op < 0x280 then 18
  else if op < 0x282 then 26
  else if op = 0x283 then if bitsOf w 15 4 ≤ 7 then 27 else 28
  else if op = 0x28C then 30
  else if op < 0x300 then 29
  else if op < 0x302 then 31
  else if op < 0x304 then 32
  else if op = 0x304 then 31
  else if op = 0x305 then 1
  else if op < 0x308 then 2
  else if op < 0x30C then 34
  else if op < 0x380 then 33
  else if op = 0x383 then 36
  else if op < 0x386 then 35
  else if op < 0x389 then 1
  else if op < 0x38D then 41
  else if op = 0x38D then 37
  else if op < 0x390 then if bitsOf w 0 4 < 0xB then 38 else 39
  else if op < 0x394 then 37
  else if op = 0x394 then 1
  else if op < 0x398 then 40
  else if op = 0x398 then 42
  else if op < 0x39D then 1
  else 43

/-- The class 1 codes that depend on the slot's grant and its kernel's accumulators (R237, R474). -/
def grantCodes (w count accs : Nat) : List Nat :=
  let op := bitsOf w 54 10
  let vec := (0x108 ≤ op && op < 0x10E) || (0x180 ≤ op && op < 0x21B) || op = 0x281
  let ty := bitsOf w 14 5
  let wide := op = 0x281 || (op = 0x193 && 13 ≤ ty && ty ≤ 16) || ((op = 0x194 || op = 0x195) && bitsOf w 0 1 = 1)
  let top := bitsOf w 24 2 + (if op = 0x28C then 1 + bitsOf w 1 1 else if op = 0x28D || op = 0x28E then bitsOf w 1 1 else 0)
  (if (vec && count = 0) || (wide && count < 4) then [10] else []) ++
    (if 0x282 ≤ op && op ≤ 0x28E && accs ≤ top then [11] else [])

/-- The word of an instruction, as a number; zero for an event. -/
def wordOf (i : Instr) : Nat := ((encode i).map BitVec.toNat).getD 0

/-- The class 1 code of an instruction at its slot: of operands that no word spells, else of the grant. -/
def class1 (i : Instr) (s : State) : Option Nat :=
  if i.wf then pickCode (grantCodes (wordOf i) s.me.count s.kern.accs.length) else some 2

/-- Checks 1 to 3 of R481. -/
def headTrap (i : Instr) (s : State) : Option Trap :=
  match class1 i s with
  | some c => some ⟨1, c, 0, 0⟩
  | none =>
    let c := klassOf (wordOf i)
    if !bitOf s.kern.useMask.toNat c then some ⟨2, c, 0, 0⟩
    else if !bitOf s.here.palette.toNat c then some ⟨3, c, 0, 0⟩
    else none

/-- The predicate of a guard (R185). -/
def State.guardOk (s : State) (g : Guard) : Bool := s.rP g.pred != g.pneg

/-- The instruction issues: its slot makes progress (R525), and a last word of the allocation is kept for the fault of
its successor (R477). -/
def State.noteIssue (s : State) (i : Instr) : State :=
  (s.noteProgress s.curSite s.me.kern).modMe fun x =>
    { x with lastTr := if s.kern.sram / 8 ≤ x.pc + 1 then some (s.trace (wordOf i) none) else none }

/-- The first of the checks 5 to 9 that fails, given in their order. -/
def firstTrap : List (Option Trap) → Option Trap
  | [] => none
  | some t :: _ => some t
  | none :: l => firstTrap l

/-- The cases of one class, in ascending CODE: the lowest that applies (R473). -/
def caseTrap (cls : Nat) : List (Nat × Bool × W64) → Option Trap
  | [] => none
  | (c, b, v) :: l => if b then some ⟨cls, c, v, 0⟩ else caseTrap cls l

/-- An instruction word at its slot's own position: the checks of R481 in order, then its effect; chk gives checks 5 to
9, room check 10. A handler over its budget raises its overrun in place of the last check and the effect (R524). -/
def issue (i : Instr) (g : Guard) (s : State) (chk : State → Option Trap) (room : State → Bool)
    (eff : State → State) : Res :=
  match headTrap i s with
  | some t => .next (s.trapAt (wordOf i) t)
  | none =>
    match (if s.guardOk g then chk s else none) with
    | some t => .next (s.trapAt (wordOf i) t)
    | none =>
      if s.overLimit then .next (s.overrunAt (wordOf i))
      else if s.guardOk g then (if room s then .next (eff (s.noteIssue i)) else .next s.backed)
      else .next ((s.noteIssue i).retire g)

/-- An instruction with no check after its predicate and no queue. -/
def issueFree (i : Instr) (g : Guard) (s : State) (eff : State → State) : Res :=
  issue i g s (fun _ => none) (fun _ => true) eff

/-- An instruction with checks and no queue. -/
def issueChk (i : Instr) (g : Guard) (s : State) (chk : State → Option Trap) (eff : State → State) : Res :=
  issue i g s chk (fun _ => true) eff

/-- A scalar result of a fixed pipeline with latency lat. -/
def issueS (i : Instr) (g : Guard) (s : State) (lat : Nat) (d : SReg) (v : State → W64) : Res :=
  issueFree i g s fun s => (s.writeS lat d (v s)).retire g

end Sys2Proof.Machine
end

