-- ==== Sys2Proof/Machine/Fetch.lean ====
section
/-!
DEFINITION. Fetching an instruction word (R129, R130, R214) and laying one where a step fetches it.
-/

namespace Sys2Proof.Machine

/-- The physical word index of a program counter (R222). -/
def wordIndex (k : Kernel) (pc : Nat) : Nat := k.sbase / 8 + pc

/-- One of the values of a word: the present one, or an older one that a free bit picks (R130). -/
def pickWord (now : W64) : List W64 → List Bool → W64
  | w :: t, b :: u => if b then w else pickWord now t u
  | _, _ => now

/-- The word that the slot fetches, with the state in which the choice is drawn. -/
def State.fetch (s : State) : W64 × State :=
  let k := wordIndex s.kern s.me.pc
  let now := BitVec.ofNat 64 (loadNat s.here.sram (8 * k) 8)
  let olds := (getD [] s.me.ahead k ++ getD [] s.here.fetch k).filter (· != now)
  if olds.isEmpty then (now, s)
  else
    let (bits, s') := s.drawBits olds.length
    (pickWord now olds bits, s')

/-- Whether the word's bytes are poisoned (R470). -/
def State.fetchPoisoned (s : State) : Bool := inSet (wordIndex s.kern s.me.pc) s.here.sramPoison

/-- A kernel that declares every class and has the whole of the tile's SRAM, plane store and accumulators. -/
def Kernel.whole : Kernel :=
  { Kernel.unbound with slots := [(0, 0)], mains := [0], useMask := 0x1FFFFFFFFFFF, rankSize := 1, widths := [1],
                        exts := [1], sram := 0x200000, planes := 0x80000, accs := [0, 1, 2, 3], started := true }

/-- The tile with one main slot 0 bound to every position and to all lanes, and a word at its program counter 0. -/
def Tile.withWord (t : Tile) (w : Nat) : Tile :=
  { t with wheel := 0, kernels := [Kernel.whole], sram := storeNat t.sram 0 8 w, sramPoison := clearPoison 3 t.sramPoison 0 8,
           fetch := erase 0 t.fetch,
           slots := put 0 { t.slot 0 with state := .run, hslot := false, hold := 0, kern := 0, pc := 0, count := 16, base := 0,
                                          deferred := [], overrun := false, hnd := none, ahead := [] } t.slots }

end Sys2Proof.Machine
end

