-- ==== Sys2Proof/Machine/Blocks.lean ====
section
/-!
DEFINITION. Microscaling and plane blocks (R86 to R93), element conversions (R94 to R96, R254), matrix sums (R98 to
R100) and the streams of a converter (R105 to R107).
-/

namespace Sys2Proof.Machine

/-! ### Elements -/

/-- The value times 2^k. -/
def scaleV (k : Int) : FVal → FVal
  | .fin s m e t => .fin s m (e + k) t
  | v => v

/-- The value of an MX element code with scale code s (R86, R87). -/
def mxVal (ty : Ty) (s code : Nat) : FVal :=
  if s = 0xFF then .nan
  else
    let k : Int := (s : Int) - 127
    match ty with
    | .mx8 => scaleV k (decodeF .e4m3 code)
    | .mx8e5 => scaleV k (decodeF .e5m2 code)
    | .mx4 => scaleV k (decodeF .e2m1 (code % 16))
    | _ => let z := svOf 8 code; .fin (z < 0) z.natAbs (k - 6) false

/-- The value of a lane read as a type that is no integer; an MX lane holds its scale in [15:8] (R235, R254). -/
def laneVal (ty : Ty) (x : Nat) : FVal :=
  match Fmt.ofTy ty with
  | some f => decodeF f (x % 2 ^ f.width)
  | none => mxVal ty (bitsOf x 8 8) (bitsOf x 0 8)

/-- An element conversion of VCVT: the new element's bits (R94 to R96, R254). -/
def cvtElem (dst src : Ty) (rc x : Nat) : Int :=
  if src.isInt then
    let v := valOf src x
    match Fmt.ofTy dst with
    | some f => (roundF f rc (ofIntV v) : Nat)
    | none => satIf (4 ≤ rc) dst v
  else
    match Fmt.ofTy dst with
    | none => satInt (toIntV (RMode.ofRc rc) (laneVal src x)) (tyLo dst) (tyHi dst)
    | some f =>
      if dst = src then (if (laneVal src x).isNan then f.nanCode else x % 2 ^ f.width : Nat)
      else (roundF f rc (laneVal src x) : Nat)

/-- FLOORLOG2 of a non-zero finite value. -/
def floorLog2 : FVal → Int
  | .fin _ m e _ => (Nat.log2 m : Int) + e
  | _ => 0

/-- EMAX of an MX element (R87). -/
def emaxOf : Ty → Int
  | .mx8 => 8
  | .mx8e5 => 15
  | .mx4 => 2
  | _ => 0

/-- An element of an MX block: CVT with rn.sat (R89); for mxi8 the nearest multiple of 2^-6, ties to even. -/
def mxElem (ty : Ty) (v : FVal) : Nat :=
  match ty with
  | .mx8 => roundF .e4m3 4 v
  | .mx8e5 => roundF .e5m2 4 v
  | .mx4 => roundF .e2m1 4 v
  | _ => wrapTo 8 (satInt (toIntV .rn (scaleV 6 v)) (-128) 127)

/-- MXQ: the scale code and the element codes (R89). -/
def mxq (ty : Ty) (x : List FVal) : Nat × List Nat :=
  if x.any fun v => !v.isFinite then (0xFF, x.map fun _ => 0)
  else
    match (x.filter fun v => !v.isZero).map floorLog2 with
    | [] => (0, x.map fun _ => 0)
    | e :: t =>
      let xs := satInt (t.foldl max e - emaxOf ty) (-127) 127
      ((xs + 127).toNat, x.map fun v => mxElem ty (scaleV (-xs) v))

/-! ### Plane form -/

/-- A plane block: exponent and mantissas (R90), and whether it is poisoned (R470). -/
structure PBlock where
  e : Nat
  m : List Int
  bad : Bool
  deriving DecidableEq, Repr

/-- The fraction count φ (R90). -/
def phiOf (w : Nat) (uns : Bool) : Int := if uns then (w : Int) - 1 else (w : Int) - 2

/-- TOPLANE of FP32 codes (R91). -/
def toPlane (w : Nat) (uns : Bool) (x : List Nat) (bad : Bool) : PBlock :=
  if x.any fun v => !(decodeF .f32 v).isFinite then ⟨0xFF, x.map fun _ => 0, bad⟩
  else
    match (x.filter fun v => v % 2 ^ 31 != 0).map fun v => Nat.max 1 (bitsOf v 23 8) with
    | [] => ⟨0, x.map fun _ => 0, bad⟩
    | e :: t =>
      let e := t.foldl Nat.max e
      let k : Int := 127 - (e : Int) + phiOf w uns
      let lo : Int := if uns then 0 else -(2 ^ (w - 1) : Nat)
      let hi : Int := if uns then (2 ^ w : Nat) - 1 else (2 ^ (w - 1) : Nat) - 1
      ⟨e, x.map fun v => satInt (toIntV .rn (scaleV k (decodeF .f32 v))) lo hi, bad⟩

/-- The mantissas that a block denotes: zeros where E is 0x00, whatever its plane words hold (R90). -/
def PBlock.mants (b : PBlock) : List Int := if b.e = 0 then b.m.map fun _ => 0 else b.m

/-- FROMPLANE: the value of element i (R90, R93). -/
def planeVal (w : Nat) (uns : Bool) (b : PBlock) (i : Nat) : FVal :=
  if b.e = 0xFF then .nan
  else
    let z := nth b.mants i 0
    .fin (z < 0) z.natAbs ((b.e : Int) - 127 - phiOf w uns) false

/-- The w plane words of a block (R92): bit i of word j is bit j of mantissa i. -/
def planeWords (w : Nat) (b : PBlock) : List Nat :=
  (List.range w).map fun j => maskOf 32 fun i => bitOf (wrapTo w (nth b.m i 0)) j

/-- The block that an exponent byte and w plane words spell (R92). -/
def blockOf (w : Nat) (uns bad : Bool) (e : Nat) (words : List Nat) : PBlock :=
  ⟨e, (List.range 32).map fun i =>
    let x : Nat := (List.range w).foldl (fun acc j => acc + (if bitOf (nth words j 0) i then 2 ^ j else 0)) 0
    if uns then (x : Int) else svOf w x, bad⟩

/-- OPSIZE(NB, w) (R266). -/
def opSize (nb w : Nat) : Nat := 2 * nb * (32 + 128 * w)

/-- Where block q of an operand at offset p lies: its exponent byte and its planes (R266). -/
def blockExpAt (p w q : Nat) : Nat := p + q / 32 * (32 + 128 * w) + q % 32
def blockPlanesAt (p w q : Nat) : Nat := p + q / 32 * (32 + 128 * w) + 32 + q % 32 * (4 * w)

/-- Block q of an operand in a memory (R266), poisoned where any of its granules is. -/
def readBlock (m : List Host.Cell) (poison : List Nat) (p w : Nat) (uns : Bool) (q : Nat) : PBlock :=
  blockOf w uns (anyPoison 3 poison (blockExpAt p w q) 1 || anyPoison 3 poison (blockPlanesAt p w q) (4 * w))
    (loadNat m (blockExpAt p w q) 1) ((List.range w).map fun j => loadNat m (blockPlanesAt p w q + 4 * j) 4)

/-! ### Matrix sums (R98, R99) -/

/-- Σ M_i × M'_i. -/
def dotM : List Int → List Int → Int
  | x :: t, y :: u => x * y + dotM t u
  | _, _ => 0

/-- One block product added into an accumulator element (R99). -/
def accStep (phiA phiB : Int) (acc : Nat) (a b : PBlock) : Nat :=
  if a.e = 0xFF || b.e = 0xFF then 0x7FC00000
  else
    let p := dotM a.mants b.mants
    if p = 0 then acc
    else
      let k : Int := (a.e : Int) - 127 - phiA + ((b.e : Int) - 127 - phiB)
      rne .f32 (addV (decodeF .f32 acc) (.fin (p < 0) p.natAbs k false))

/-! ### Streams of elements (R88, R92, R105, R107): bytes with their poison -/

abbrev PByte := Byte × Bool

/-- n items at a time. -/
def chunks {α : Type} (n : Nat) : Nat → List α → List (List α)
  | 0, _ => []
  | fuel + 1, l => if l.isEmpty then [] else l.take n :: chunks n fuel (l.drop n)

/-- Bytes of a source group of a type (R88, R92, R267); of an element type, of 1,024 elements. -/
def groupBytes (ty : Ty) (w : Nat) : Nat :=
  match ty with
  | .f32 => 4096 | .f16 => 2048 | .bf16 => 2048 | .e4m3 => 1024 | .e5m2 => 1024 | .mx8 => 1056 | .mx8e5 => 1056
  | .mxi8 => 1056 | .mx4 => 544 | _ => 32 + 128 * w

/-- The unit that a converter reads whole: a group, or one element. -/
def unitBytes (ty : Ty) (w : Nat) : Nat := if ty.isMX || ty = .pl then groupBytes ty w else tyWidth ty / 8

/-- The elements of one group or one element's bytes, as values with their poison. -/
def unitElems (ty : Ty) (w : Nat) (uns : Bool) (l : List PByte) : List (FVal × Bool) :=
  let b := l.map (·.1)
  let any (lo n : Nat) : Bool := ((l.drop lo).take n).any (·.2)
  let at1 (k : Nat) : Nat := (nth b k 0).toNat
  if ty = .pl then
    (List.range 32).flatMap fun k =>
      let words := (List.range w).map fun j => leNat ((b.drop (32 + k * 4 * w + 4 * j)).take 4)
      let bad := any k 1 || any (32 + k * 4 * w) (4 * w)
      let blk := blockOf w uns bad (at1 k) words
      (List.range 32).map fun i => (planeVal w uns blk i, bad)
  else if ty.isMX then
    (List.range 32).flatMap fun k =>
      (List.range 32).map fun i =>
        let pos := if ty = .mx4 then 32 + 16 * k + i / 2 else 32 + 32 * k + i
        let code := if ty = .mx4 then (if i % 2 = 0 then at1 pos % 16 else at1 pos / 16) else at1 pos
        (mxVal ty (at1 k) code, any k 1 || any pos 1)
  else [(laneVal ty (leNat b), l.any (·.2))]

/-- The elements of a run of whole units. -/
def elemsOf (ty : Ty) (w : Nat) (uns : Bool) (l : List PByte) : List (FVal × Bool) :=
  (chunks (unitBytes ty w) l.length l).flatMap (unitElems ty w uns)

/-- 32 consecutive elements as a block of a group: its scale or exponent byte and the bytes that follow. -/
def blockBytes (ty : Ty) (w : Nat) (uns : Bool) (x : List (FVal × Bool)) : PByte × List PByte :=
  let bad := x.any (·.2)
  let f32s := x.map fun v => rne .f32 v.1
  if ty = .pl then
    let b := toPlane w uns f32s bad
    ((BitVec.ofNat 8 b.e, bad), (planeWords w b).flatMap fun n => (leBytes 4 n).map (·, bad))
  else
    let (s, q) := mxq ty (f32s.map (decodeF .f32))
    let bytes := if ty = .mx4 then (chunks 2 32 q).map fun p => nth p 0 0 + 16 * nth p 1 0 else q
    ((BitVec.ofNat 8 s, bad), bytes.map fun n => (BitVec.ofNat 8 n, bad))

/-- A list filled up to a multiple of n. -/
def padTo {α : Type} (n : Nat) (x : α) (l : List α) : List α := l ++ List.replicate ((n - l.length % n) % n) x

/-- A run of blocks as whole groups, completed with empty blocks (R88, R92). -/
def groupsOf (ty : Ty) (w : Nat) (blocks : List (PByte × List PByte)) : List PByte :=
  let size := if ty = .pl then 4 * w else if ty = .mx4 then 16 else 32
  let empty : PByte × List PByte := ((0, false), List.replicate size (0, false))
  (chunks 32 blocks.length blocks).flatMap fun c =>
    let c := padTo 32 empty c
    c.map (·.1) ++ c.flatMap (·.2)

/-- The output of a conversion of elements (R105): element by element, or blocks and groups, completed with +0. A signed plane
element M = −2^(w−1) at E = 0xFE, which denotes −2^128 and which no FP32 value holds, is rounded by RC like any other value
(DESIGN CHOICE: the spec calls FROMPLANE exact and states no result there; notes/assumptions/85.md). -/
def outBytes (ty : Ty) (rc w : Nat) (uns : Bool) (x : List (FVal × Bool)) : List PByte :=
  match Fmt.ofTy ty with
  | some f => x.flatMap fun (v, bad) => (leBytes (f.width / 8) (roundF f rc v)).map (·, bad)
  | none =>
    let x := padTo 32 (FVal.fin false 0 0 false, false) x
    groupsOf ty w ((chunks 32 x.length x).map (blockBytes ty w uns))

/-- Whether a conversion pair is one that a converter supports (R106). -/
def convPair (src dst : Nat) : Bool :=
  match Ty.ofCode src, Ty.ofCode dst with
  | some s, some d =>
    match s with
    | .f32 => d == .bf16 || d == .f16 || d == .e4m3 || d == .e5m2 || d.isMX || d == .pl
    | .bf16 => d == .f32 || d == .e4m3 || d == .e5m2 || d.isMX || d == .pl
    | .f16 => d == .f32 || d == .e4m3 || d == .e5m2 || d.isMX || d == .pl
    | .e4m3 => d == .f32 || d == .bf16 || d == .pl
    | .e5m2 => d == .f32 || d == .bf16 || d == .pl
    | .mx8 => d == .f32 || d == .bf16 || d == .pl
    | .mx8e5 => d == .f32 || d == .bf16 || d == .pl
    | .mx4 => d == .f32 || d == .bf16 || d == .pl
    | .mxi8 => d == .f32 || d == .bf16 || d == .pl
    | .pl => d == .f32 || d == .bf16
    | _ => false
  | _, _ => false

/-- Whether a width and signedness fit a pair: zero where neither side is in plane form, and no signed form of one bit
(R304, R402). -/
def convWidthOk (src dst wm1 : Nat) (uns : Bool) : Bool :=
  if src = 17 || dst = 17 then uns || wm1 != 0 else wm1 == 0 && !uns

end Sys2Proof.Machine
end

