-- ==== Sys2Proof/Machine/Scalar.lean ====
section
/-!
DEFINITION. The scalar integer instructions, moves, comparison and predicates (R200 to R212): one meaning per
constructor, over the shared issue order and operand forms.
-/

namespace Sys2Proof.Machine

/-! ### Shared forms -/

/-- VAL of a scalar register (R200). -/
def valS (ty : Ty) (s : State) (r : SReg) : Int := valOf ty (s.rS r).toNat

/-- A typed operation of two scalars: EXT of a function of their values (R204, R206). -/
def typed2 (ty : Ty) (f : Int → Int → Int) (a b : SReg) (s : State) : W64 := extOf ty (f (valS ty s a) (valS ty s b))

/-- A typed operation on the low w bits of two scalars, read as unsigned numbers. -/
def bits2 (ty : Ty) (f : Nat → Nat → Nat) (a b : SReg) (s : State) : W64 :=
  extOf ty (f (uvOf (tyWidth ty) (s.rS a).toNat) (uvOf (tyWidth ty) (s.rS b).toNat) : Nat)

/-- A typed operation on the low w bits of one scalar. -/
def bits1 (ty : Ty) (f : Nat → Nat) (a : SReg) (s : State) : W64 := extOf ty (f (uvOf (tyWidth ty) (s.rS a).toNat) : Nat)

/-- An immediate form: the operation at w = 64 as type i64 (R202). -/
def imm2 (f : Int → Int → Int) (a : SReg) (imm : BitVec 33) (s : State) : W64 :=
  extOf .i64 (f (valS .i64 s a) (immOf imm).toInt)

/-- The quotient of DIV (R205): truncation toward zero; all ones for a zero divisor. The most negative value over -1
wraps back to itself. -/
def divI (x y : Int) : Int := if y = 0 then -1 else x.tdiv y

/-- The remainder of REM, with the sign of the dividend; the dividend for a zero divisor (R205). -/
def remI (x y : Int) : Int := if y = 0 then x else x.tmod y

/-- floor(VAL(a) × VAL(b) / 2^w) (R204). -/
def mulHigh (w : Nat) (x y : Int) : Int := Int.fdiv (x * y) (2 ^ w : Nat)

/-- The shifts of R206 on w-bit values with an unbounded amount n. -/
def shlN (w x n : Nat) : Nat := if n < w then x * 2 ^ n % 2 ^ w else 0
def shrN (w x n : Nat) : Nat := if n < w then x / 2 ^ n else 0
def sarI (w x n : Nat) : Int := if n < w then Int.fdiv (svOf w x) (2 ^ n : Nat) else if svOf w x < 0 then -1 else 0

/-- Rotation to the left within w bits by n mod w. -/
def rotlN (w x n : Nat) : Nat := (x * 2 ^ (n % w) % 2 ^ w) + x / 2 ^ (w - n % w)

/-- Leading zero bits of a w-bit value, 0 to w. -/
def clzN (w x : Nat) : Nat := if x = 0 then w else w - 1 - Nat.log2 x

/-- Trailing zero bits of a w-bit value, 0 to w. -/
def ctzN (w x : Nat) : Nat := (lowestSet x w).getD w

/-- The w / 8 bytes of a value in reverse order. -/
def bswapN (w x : Nat) : Nat := leNat (leBytes (w / 8) x).reverse

/-- The issue interval of a class: too soon after its previous true-predicated instruction (R40, R475). -/
def intervalTrap (code least : Nat) (last : Option Nat) (cyc : Nat) : Option Trap :=
  match last with
  | none => none
  | some c => if cyc - c < least then some ⟨4, code, BitVec.ofNat 64 (cyc - c), 0⟩ else none

/-- A scalar divide: the interval of 24 cycles, then the result after 24 (R40, R203). -/
def issueDiv (i : Instr) (g : Guard) (d : SReg) (v : State → W64) (s : State) : Res :=
  issueChk i g s (fun s => intervalTrap 1 24 s.me.lastDiv s.cyc) fun s =>
    ((s.writeS latDiv d (v s)).modMe fun x => { x with lastDiv := some s.cyc }).retire g

/-! ### Arithmetic (R204, R205) -/

def execAdd (g : Guard) (d a b : SReg) (ty : Ty) (sat : Bool) (s : State) : Res :=
  issueS (.add g d a b ty sat) g s latAlu d (typed2 ty (fun x y => satIf sat ty (x + y)) a b)

def execAddImm (g : Guard) (d a : SReg) (imm : BitVec 33) (s : State) : Res :=
  issueS (.addImm g d a imm) g s latAlu d (imm2 (· + ·) a imm)

def execSub (g : Guard) (d a b : SReg) (ty : Ty) (sat : Bool) (s : State) : Res :=
  issueS (.sub g d a b ty sat) g s latAlu d (typed2 ty (fun x y => satIf sat ty (x - y)) a b)

def execSubImm (g : Guard) (d a : SReg) (imm : BitVec 33) (s : State) : Res :=
  issueS (.subImm g d a imm) g s latAlu d (imm2 (· - ·) a imm)

def execMul (g : Guard) (d a b : SReg) (ty : Ty) (sat : Bool) (s : State) : Res :=
  issueS (.mul g d a b ty sat) g s latMul d (typed2 ty (fun x y => satIf sat ty (x * y)) a b)

def execMulImm (g : Guard) (d a : SReg) (imm : BitVec 33) (s : State) : Res :=
  issueS (.mulImm g d a imm) g s latMul d (imm2 (· * ·) a imm)

def execMulh (g : Guard) (d a b : SReg) (ty : Ty) (s : State) : Res :=
  issueS (.mulh g d a b ty) g s latMul d (typed2 ty (mulHigh (tyWidth ty)) a b)

def execDiv (g : Guard) (d a b : SReg) (ty : Ty) (s : State) : Res :=
  issueDiv (.div g d a b ty) g d (typed2 ty divI a b) s

def execRem (g : Guard) (d a b : SReg) (ty : Ty) (s : State) : Res :=
  issueDiv (.rem g d a b ty) g d (typed2 ty remI a b) s

/-! ### Logic, shifts and bit operations (R206, R207) -/

def execAnd (g : Guard) (d a b : SReg) (ty : Ty) (s : State) : Res :=
  issueS (.and g d a b ty) g s latAlu d (bits2 ty (· &&& ·) a b)

def execAndImm (g : Guard) (d a : SReg) (imm : BitVec 33) (s : State) : Res :=
  issueS (.andImm g d a imm) g s latAlu d fun s => s.rS a &&& immOf imm

def execOr (g : Guard) (d a b : SReg) (ty : Ty) (s : State) : Res :=
  issueS (.or g d a b ty) g s latAlu d (bits2 ty (· ||| ·) a b)

def execOrImm (g : Guard) (d a : SReg) (imm : BitVec 33) (s : State) : Res :=
  issueS (.orImm g d a imm) g s latAlu d fun s => s.rS a ||| immOf imm

def execXor (g : Guard) (d a b : SReg) (ty : Ty) (s : State) : Res :=
  issueS (.xor g d a b ty) g s latAlu d (bits2 ty (· ^^^ ·) a b)

def execXorImm (g : Guard) (d a : SReg) (imm : BitVec 33) (s : State) : Res :=
  issueS (.xorImm g d a imm) g s latAlu d fun s => s.rS a ^^^ immOf imm

def execAndn (g : Guard) (d a b : SReg) (ty : Ty) (s : State) : Res :=
  issueS (.andn g d a b ty) g s latAlu d fun s => extOf ty ((s.rS a &&& ~~~(s.rS b)).toNat : Nat)

/-- The amount of a shift is UV of all 64 bits of S2 (R206). -/
def execShl (g : Guard) (d a b : SReg) (ty : Ty) (s : State) : Res :=
  issueS (.shl g d a b ty) g s latAlu d fun s => bits1 ty (fun x => shlN (tyWidth ty) x (s.rS b).toNat) a s

def execShlImm (g : Guard) (d a : SReg) (imm : BitVec 33) (s : State) : Res :=
  issueS (.shlImm g d a imm) g s latAlu d (bits1 .i64 (fun x => shlN 64 x (immOf imm).toNat) a)

def execShr (g : Guard) (d a b : SReg) (ty : Ty) (s : State) : Res :=
  issueS (.shr g d a b ty) g s latAlu d fun s => bits1 ty (fun x => shrN (tyWidth ty) x (s.rS b).toNat) a s

def execShrImm (g : Guard) (d a : SReg) (imm : BitVec 33) (s : State) : Res :=
  issueS (.shrImm g d a imm) g s latAlu d (bits1 .i64 (fun x => shrN 64 x (immOf imm).toNat) a)

def execSar (g : Guard) (d a b : SReg) (ty : Ty) (s : State) : Res :=
  issueS (.sar g d a b ty) g s latAlu d fun s => extOf ty (sarI (tyWidth ty) (s.rS a).toNat (s.rS b).toNat)

def execSarImm (g : Guard) (d a : SReg) (imm : BitVec 33) (s : State) : Res :=
  issueS (.sarImm g d a imm) g s latAlu d fun s => extOf .i64 (sarI 64 (s.rS a).toNat (immOf imm).toNat)

def execRotl (g : Guard) (d a b : SReg) (ty : Ty) (s : State) : Res :=
  issueS (.rotl g d a b ty) g s latAlu d fun s => bits1 ty (fun x => rotlN (tyWidth ty) x (s.rS b).toNat) a s

def execRotlImm (g : Guard) (d a : SReg) (imm : BitVec 33) (s : State) : Res :=
  issueS (.rotlImm g d a imm) g s latAlu d (bits1 .i64 (fun x => rotlN 64 x (immOf imm).toNat) a)

def execMin (g : Guard) (d a b : SReg) (ty : Ty) (s : State) : Res :=
  issueS (.min g d a b ty) g s latAlu d (typed2 ty (fun x y => if x ≤ y then x else y) a b)

def execMinImm (g : Guard) (d a : SReg) (imm : BitVec 33) (s : State) : Res :=
  issueS (.minImm g d a imm) g s latAlu d (imm2 (fun x y => if x ≤ y then x else y) a imm)

def execMax (g : Guard) (d a b : SReg) (ty : Ty) (s : State) : Res :=
  issueS (.max g d a b ty) g s latAlu d (typed2 ty (fun x y => if x ≤ y then y else x) a b)

def execMaxImm (g : Guard) (d a : SReg) (imm : BitVec 33) (s : State) : Res :=
  issueS (.maxImm g d a imm) g s latAlu d (imm2 (fun x y => if x ≤ y then y else x) a imm)

def execAbs (g : Guard) (d a : SReg) (ty : Ty) (sat : Bool) (s : State) : Res :=
  issueS (.abs g d a ty sat) g s latAlu d fun s =>
    extOf ty (satIf sat ty ((svOf (tyWidth ty) (s.rS a).toNat).natAbs : Int))

def execClz (g : Guard) (d a : SReg) (ty : Ty) (s : State) : Res :=
  issueS (.clz g d a ty) g s latAlu d (bits1 ty (clzN (tyWidth ty)) a)

def execCtz (g : Guard) (d a : SReg) (ty : Ty) (s : State) : Res :=
  issueS (.ctz g d a ty) g s latAlu d (bits1 ty (ctzN (tyWidth ty)) a)

def execPopc (g : Guard) (d a : SReg) (ty : Ty) (s : State) : Res :=
  issueS (.popc g d a ty) g s latAlu d (bits1 ty (popNat · (tyWidth ty)) a)

def execBswap (g : Guard) (d a : SReg) (ty : Ty) (s : State) : Res :=
  issueS (.bswap g d a ty) g s latAlu d (bits1 ty (bswapN (tyWidth ty)) a)

def execBfx (g : Guard) (d a : SReg) (pos : BitVec 6) (wid : BitVec 7) (s : State) : Res :=
  issueS (.bfx g d a pos wid) g s latAlu d fun s => BitVec.ofNat 64 (fld (s.rS a) pos.toNat wid.toNat)

def execBfi (g : Guard) (d a : SReg) (pos : BitVec 6) (wid : BitVec 7) (s : State) : Res :=
  issueS (.bfi g d a pos wid) g s latAlu d fun s =>
    let f := BitVec.ofNat 64 ((2 ^ wid.toNat - 1) * 2 ^ pos.toNat)
    (s.rS d &&& ~~~f) ||| (s.rS a <<< pos.toNat &&& f)

/-! ### Moves and addresses (R208) -/

def execLea (g : Guard) (d a b : SReg) (k : BitVec 2) (s : State) : Res :=
  issueS (.lea g d a b k) g s latAlu d fun s => s.rS a + s.rS b <<< k.toNat

def execLeaImm (g : Guard) (d a : SReg) (imm : BitVec 33) (s : State) : Res :=
  issueS (.leaImm g d a imm) g s latAlu d fun s => s.rS a + 8 * immOf imm

def execMovi (g : Guard) (d : SReg) (imm : BitVec 33) (s : State) : Res :=
  issueS (.movi g d imm) g s latAlu d fun _ => immOf imm

def execMovhi (g : Guard) (d a : SReg) (imm : BitVec 32) (s : State) : Res :=
  issueS (.movhi g d a imm) g s latAlu d fun s => imm ++ (s.rS a).truncate 32

def execMov (g : Guard) (d a : SReg) (ty : Ty) (s : State) : Res :=
  issueS (.mov g d a ty) g s latAlu d fun s => extOf ty (valS ty s a)

/-! ### Comparison and predicates (R209 to R212) -/

def execCmp (g : Guard) (d : PReg) (a b : SReg) (ty : Ty) (cc : Cond) (s : State) : Res :=
  issueFree (.cmp g d a b ty cc) g s fun s => (s.writeP latAlu d (condI cc (valS ty s a) (valS ty s b))).retire g

def execCmpImm (g : Guard) (d : PReg) (a : SReg) (cc : Cond) (uns : Bool) (imm : BitVec 28) (s : State) : Res :=
  issueFree (.cmpImm g d a cc uns imm) g s fun s =>
    let ty := if uns then Ty.n64 else Ty.i64
    (s.writeP latAlu d (condI cc (valS ty s a) (valOf ty (immOf imm).toNat))).retire g

def execCsel (g : Guard) (d a b : SReg) (p : PReg) (s : State) : Res :=
  issueS (.csel g d a b p) g s latAlu d fun s => if s.rP p then s.rS a else s.rS b

def execPlog (g : Guard) (d a b : PReg) (tt : BitVec 4) (s : State) : Res :=
  issueFree (.plog g d a b tt) g s fun s => (s.writeP latAlu d (truth tt (s.rP a) (s.rP b))).retire g

/-- The four forms of PMOV (R212). -/
def pmovEffect (f : PmovForm) (s : State) : State :=
  match f with
  | .pk d => s.writeS latAlu d (BitVec.ofNat 64 (maskOf 8 fun i => s.me.regP s.cyc i))
  | .upk a => (List.range 7).foldl (fun t i => t.writeP latAlu (BitVec.ofNat 3 (i + 1)) (bitOf (s.rS a).toNat (i + 1))) s
  | .sp p a => s.writeP latAlu p (s.rS a != 0)
  | .ps d p => s.writeS latAlu d (if s.rP p then 1 else 0)

def execPmov (g : Guard) (f : PmovForm) (s : State) : Res :=
  issueFree (.pmov g f) g s fun s => (pmovEffect f s).retire g

end Sys2Proof.Machine
end

