-- ==== Sys2Proof/Machine/Memory.lean ====
section
/-!
DEFINITION. Local memory and code writing (R219 to R227, R243 to R246): the instructions queue a local access, which the
tile performs in its SRAM cycle c + 3 (R132); the performing of the accesses stands at the end.
-/

namespace Sys2Proof.Machine

/-! ### Remote and local operations on a value (R149) -/

/-- PERFORM of an operation on the value x of 2^size bytes. -/
def performOp (op : AOp) (size : Nat) (data swap : W64) (x : Nat) : Nat :=
  let w := 8 * 2 ^ size
  let d := uvOf w data.toNat
  match op with
  | .store => d
  | .swap => d
  | .add => (x + d) % 2 ^ w
  | .smin => if svOf w x ≤ svOf w d then x else d
  | .smax => if svOf w x ≤ svOf w d then d else x
  | .umin => Nat.min x d
  | .umax => Nat.max x d
  | .band => x &&& d
  | .bor => x ||| d
  | .bxor => x ^^^ d
  | .cas => if x = d then uvOf w swap.toNat else x
  | .fadd => fadd .f32 x d
  | .fmin => fminC .f32 x d
  | .fmax => fmaxC .f32 x d

/-! ### Checks -/

/-- The address fault of a local access of n bytes (R220, R476). -/
def localTrap (s : State) (ea n : Nat) : Option Trap :=
  if inAlloc s.kern.sram ea n then none else some ⟨5, 1, BitVec.ofNat 64 ea, 0⟩

/-- The address fault of a local access that must be aligned. -/
def alignedTrap (s : State) (ea n align : Nat) : Option Trap :=
  caseTrap 5 [(1, !inAlloc s.kern.sram ea n, BitVec.ofNat 64 ea), (2, ea % align != 0, BitVec.ofNat 64 ea)]

/-- The physical offset of a local offset (R222). -/
def State.phys (s : State) (off : Nat) : Nat := s.kern.sbase + off

/-! ### Scalar loads and stores (R219 to R221) -/

def execLd (g : Guard) (d a : SReg) (size : BitVec 2) (sx : Bool) (off : BitVec 26) (s : State) : Res :=
  let i := Instr.ld g d a size sx off
  issueChk i g s (fun s => localTrap s (effAddr (s.rS a) off) (2 ^ size.toNat)) fun s =>
    (s.access (s.trace (wordOf i) none)
      (.load [(d.toNat, s.phys (effAddr (s.rS a) off))] size.toNat sx)).retire g

def execSt (g : Guard) (d a : SReg) (size : BitVec 2) (scope : Scope) (off : BitVec 26) (s : State) : Res :=
  let i := Instr.st g d a size scope off
  issueChk i g s (fun s => localTrap s (effAddr (s.rS a) off) (2 ^ size.toNat)) fun s =>
    (s.access (s.trace (wordOf i) none)
      (.store (splitAligned (s.phys (effAddr (s.rS a) off)) (leBytes (2 ^ size.toNat) (s.rS d).toNat))
        (2 ≤ scope.code) true)).retire g

/-- LDP and STP: two elements from EA on, the lower address first (R220). -/
def execLdp (g : Guard) (d : BitVec 5) (a : SReg) (size : BitVec 2) (sx : Bool) (off : BitVec 26) (s : State) : Res :=
  let i := Instr.ldp g d a size sx off
  issueChk i g s (fun s => localTrap s (effAddr (s.rS a) off) (2 * 2 ^ size.toNat)) fun s =>
    let p := s.phys (effAddr (s.rS a) off)
    (s.access (s.trace (wordOf i) none)
      (.load [(2 * d.toNat, p), (2 * d.toNat + 1, p + 2 ^ size.toNat)] size.toNat sx)).retire g

def execStp (g : Guard) (d : BitVec 5) (a : SReg) (size : BitVec 2) (scope : Scope) (off : BitVec 26) (s : State) : Res :=
  let i := Instr.stp g d a size scope off
  issueChk i g s (fun s => localTrap s (effAddr (s.rS a) off) (2 * 2 ^ size.toNat)) fun s =>
    let p := s.phys (effAddr (s.rS a) off)
    let n := 2 ^ size.toNat
    let lo := leBytes n (s.me.regS s.cyc (2 * d.toNat)).toNat
    let hi := leBytes n (s.me.regS s.cyc (2 * d.toNat + 1)).toNat
    (s.access (s.trace (wordOf i) none)
      (.store (splitAligned p lo ++ splitAligned (p + n) hi) (2 ≤ scope.code) true)).retire g

/-- LATOM: S1 is the local offset, S2 the operand, S3 the new value of a compare-and-swap (R224). -/
def execLatom (g : Guard) (d a b c : SReg) (ty : Ty) (op : AOp) (s : State) : Res :=
  let i := Instr.latom g d a b c ty op
  let size := tySize ty
  issueChk i g s (fun s => alignedTrap s (s.rS a).toNat (2 ^ size) (2 ^ size)) fun s =>
    (s.access (s.trace (wordOf i) none)
      (.atom d.toNat (s.phys (s.rS a).toNat) op size (s.rS b) (s.rS c) ty.isSigned)).retire g

/-! ### Writing code (R225 to R227) -/

def execCwb (g : Guard) (s : State) : Res :=
  issueFree (.cwb g) g s fun s => s.sleepOn g (.code true (s.cyc + 4))

/-- IINV of EA to EA + UV(DATA) − 1, the line of EA for s0, clipped at the allocation (R226). -/
def execIinv (g : Guard) (d a : SReg) (off : BitVec 26) (s : State) : Res :=
  let i := Instr.iinv g d a off
  issueChk i g s (fun s => localTrap s (effAddr (s.rS a) off) 1) fun s =>
    let ea := effAddr (s.rS a) off
    let n := Nat.min (if d = 0 then 1 else (s.rS d).toNat) (s.kern.sram - ea)
    (s.access (s.trace (wordOf i) none) (.iinv (s.phys ea) (s.phys ea + n))).retire g

/-- FETCHB: what the slot has fetched ahead is discarded, and it sleeps until c + 4 (R227). -/
def execFetchb (g : Guard) (s : State) : Res :=
  issueFree (.fetchb g) g s fun s => (s.sleepOn g (.code false (s.cyc + 4))).modMe fun x => { x with ahead := [] }

/-! ### Vector memory (R243 to R246) -/

/-- The included lanes of a mask (R236). -/
def State.lanesOf (s : State) (m : MReg) : List Nat := (List.range s.vlen).filter (s.me.maskBit s.cyc m.toNat)

/-- The lanes that a masked instruction clears: the excluded ones, when MZ = 1 (R236). -/
def State.zeroLanes (s : State) (m : Msk) : List Nat :=
  if m.mz then (List.range s.vlen).filter fun i => !s.me.maskBit s.cyc m.m.toNat i else []

/-- The address fault of a vector access: the lowest lane at fault, and the lowest code there (R245, R473). -/
def laneTrap (budget size : Nat) : List (Nat × Nat) → Option Trap
  | [] => none
  | (i, ea) :: t =>
    if !inAlloc budget ea (2 ^ size) then some ⟨5, 1, BitVec.ofNat 64 ea, i⟩
    else if ea % 2 ^ size != 0 then some ⟨5, 2, BitVec.ofNat 64 ea, i⟩
    else laneTrap budget size t

/-- EA_i of VLD and VST (R243). -/
def State.unitAddrs (s : State) (a : SReg) (off : BitVec 26) (size : Nat) : List (Nat × Nat) :=
  (List.range s.vlen).map fun i => (i, (effAddr (s.rS a) off + i * 2 ^ size) % 2 ^ 64)

/-- EA_i of VLDS and VSTS (R244). -/
def State.strideAddrs (s : State) (a b : SReg) (m : MReg) : List (Nat × Nat) :=
  (s.lanesOf m).map fun i => (i, (s.rS a + BitVec.ofNat 64 i * s.rS b).toNat)

/-- EA_i of VGATH and VSCAT (R244). -/
def State.gatherAddrs (s : State) (a : SReg) (b : VReg) (k : BitVec 2) (m : MReg) : List (Nat × Nat) :=
  (s.lanesOf m).map fun i => (i, (s.rS a + (s.rLane b i).setWidth 64 <<< k.toNat).toNat)

/-- A vector load of the lanes with their local offsets. -/
def vloadEff (i : Instr) (g : Guard) (d : VReg) (size : Nat) (sx : Bool) (lanes : State → List (Nat × Nat))
    (zero : State → List Nat) (s : State) : Res :=
  issueChk i g s (fun s => laneTrap s.kern.sram size (lanes s)) fun s =>
    (s.access (s.trace (wordOf i) none)
      (.vload d.toNat ((lanes s).map fun (k, ea) => (k, s.phys ea)) size sx (zero s))).retire g

/-- A vector store: lane by lane, each single-copy atomic (R133, R246). -/
def vstoreEff (i : Instr) (g : Guard) (c : VReg) (size : Nat) (rel : Bool) (lanes : State → List (Nat × Nat))
    (s : State) : Res :=
  issueChk i g s (fun s => laneTrap s.kern.sram size (lanes s)) fun s =>
    (s.access (s.trace (wordOf i) none)
      (.store ((lanes s).map fun (k, ea) => (s.phys ea, leBytes (2 ^ size) (s.rLane c k).toNat)) rel false)).retire g

def execVld (g : Guard) (d : VReg) (a : SReg) (size : BitVec 2) (sx : Bool) (off : BitVec 26) (s : State) : Res :=
  vloadEff (.vld g d a size sx off) g d size.toNat sx (·.unitAddrs a off size.toNat) (fun _ => []) s

def execVst (g : Guard) (d : VReg) (a : SReg) (size : BitVec 2) (scope : Scope) (off : BitVec 26) (s : State) : Res :=
  vstoreEff (.vst g d a size scope off) g d size.toNat (2 ≤ scope.code) (·.unitAddrs a off size.toNat) s

def execVlds (g : Guard) (d : VReg) (a b : SReg) (ty : Ty) (m : Msk) (s : State) : Res :=
  vloadEff (.vlds g d a b ty m) g d (tySize ty) ty.isSigned (·.strideAddrs a b m.m) (·.zeroLanes m) s

def execVsts (g : Guard) (a b : SReg) (c : VReg) (ty : Ty) (m : MReg) (s : State) : Res :=
  vstoreEff (.vsts g a b c ty m) g c (tySize ty) false (·.strideAddrs a b m) s

def execVgath (g : Guard) (d : VReg) (a : SReg) (b : VReg) (ty : Ty) (m : Msk) (k : BitVec 2) (s : State) : Res :=
  vloadEff (.vgath g d a b ty m k) g d (tySize ty) ty.isSigned (·.gatherAddrs a b k m.m) (·.zeroLanes m) s

def execVscat (g : Guard) (a : SReg) (b c : VReg) (ty : Ty) (m : MReg) (k : BitVec 2) (s : State) : Res :=
  vstoreEff (.vscat g a b c ty m k) g c (tySize ty) false (·.gatherAddrs a b k m) s

/-! ### The SRAM cycle of a local access (R132) -/

/-- A pending effect of a local load: its landing cycle is c + lat for the issue cycle c = SRAM cycle − 3. -/
def State.loadPend (s : State) (tr : Trace) (lat : Nat) (e : PEffect) : State :=
  s.modSlot tr.site tr.slot fun x => { x with pend := x.pend ++ [⟨s.cyc - 3 + lat, s.cyc - 3, e, true⟩] }

/-- A deferred poison fault of a local load, with its lowest faulting lane (R47, R460). -/
def State.poisonLoad (s : State) (tr : Trace) (code : Nat) (addr lane : Nat) : State :=
  let k := (s.tile tr.site).kernelOf tr.kern
  s.modSlot tr.site tr.slot fun x =>
    { x with deferred := x.deferred ++
        [(s.cyc, s.faultRec tr ⟨11, code, BitVec.ofNat 64 (addr - k.sbase), lane⟩ true)] }

/-- The descriptor of a CPY2 or CPYC command, read in its SRAM cycle (R302, R304). -/
def ECmd.withDesc (c : ECmd) (words : List W64) (bad : Bool) : ECmd :=
  match c.op with
  | .cpy2 _ => { c with op := .cpy2 (some words), bad := bad }
  | .cpyc _ => { c with op := .cpyc (some words), bad := bad }
  | _ => c

/-- Whether the word of a monitor meets its condition now (R319). -/
def Tile.monMet (t : Tile) (m : Mon) : Bool := condW m.cond (BitVec.ofNat 64 (loadNat t.sram (8 * m.word) 8)) m.val

/-- A monitor whose condition holds lets its slot wake, and is freed (R319). -/
def Tile.monFire (t : Tile) (n : Nat) (m : Mon) : Tile :=
  { (t.modSlot m.slot fun x => { x with wake := match x.wake with
      | some (.mon k met) => some (.mon k (met || k == n))
      | w => w }) with mons := erase n t.mons }

/-- A monitor is armed and its word is read; or it re-reads its word (R319). -/
def Tile.monRead (t : Tile) (n : Nat) : Tile :=
  match t.mons.find? (·.1 == n) with
  | none => t
  | some (_, m) =>
    if t.monMet m then t.monFire n m else { t with mons := put n { m with armed := true } t.mons }

/-- Whether the pieces of a store together cover a poison granule of SRAM (R471). -/
def wholly (pieces : List (Nat × List Byte)) (g : Nat) : Bool :=
  (List.range 8).all fun i => pieces.any fun p => decide (p.1 ≤ 8 * g + i) && decide (8 * g + i < p.1 + p.2.length)

/-- Whether a slot sleeps in FETCHB before its cycle c + 4: its next instruction is fetched after every IINV performed by then
(R227). -/
def Slot.awaitsFetch (x : Slot) (cyc : Nat) : Bool :=
  match x.wake with
  | some (.code false c) => decide (cyc < c)
  | _ => false

/-- What a local access does in its SRAM cycle. -/
def State.performAccess (s : State) (site : Nat) (a : LAccess) : State :=
  let t := s.tile site
  match a.act with
  | .load dst size sx =>
    match dst.find? fun (_, p) => anyPoison 3 t.sramPoison p (2 ^ size) with
    | some (_, p) => s.poisonLoad a.tr 1 p 0
    | none =>
      dst.foldl (fun s (r, p) =>
        if r = 0 then s
        else s.loadPend a.tr latLoad (.s r (extSize size sx (loadNat t.sram p (2 ^ size))))) s
  | .vload r lanes size sx zero =>
    match lanes.find? fun (_, p) => anyPoison 3 t.sramPoison p (2 ^ size) with
    | some (k, p) => s.poisonLoad a.tr 1 p k
    | none =>
      s.loadPend a.tr latVload (.v r ((lanes.map fun (k, p) =>
        (k, (extSize size sx (loadNat t.sram p (2 ^ size))).setWidth 32)) ++ zero.map fun k => (k, (0 : W32))))
  | .store pieces rel ordered =>
    (s.storePieces site a.tr.slot a.tr.kern rel ordered pieces).modTile site fun t =>
      { t with sramPoison := t.sramPoison.filter fun g => !wholly pieces g }
  | .atom d p op size data swap sx =>
    if anyPoison 3 t.sramPoison p (2 ^ size) then s.poisonLoad a.tr 1 p 0
    else
      let x := loadNat t.sram p (2 ^ size)
      let s := s.storePieces site a.tr.slot a.tr.kern false true [(p, leBytes (2 ^ size) (performOp op size data swap x))]
      if d = 0 then s else s.loadPend a.tr latLoad (.s d (extSize size sx x))
  | .iinv lo hi =>
    if anyPoison 3 t.sramPoison lo (hi - lo) then s.poisonLoad a.tr 3 lo 0
    else
      let ks := if hi ≤ lo then [] else granules 3 (lo / 64 * 64) ((hi + 63) / 64 * 64 - lo / 64 * 64)
      s.modTile site fun t =>
        let old := t.fetch.filter fun (k, _) => ks.contains k
        { t with fetch := t.fetch.filter fun (k, _) => !ks.contains k,
                 slots := t.slots.map fun (n, x) =>
                   (n, if x.awaitsFetch s.cyc then x else { x with ahead := old.foldl (fun l (k, v) => put k (getD [] l k ++ v) l) x.ahead }) }
  | .desc cmd p =>
    let words := (List.range 4).map fun i => BitVec.ofNat 64 (loadNat t.sram (p + 8 * i) 8)
    let f : ECmd → ECmd := fun c =>
      if c.tr.site == site && c.id == cmd then c.withDesc words (anyPoison 3 t.sramPoison p 32) else c
    let s := s.modTile site fun t => { t with engPort := t.engPort.map f }
    { s with engines := s.engines.map fun (k, q) => (k, q.map f) }
  | .arm n => s.modTile site fun t => t.monRead n

end Sys2Proof.Machine
end

