-- ==== Sys2Proof/Machine/Vector.lean ====
section
/-!
DEFINITION. The vector instructions on floating-point elements: arithmetic, special functions, reductions, scan,
conversion and packing (R239 to R241, R250, R252 to R256), with the forms that the other vector instructions share
(R236).
-/

namespace Sys2Proof.Machine

/-! ### Shared forms -/

/-- Whether lane i is included (R236). -/
def State.inLane (s : State) (m : MReg) (i : Nat) : Bool := s.me.maskBit s.cyc m.toNat i

/-- A masked vector result: included lanes by f, excluded ones zero when MZ = 1, else not written (R236). -/
def State.maskedLanes (s : State) (m : Msk) (f : Nat → W32) : List (Nat × W32) :=
  (List.range s.vlen).filterMap fun i =>
    if s.inLane m.m i then some (i, f i) else if m.mz then some (i, 0) else none

/-- A vector instruction with a masked result of latency lat. -/
def issueV (i : Instr) (g : Guard) (lat : Nat) (d : VReg) (m : Msk) (f : State → Nat → W32) (s : State) : Res :=
  issueFree i g s fun s => (s.writeV lat d (s.maskedLanes m (f s))).retire g

/-- An instruction that writes a lane mask under a mask (R236). -/
def issueM (i : Instr) (g : Guard) (lat : Nat) (d : MReg) (m : Msk) (f : State → Nat → Bool) (s : State) : Res :=
  issueFree i g s fun s =>
    (s.writeM lat d (maskOf s.vlen fun k => s.inLane m.m k || m.mz)
      (maskOf s.vlen fun k => s.inLane m.m k && f s k)).retire g

/-- The format of an FP type. -/
def Ty.fmt (ty : Ty) : Fmt := (Fmt.ofTy ty).getD .f32

/-- The element of a lane in an FP type, as its code. -/
def codeOf (ty : Ty) (x : W32) : Nat := x.toNat % 2 ^ (Ty.fmt ty).width

/-- Lane operations on one, two and three FP elements. -/
def lane1 (ty : Ty) (f : Fmt → Nat → Nat) (a : VReg) (s : State) (i : Nat) : W32 :=
  BitVec.ofNat 32 (f (Ty.fmt ty) (codeOf ty (s.rLane a i)))
def lane2 (ty : Ty) (f : Fmt → Nat → Nat → Nat) (a b : VReg) (s : State) (i : Nat) : W32 :=
  BitVec.ofNat 32 (f (Ty.fmt ty) (codeOf ty (s.rLane a i)) (codeOf ty (s.rLane b i)))
def lane3 (ty : Ty) (f : Fmt → Nat → Nat → Nat → Nat) (a b c : VReg) (s : State) (i : Nat) : W32 :=
  BitVec.ofNat 32 (f (Ty.fmt ty) (codeOf ty (s.rLane a i)) (codeOf ty (s.rLane b i)) (codeOf ty (s.rLane c i)))

/-! ### Floating-point arithmetic (R239, R240) -/

def execVadd (g : Guard) (d a b : VReg) (ty : Ty) (m : Msk) (s : State) : Res :=
  issueV (.vadd g d a b ty m) g latVec d m (lane2 ty fadd a b) s

def execVsub (g : Guard) (d a b : VReg) (ty : Ty) (m : Msk) (s : State) : Res :=
  issueV (.vsub g d a b ty m) g latVec d m (lane2 ty fsub a b) s

def execVmul (g : Guard) (d a b : VReg) (ty : Ty) (m : Msk) (s : State) : Res :=
  issueV (.vmul g d a b ty m) g latVec d m (lane2 ty fmul a b) s

def execVfma (g : Guard) (d a b c : VReg) (ty : Ty) (m : Msk) (s : State) : Res :=
  issueV (.vfma g d a b c ty m) g latVec d m (lane3 ty ffma a b c) s

def execVfms (g : Guard) (d a b c : VReg) (ty : Ty) (m : Msk) (s : State) : Res :=
  issueV (.vfms g d a b c ty m) g latVec d m (lane3 ty ffms a b c) s

def execVmin (g : Guard) (d a b : VReg) (ty : Ty) (m : Msk) (s : State) : Res :=
  issueV (.vmin g d a b ty m) g latVec d m (lane2 ty fminC a b) s

def execVmax (g : Guard) (d a b : VReg) (ty : Ty) (m : Msk) (s : State) : Res :=
  issueV (.vmax g d a b ty m) g latVec d m (lane2 ty fmaxC a b) s

def execVabs (g : Guard) (d a : VReg) (ty : Ty) (m : Msk) (s : State) : Res :=
  issueV (.vabs g d a ty m) g latVec d m (lane1 ty fabsC a) s

def execVneg (g : Guard) (d a : VReg) (ty : Ty) (m : Msk) (s : State) : Res :=
  issueV (.vneg g d a ty m) g latVec d m (lane1 ty fnegC a) s

def execVcmpf (g : Guard) (d : MReg) (a b : VReg) (ty : Ty) (cc : Cond) (m : Msk) (s : State) : Res :=
  issueM (.vcmpf g d a b ty cc m) g latVec d m
    (fun s i => condF (Ty.fmt ty) cc (codeOf ty (s.rLane a i)) (codeOf ty (s.rLane b i))) s

def execVclass (g : Guard) (d a : VReg) (ty : Ty) (m : Msk) (s : State) : Res :=
  issueV (.vclass g d a ty m) g latVec d m (lane1 ty classWord a) s

/-! ### Special functions (R241): issue interval 4, latency 8 (R238) -/

def issueSfu (i : Instr) (g : Guard) (d a : VReg) (m : Msk) (f : Nat → Nat) (s : State) : Res :=
  issueChk i g s (fun s => intervalTrap 2 4 s.me.lastSfu s.cyc) fun s =>
    ((s.writeV latSfu d (s.maskedLanes m fun k => BitVec.ofNat 32 (f (s.rLane a k).toNat))).modMe
      fun x => { x with lastSfu := some s.cyc }).retire g

def execVexp2 (g : Guard) (d a : VReg) (m : Msk) (s : State) : Res := issueSfu (.vexp2 g d a m) g d a m fexp2 s
def execVlog2 (g : Guard) (d a : VReg) (m : Msk) (s : State) : Res := issueSfu (.vlog2 g d a m) g d a m flog2 s
def execVrcp (g : Guard) (d a : VReg) (m : Msk) (s : State) : Res := issueSfu (.vrcp g d a m) g d a m frcp s
def execVrsq (g : Guard) (d a : VReg) (m : Msk) (s : State) : Res := issueSfu (.vrsq g d a m) g d a m frsq s

/-! ### Reductions and scan (R102, R103, R250, R252) -/

/-- REDTREE over the lanes, the excluded ones at the identity. -/
def State.reduce (s : State) (m : MReg) (ident : Nat) (op : Nat → Nat → Nat) (elem : Nat → Nat) : Nat :=
  redTree op 7 ((List.range s.vlen).map fun i => if s.inLane m i then elem i else ident)

def issueRedF (i : Instr) (g : Guard) (d : SReg) (a : VReg) (m : MReg) (ident : Nat) (op : Nat → Nat → Nat)
    (s : State) : Res :=
  issueS i g s latVec d fun s => BitVec.ofNat 64 (s.reduce m ident op fun k => (s.rLane a k).toNat)

def execVredadd (g : Guard) (d : SReg) (a : VReg) (m : MReg) (s : State) : Res :=
  issueRedF (.vredadd g d a m) g d a m 0x80000000 (fadd .f32) s

def execVredmax (g : Guard) (d : SReg) (a : VReg) (m : MReg) (s : State) : Res :=
  issueRedF (.vredmax g d a m) g d a m 0xFF800000 (fmaxC .f32) s

def execVredmin (g : Guard) (d : SReg) (a : VReg) (m : MReg) (s : State) : Res :=
  issueRedF (.vredmin g d a m) g d a m 0x7F800000 (fminC .f32) s

/-- A value with the default NaN for a NaN (R83). -/
def canonF (f : Fmt) (x : Nat) : Nat := if (decodeF f x).isNan then f.nanCode else x

/-- VSCAN: the SUMSEQ of the included lanes up to lane i. -/
def State.scanLane (s : State) (a : VReg) (m : MReg) (i : Nat) : W32 :=
  BitVec.ofNat 32 (canonF .f32 (sumSeq (((List.range (i + 1)).filter (s.inLane m)).map fun k => (s.rLane a k).toNat)))

def execVscan (g : Guard) (d a : VReg) (m : Msk) (s : State) : Res :=
  issueV (.vscan g d a m) g latVec d m (fun s i => s.scanLane a m.m i) s

/-! ### Conversion (R253 to R255) -/

/-- The block of lane i under MXQ, excluded lanes entering as +0 (R255). -/
def State.mxBlock (s : State) (a : VReg) (dst src : Ty) (m : MReg) (i : Nat) : Nat × List Nat :=
  mxq dst ((List.range 32).map fun k =>
    let j := i / 32 * 32 + k
    if s.inLane m j then laneVal src (s.rLane a j).toNat else .fin false 0 0 false)

/-- The lane that VCVT writes. -/
def State.cvtLane (s : State) (a : VReg) (dst src : Ty) (rc : Nat) (m : MReg) (i : Nat) : W32 :=
  if dst.isMX then
    let (sc, q) := s.mxBlock a dst src m i
    BitVec.ofNat 32 (256 * sc + nth q (i % 32) 0)
  else laneOut dst (cvtElem dst src rc (s.rLane a i).toNat)

def execVcvt (g : Guard) (d a : VReg) (dst src : Ty) (rc : BitVec 3) (m : Msk) (s : State) : Res :=
  issueV (.vcvt g d a dst src rc m) g latVec d m (fun s i => s.cvtLane a dst src rc.toNat m.m i) s

/-! ### Packing (R256) -/

/-- Field f of w bits of a register. -/
def State.field (s : State) (r : VReg) (w f : Nat) : Nat := bitsOf (s.rLane r (f / (32 / w))).toNat (f % (32 / w) * w) w

/-- A lane of D after an element-form VPACK of part q: fields q × VLEN to q × VLEN + VLEN − 1 come from the lanes of S1. -/
def State.packLane (s : State) (d a : VReg) (w q i : Nat) : W32 :=
  let r := 32 / w
  BitVec.ofNat 32 ((List.range r).foldl (fun acc j =>
    let f := i * r + j
    let x := if q * s.vlen ≤ f && f < (q + 1) * s.vlen then bitsOf (s.rLane a (f - q * s.vlen)).toNat 0 w
      else s.field d w f
    acc + x * 2 ^ (j * w)) 0)

/-- The lanes that VPACK writes: those that hold a field of the part. -/
def State.packLanes (s : State) (d a : VReg) (ty : Ty) (scale : Bool) (q : Nat) : List (Nat × W32) :=
  let w := if scale then 8 else tyWidth ty
  let blocks := s.vlen / 32
  if scale then
    if q < 32 then
      (List.range s.vlen).filterMap fun i =>
        if (List.range 4).any fun j => q * blocks ≤ 4 * i + j && 4 * i + j < (q + 1) * blocks then
          some (i, BitVec.ofNat 32 ((List.range 4).foldl (fun acc j =>
            let k := 4 * i + j
            let x := if q * blocks ≤ k && k < (q + 1) * blocks then bitsOf (s.rLane a (32 * (k - q * blocks))).toNat 8 8
              else s.field d 8 k
            acc + x * 2 ^ (8 * j)) 0))
        else none
    else []
  else if q < 32 / w then
    (List.range s.vlen).filterMap fun i =>
      if (List.range (32 / w)).any fun j => q * s.vlen ≤ i * (32 / w) + j && i * (32 / w) + j < (q + 1) * s.vlen then
        some (i, s.packLane d a w q i)
      else none
  else []

/-- The lanes that VUNPK writes. -/
def State.unpackLanes (s : State) (d a : VReg) (ty : Ty) (scale : Bool) (q : Nat) : List (Nat × W32) :=
  let w := tyWidth ty
  if scale then
    if q < 32 then
      (List.range s.vlen).map fun i =>
        let old := (s.rLane d i).toNat
        let x := s.field a 8 (q * (s.vlen / 32) + i / 32)
        (i, BitVec.ofNat 32 (bitsOf old 16 16 * 2 ^ 16 + x * 2 ^ 8 + bitsOf old 0 8))
    else []
  else if q < 32 / w then
    (List.range s.vlen).map fun i => (i, laneOut ty (s.field a w (q * s.vlen + i) : Nat))
  else []

def execVpack (g : Guard) (d a : VReg) (b : SReg) (ty : Ty) (scale : Bool) (s : State) : Res :=
  issueFree (.vpack g d a b ty scale) g s fun s =>
    (s.writeV latPerm d (s.packLanes d a ty scale (s.rS b).toNat)).retire g

def execVunpk (g : Guard) (d a : VReg) (b : SReg) (ty : Ty) (scale : Bool) (s : State) : Res :=
  issueFree (.vunpk g d a b ty scale) g s fun s =>
    (s.writeV latPerm d (s.unpackLanes d a ty scale (s.rS b).toNat)).retire g

end Sys2Proof.Machine
end

