-- ==== Sys2Proof/Machine/Array.lean ====
section
/-!
DEFINITION. The plane array (R260 to R275): the queued instructions of the array queue, checked at issue with their
operands captured (R262), and what each entry does when the array has finished it (R263, R275), with the residue checks
of R515.
-/

namespace Sys2Proof.Machine

/-! ### Entering a queue (R260 to R262) -/

/-- A queued instruction: its checks, room in its queue and under its tag, then its entry. -/
def issueQ (i : Instr) (g : Guard) (q : QTag) (s : State) (chk : State → Option Trap) (room : Tile → Bool)
    (eff : State → State) : Res :=
  issue i g s chk (fun s => room s.here && s.here.tagRoom q.tagOf) fun s => (eff (s.startTag q.tagOf)).retire g

/-- The entry of the issuing instruction with its operand values. -/
def State.entry (s : State) (i : Instr) (q : QTag) (d a b : W64) : QEntry :=
  { i := i, tr := s.trace (wordOf i) q.tagOf, d := d, a := a, b := b, lanes := [], bslot := none, iss := s.cyc }

/-- An array instruction with three captured values. -/
def issueArray (i : Instr) (g : Guard) (q : QTag) (s : State) (chk : State → Option Trap) (d a b : State → W64)
    (lanes : State → List W32) : Res :=
  issueQ i g q s chk (fun t => t.arrayQ.length < 16) fun s =>
    s.modHere fun t =>
      { t with arrayQ := t.arrayQ ++ [{ s.entry i q (d s) (a s) (b s) with lanes := lanes s }] }

/-! ### Checks (R266, R269, R476, R479) -/

/-- The cases of class 5 of a local operand of n bytes with an alignment, and of a plane operand of n bytes. -/
def sramCases (s : State) (x : W64) (n align : Nat) : List (Nat × Bool × W64) :=
  [(1, decide (0 < n) && !inAlloc s.kern.sram x.toNat n, x), (2, x.toNat % align != 0, x)]
def planeCases (s : State) (x : W64) (n : Nat) : List (Nat × Bool × W64) :=
  [(3, x.toNat % 32 != 0 || (decide (0 < n) && decide (s.kern.planes < x.toNat + n)), x)]

/-- The lowest code that applies among the cases of several operands (R473). -/
def lowestTrap (cls : Nat) (l : List (Nat × Bool × W64)) : Option Trap :=
  (List.range 16).findSome? fun c => caseTrap cls (l.filter (·.1 == c))

/-- The dimension d of .d64 and .d128. -/
def dimOf (d128 : Bool) : Nat := if d128 then 128 else 64

/-- The plane widths of the X format: NPL + 1 and FMT[4:1] + 1. -/
def widthOf (x : BitVec 4) : Nat := x.toNat + 1

/-- FIRST, COUNT and STRIDE of a row word (R269). -/
def rowFirst (x : W64) : Nat := fld x 0 6
def rowCount (x : W64) : Nat := fld x 6 7
def rowStride (x : W64) : Nat := 4 * fld x 16 16

/-- The operand fault of a row word (R269, R479). -/
def rowTrap (x : W64) : Option Trap :=
  caseTrap 7 [(3, rowCount x = 0 || 64 < rowCount x || 64 < rowFirst x + rowCount x || rowStride x < 256 ||
    fld x 13 3 != 0 || fld x 32 32 != 0, x)]

/-! ### The instructions -/

def execPld (g : Guard) (d a b : SReg) (ty : Ty) (uns : Bool) (npl : BitVec 4) (q : QTag) (s : State) : Res :=
  issueArray (.pld g d a b ty uns npl q) g q s
    (fun s => lowestTrap 5 (sramCases s (s.rS a) ((s.rS b).toNat * groupBytes ty (widthOf npl)) 32 ++
      planeCases s (s.rS d) ((s.rS b).toNat * (32 + 128 * widthOf npl))))
    (·.rS d) (·.rS a) (·.rS b) (fun _ => [])

/-- The plane cases of a PLDV: every block written lies in the allocation. -/
def pldvCases (s : State) (p : W64) (w q : Nat) : List (Nat × Bool × W64) :=
  [(3, p.toNat % 32 != 0 || (List.range (s.vlen / 32)).any fun k =>
    decide (s.kern.planes < blockPlanesAt p.toNat w (q + k) + 4 * w), p)]

def execPldv (g : Guard) (d : SReg) (a : VReg) (b : SReg) (ty : Ty) (uns : Bool) (npl : BitVec 4) (q : QTag)
    (s : State) : Res :=
  issueArray (.pldv g d a b ty uns npl q) g q s
    (fun s => lowestTrap 5 (pldvCases s (s.rS d) (widthOf npl) (s.rS b).toNat))
    (·.rS d) (fun _ => 0) (·.rS b) (fun s => s.rV a)

def execAz (g : Guard) (acc : BitVec 2) (q : QTag) (s : State) : Res :=
  issueArray (.az g acc q) g q s (fun _ => none) (fun _ => 0) (fun _ => 0) (fun _ => 0) (fun _ => [])

/-- MMA: A in the plane store, B there or in tile SRAM at a multiple of 32 (R268). -/
def execMma (g : Guard) (a b : SReg) (acc : BitVec 2) (wa npl : BitVec 4) (ua ub bs : Bool) (nb : BitVec 6) (q : QTag)
    (s : State) : Res :=
  issueArray (.mma g a b acc wa npl ua ub bs nb q) g q s
    (fun s => lowestTrap 5 (planeCases s (s.rS a) (opSize (nb.toNat + 1) (widthOf wa)) ++
      if bs then sramCases s (s.rS b) (opSize (nb.toNat + 1) (widthOf npl)) 32
      else planeCases s (s.rS b) (opSize (nb.toNat + 1) (widthOf npl))))
    (fun _ => 0) (·.rS a) (·.rS b) (fun _ => [])

/-- The checks of ARD and AWR; a row of 64 FP32 values is a row vector, so 4-byte-aligned (notes/assumptions/12.md). -/
def rowsTrap (s : State) (a b : SReg) : Option Trap :=
  firstTrap [rowTrap (s.rS a),
    lowestTrap 5 (sramCases s (s.rS b) ((rowCount (s.rS a) - 1) * rowStride (s.rS a) + 256) 4)]

def execArd (g : Guard) (a b : SReg) (acc : BitVec 2) (q : QTag) (s : State) : Res :=
  issueArray (.ard g a b acc q) g q s (fun s => rowsTrap s a b) (fun _ => 0) (·.rS a) (·.rS b) (fun _ => [])

def execAwr (g : Guard) (a b : SReg) (acc : BitVec 2) (q : QTag) (s : State) : Res :=
  issueArray (.awr g a b acc q) g q s (fun s => rowsTrap s a b) (fun _ => 0) (·.rS a) (·.rS b) (fun _ => [])

def execAscl (g : Guard) (a : SReg) (acc : BitVec 2) (q : QTag) (s : State) : Res :=
  issueArray (.ascl g a acc q) g q s (fun s => lowestTrap 5 (sramCases s (s.rS a) 256 4)) (fun _ => 0) (·.rS a)
    (fun _ => 0) (fun _ => [])

def execArowmax (g : Guard) (a b : SReg) (acc : BitVec 2) (q : QTag) (s : State) : Res :=
  issueArray (.arowmax g a b acc q) g q s
    (fun s => lowestTrap 5 (sramCases s (s.rS a) 256 4 ++ sramCases s (s.rS b) 256 4)) (fun _ => 0) (·.rS a) (·.rS b)
    (fun _ => [])

def execAexp (g : Guard) (a : SReg) (acc : BitVec 2) (q : QTag) (s : State) : Res :=
  issueArray (.aexp g a acc q) g q s (fun s => lowestTrap 5 (sramCases s (s.rS a) 256 4)) (fun _ => 0) (·.rS a)
    (fun _ => 0) (fun _ => [])

def execArowsum (g : Guard) (a b : SReg) (acc : BitVec 2) (q : QTag) (s : State) : Res :=
  issueArray (.arowsum g a b acc q) g q s
    (fun s => lowestTrap 5 (sramCases s (s.rS a) 256 4 ++ sramCases s (s.rS b) 256 4)) (fun _ => 0) (·.rS a) (·.rS b)
    (fun _ => [])

def execAcvt (g : Guard) (a : SReg) (acc : BitVec 2) (uns : Bool) (npl : BitVec 4) (q : QTag) (s : State) : Res :=
  issueArray (.acvt g a acc uns npl q) g q s
    (fun s => lowestTrap 5 (planeCases s (s.rS a) (opSize 2 (widthOf npl)))) (fun _ => 0) (·.rS a) (fun _ => 0)
    (fun _ => [])

/-- AMASK: a mask image at S1 unless it is s0, and NVALID (R269). -/
def execAmask (g : Guard) (a b : SReg) (acc : BitVec 2) (q : QTag) (s : State) : Res :=
  issueArray (.amask g a b acc q) g q s
    (fun s => if a = 0 then none else lowestTrap 5 (sramCases s (s.rS a) 512 1)) (fun _ => 0) (·.rS a) (·.rS b)
    (fun _ => [])

/-- ATTV (R273): wB above 9 at d = 128 is an operand fault. -/
def execAttv (g : Guard) (d a b : SReg) (acc : BitVec 2) (wa npl : BitVec 4) (ub mk d128 : Bool) (q : QTag)
    (s : State) : Res :=
  let dd := dimOf d128
  issueArray (.attv g d a b acc wa npl ub mk d128 q) g q s
    (fun s => firstTrap [
      caseTrap 7 [(9, d128 && 9 < widthOf npl, BitVec.ofNat 64 (widthOf npl))],
      lowestTrap 5 (sramCases s (s.rS d) (if mk then 1024 else 512) 4 ++
        planeCases s (s.rS a) (opSize (dd / 32) (widthOf wa) + opSize 2 (widthOf wa)) ++
        planeCases s (s.rS b) (0x40 + opSize (dd / 32) (widthOf npl) + dd / 64 * opSize 2 (widthOf npl)))])
    (·.rS d) (·.rS a) (·.rS b) (fun _ => [])

def execAcmb (g : Guard) (d a b : SReg) (acc : BitVec 2) (d128 : Bool) (q : QTag) (s : State) : Res :=
  issueArray (.acmb g d a b acc d128 q) g q s
    (fun s => lowestTrap 5 (sramCases s (s.rS d) 512 4 ++ sramCases s (s.rS a) 512 4 ++
      sramCases s (s.rS b) (256 * dimOf d128) 4)) (·.rS d) (·.rS a) (·.rS b) (fun _ => [])

def execAnrm (g : Guard) (a : SReg) (acc : BitVec 2) (d128 : Bool) (q : QTag) (s : State) : Res :=
  issueArray (.anrm g a acc d128 q) g q s (fun s => lowestTrap 5 (sramCases s (s.rS a) 256 4)) (fun _ => 0) (·.rS a)
    (fun _ => 0) (fun _ => [])

/-! ### What the array reads and writes (R263, R470) -/

/-- An FP32 code with its poison. -/
abbrev FB := Nat × Bool

/-- Where the operands of an entry lie. -/
structure Arr where
  site : Nat
  sb : Nat
  pb : Nat
  accs : List Nat
  deriving DecidableEq, Repr

def State.arr (s : State) (tr : Trace) : Arr :=
  let k := (s.tile tr.site).kernelOf tr.kern
  { site := tr.site, sb := k.sbase, pb := k.pbase, accs := k.accs }

/-- The poison list after bytes are written with their poison: granules covered wholly lose it, granules that a poisoned
byte touches gain it (R471). -/
def poisonAfter (g : Nat) (p : List Nat) (a : Nat) (l : List PByte) : List Nat :=
  let marks := l.mapIdx fun i x => (a + i, x.2)
  marks.foldl (fun p x => if x.2 then addPoison g p x.1 1 else p) (clearPoison g p a l.length)

/-- Bytes with their poison written at a physical SRAM offset, as a party outside the local pipelines (R263). -/
def State.putBytes (s : State) (site a : Nat) (l : List PByte) : State :=
  (s.remoteWrite site a (l.map (·.1))).modTile site fun t => { t with sramPoison := poisonAfter 3 t.sramPoison a l }

/-- The words that one instruction has written to SRAM, with their poison: a granule of which it wrote both words, neither of
them poisoned, has lost its own (R471). -/
def State.settle (s : State) (site : Nat) (words : List (Nat × Bool)) : State :=
  let clean (a : Nat) : Bool := words.any (·.1 == a) && !words.any fun w => w.1 == a && w.2
  s.modTile site fun t => { t with sramPoison := t.sramPoison.filter fun g => !(clean (8 * g) && clean (8 * g + 4)) }

/-- The words of a run of FP32 results at a physical offset. -/
def wordsAt (a : Nat) (l : List FB) : List (Nat × Bool) := l.mapIdx fun i x => (a + 4 * i, x.2)

/-- Bytes of SRAM with their poison. -/
def Tile.getBytes (t : Tile) (a n : Nat) : List PByte :=
  (t.sramRead a n).mapIdx fun i b => (b, anyPoison 3 t.sramPoison (a + i) 1)

/-- An FP32 value at a local offset. -/
def State.rdF (s : State) (c : Arr) (off : Nat) : FB :=
  (loadNat (s.tile c.site).sram (c.sb + off) 4, anyPoison 3 (s.tile c.site).sramPoison (c.sb + off) 4)

def State.wrF (s : State) (c : Arr) (off : Nat) (x : FB) : State :=
  s.putBytes c.site (c.sb + off) ((leBytes 4 x.1).map (·, x.2))

/-- Element (r, col) of an accumulator of the kernel (R170). -/
def State.accAt (s : State) (c : Arr) (a r col : Nat) : FB :=
  let key := 4096 * nth c.accs a 0 + 64 * r + col
  ((getD 0 (s.tile c.site).acc key).toNat, inSet key (s.tile c.site).accPoison)

/-- The keys of one accumulator whose elements meet a condition, ascending. -/
def accKeys (phys : Nat) (p : Nat → Nat → Bool) : List Nat :=
  ((List.range 4096).filter fun k => p (k / 64) (k % 64)).map (4096 * phys + ·)

/-- An accumulator with every element replaced. -/
def State.setAcc (s : State) (c : Arr) (a : Nat) (f : Nat → Nat → FB) : State :=
  let phys := nth c.accs a 0
  let lo := 4096 * phys
  let hi := lo + 4096
  s.modTile c.site fun t =>
    { t with
      acc := t.acc.filter (fun x => x.1 < lo) ++
        (accKeys phys fun r col => (f r col).1 != 0).map (fun k => (k, BitVec.ofNat 32 (f (k % 4096 / 64) (k % 64)).1)) ++
        t.acc.filter (fun x => hi ≤ x.1),
      accPoison := t.accPoison.filter (· < lo) ++ accKeys phys (fun r col => (f r col).2) ++
        t.accPoison.filter (hi ≤ ·) }

/-- Bytes with their poison written to the plane store. -/
def Tile.putPlane (t : Tile) (a : Nat) (l : List PByte) : Tile :=
  { t with plane := setBytes t.plane a (l.map (·.1)), planePoison := poisonAfter 3 t.planePoison a l }

/-- Plane blocks of one group written from block q of the operand at a plane offset on (R266). -/
def State.putGroup (s : State) (c : Arr) (p w q : Nat) (l : List PBlock) : State :=
  s.modTile c.site fun t =>
    (t.putPlane (c.pb + blockExpAt p w q) (l.map fun b => (BitVec.ofNat 8 b.e, b.bad))).putPlane (c.pb + blockPlanesAt p w q)
      (l.flatMap fun b => ((planeWords w b).flatMap (leBytes 4)).map (·, b.bad))

/-- Plane blocks written from block q on: what remains of the group of q, then group by group. -/
def State.putBlocks (s : State) (c : Arr) (p w q : Nat) (l : List PBlock) : State :=
  let n := 32 - q % 32
  ((chunks 32 l.length (l.drop n)).mapIdx fun i b => (q + n + 32 * i, b)).foldl (fun s x => s.putGroup c p w x.1 x.2)
    (s.putGroup c p w q (l.take n))

/-- Block q of an operand in the plane store, or in SRAM. -/
def State.planeBlock (s : State) (c : Arr) (p w : Nat) (uns : Bool) (q : Nat) : PBlock :=
  readBlock (s.tile c.site).plane (s.tile c.site).planePoison (c.pb + p) w uns q
def State.sramBlock (s : State) (c : Arr) (p w : Nat) (uns : Bool) (q : Nat) : PBlock :=
  readBlock (s.tile c.site).sram (s.tile c.site).sramPoison (c.sb + p) w uns q

/-- The lines of an operand of nb blocks. -/
def linesOf (nb : Nat) (block : Nat → PBlock) : List (List PBlock) :=
  (List.range 64).map fun l => (List.range nb).map fun j => block (l * nb + j)

/-- The block products of one row and one column added into an element (R99, R470). -/
def accFold (phiA phiB : Int) : FB → List PBlock → List PBlock → FB
  | x, a :: as, b :: bs => accFold phiA phiB (accStep phiA phiB x.1 a b, x.2 || a.bad || b.bad) as bs
  | x, _, _ => x

/-- Whether the residue check covers an element of a product, by its key: some pair of its blocks has no E = 0xFF (R515). -/
def Arr.checked (c : Arr) (acc : Nat) (a b : List (List PBlock)) (key : Nat) : Bool :=
  key / 4096 == nth c.accs acc 0 &&
    ((nth a (key % 4096 / 64) []).zip (nth b (key % 64) [])).any fun (x, y) => x.e != 0xFF && y.e != 0xFF

/-- The matrix product of two operands added into an accumulator (R268). An element of bad, by its key, has received a sum that
failed the residue check (R515). -/
def State.mmaInto (s : State) (c : Arr) (acc : Nat) (phiA phiB : Int) (a b : List (List PBlock)) (bad : List Nat) : State :=
  let hit := bad.filter (c.checked acc a b)
  s.setAcc c acc fun r col =>
    let x := accFold phiA phiB (s.accAt c acc r col) (nth a r []) (nth b col [])
    (x.1, x.2 || hit.contains (4096 * nth c.accs acc 0 + 64 * r + col))

/-! ### Row operations (R269 to R272) -/

def negInf : Nat := 0xFF800000
def fpOne : Nat := 0x3F800000

/-- A function of FP32 codes with the poison of its inputs. -/
def fb2 (f : Nat → Nat → Nat) (x y : FB) : FB := (f x.1 y.1, x.2 || y.2)

/-- EXP2(RNE(x − y)). -/
def expDiff (x y : FB) : FB := fb2 (fun a b => fexp2 (fsub .f32 a b)) x y

/-- A row of an accumulator. -/
def State.accRow (s : State) (c : Arr) (acc r : Nat) : List FB := (List.range 64).map (s.accAt c acc r)

/-- Every element times f of its row. -/
def State.scaleAcc (s : State) (c : Arr) (acc : Nat) (f : Nat → FB) : State :=
  s.setAcc c acc fun r col => fb2 (fmul .f32) (s.accAt c acc r col) (f r)

/-- AMASK with an image at a local offset, where there is one, and NVALID. -/
def State.maskAcc (s : State) (c : Arr) (acc : Nat) (img : Option Nat) (nv : FB) : State :=
  s.setAcc c acc fun r col =>
    if Nat.min nv.1 64 ≤ col then (negInf, nv.2)
    else
      match img with
      | none => ((s.accAt c acc r col).1, (s.accAt c acc r col).2 || nv.2)
      | some off =>
        let a := c.sb + off + 8 * r + col / 8
        let bad := anyPoison 3 (s.tile c.site).sramPoison a 1 || nv.2
        if bitOf (byteAt (s.tile c.site).sram a).toNat (col % 8) then
          ((s.accAt c acc r col).1, (s.accAt c acc r col).2 || bad)
        else (negInf, bad)

/-- One row of AROWMAX: α, and the new maximum for m. -/
def State.rowMax (s : State) (c : Arr) (acc m r : Nat) : FB × FB :=
  let old := s.rdF c (m + 4 * r)
  let mx := match s.accRow c acc r with
    | [] => (negInf, false)
    | x :: t => t.foldl (fb2 (fmaxC .f32)) x
  let mn := fb2 (fmaxC .f32) old mx
  (if mn.1 = negInf then (fpOne, mn.2) else expDiff old mn, mn)

/-- FP32 results written to successive words from a local offset. -/
def State.wrAll (s : State) (c : Arr) (off : Nat) (l : List FB) : State :=
  (l.mapIdx fun i x => (i, x)).foldl (fun s x => s.wrF c (off + 4 * x.1) x.2) s

/-- AROWMAX over all rows, with the α of each: every source is read before anything is written (R8). -/
def State.rowMaxAll (s : State) (c : Arr) (acc m : Nat) (alpha : Option Nat) : List FB × State :=
  let l := (List.range 64).map (s.rowMax c acc m)
  let al := l.map (·.1)
  let s := match alpha with
    | some p => s.wrAll c p al
    | none => s
  (al, (s.wrAll c m (l.map (·.2))).settle c.site
    ((match alpha with | some p => wordsAt (c.sb + p) al | none => []) ++ wordsAt (c.sb + m) (l.map (·.2))))

/-- AEXP. -/
def State.expAcc (s : State) (c : Arr) (acc m : Nat) : State :=
  s.setAcc c acc fun r col =>
    let mr := s.rdF c (m + 4 * r)
    if mr.1 = negInf then (0, mr.2 || (s.accAt c acc r col).2) else expDiff (s.accAt c acc r col) mr

/-- SUMSEQ of a row. -/
def rowSumSeq (l : List FB) : FB := (sumSeq (l.map (·.1)), l.any (·.2))

/-- One row of AROWSUM. -/
def State.rowSum (s : State) (c : Arr) (acc l : Nat) (alpha : Nat → FB) (r : Nat) : FB :=
  fb2 (fadd .f32) (fb2 (fmul .f32) (s.rdF c (l + 4 * r)) (alpha r)) (rowSumSeq (s.accRow c acc r))

/-- AROWSUM over all rows: every source is read before anything is written (R8). -/
def State.rowSumAll (s : State) (c : Arr) (acc l : Nat) (alpha : Nat → FB) : State :=
  let x := (List.range 64).map (s.rowSum c acc l alpha)
  (s.wrAll c l x).settle c.site (wordsAt (c.sb + l) x)

/-- ACVT (R271). -/
def State.cvtAcc (s : State) (c : Arr) (acc p w : Nat) (uns : Bool) : State :=
  s.putBlocks c p w 0 ((List.range 128).map fun q =>
    let x := ((s.accRow c acc (q / 2)).drop (32 * (q % 2))).take 32
    toPlane w uns (x.map (·.1)) (x.any (·.2)))

/-- ANRM of one accumulator. -/
def State.normAcc (s : State) (c : Arr) (acc l : Nat) : State :=
  s.setAcc c acc fun r col =>
    let lr := s.rdF c (l + 4 * r)
    let x := s.accAt c acc r col
    (if lr.1 % 2 ^ 31 = 0 then 0 else fdiv .f32 x.1 lr.1, x.2 || lr.2)

/-- The two factors of one row of ACMB (R272). -/
def combFactors (m1 m2 : FB) : FB × FB × FB :=
  let mx := fb2 (fmaxC .f32) m1 m2
  if mx.1 = negInf then (mx, (fpOne, mx.2), (fpOne, mx.2)) else (mx, expDiff m1 mx, expDiff m2 mx)

/-- ACMB: st1 and st2 are the offsets of the two states, o2 that of the second output. -/
def State.combine (s : State) (c : Arr) (acc st1 st2 o2 dd : Nat) : State :=
  let fac : Nat → FB × FB × FB := fun r => combFactors (s.rdF c (st1 + 4 * r)) (s.rdF c (st2 + 4 * r))
  let comb : Nat → FB → FB → FB := fun r x y =>
    fb2 (fadd .f32) (fb2 (fmul .f32) x (fac r).2.1) (fb2 (fmul .f32) y (fac r).2.2)
  let s1 := (List.range (dd / 64)).foldl (fun s' k => s'.setAcc c (acc + k) fun r col =>
    comb r (s.accAt c (acc + k) r col) (s.rdF c (o2 + 4 * (dd * r + 64 * k + col)))) s
  let sum : Nat → FB := fun r => comb r (s.rdF c (st1 + 256 + 4 * r)) (s.rdF c (st2 + 256 + 4 * r))
  ((List.range 64).foldl (fun s' r => (s'.wrF c (st1 + 256 + 4 * r) (sum r)).wrF c (st1 + 4 * r) (fac r).1) s1).settle c.site
    (wordsAt (c.sb + st1) ((List.range 64).map (fun r => (fac r).1) ++ (List.range 64).map sum))

/-- ATTV as the sequence of R274, with the elements whose sums failed the residue check. -/
def State.visit (s : State) (c : Arr) (acc st q f wa wb dd : Nat) (ub mk : Bool) (bad : List Nat) : State :=
  let nb := dd / 32
  let p := q + opSize nb wa
  let v := f + 0x40 + opSize nb wb
  let nv : FB := (loadNat (s.tile c.site).plane (c.pb + f + 8) 1 % 128, anyPoison 3 (s.tile c.site).planePoison (c.pb + f + 8) 1)
  let s := s.setAcc c acc fun _ _ => (0, false)
  let s := s.mmaInto c acc (phiOf wa false) (phiOf wb ub) (linesOf nb (s.planeBlock c q wa false))
    (linesOf nb (s.planeBlock c (f + 0x40) wb ub)) bad
  let s := s.maskAcc c acc (if mk then some (st + 512) else none) nv
  let (al, s) := s.rowMaxAll c acc st none
  let s := s.expAcc c acc st
  let s := s.rowSumAll c acc (st + 256) fun r => nth al r (0, false)
  let s := (List.range (dd / 64)).foldl (fun s k => s.scaleAcc c (acc + 1 + k) fun r => nth al r (0, false)) s
  let s := s.cvtAcc c acc p wa true
  (List.range (dd / 64)).foldl (fun s k =>
    s.mmaInto c (acc + 1 + k) (phiOf wa true) (phiOf wb ub) (linesOf 2 (s.planeBlock c p wa true))
      (linesOf 2 (s.planeBlock c (v + k * opSize 2 wb) wb ub)) bad) s

/-! ### PLD and PLDV (R267) -/

/-- The blocks of a run of elements. -/
def blocksOf (w : Nat) (uns : Bool) (x : List (FVal × Bool)) : List PBlock :=
  (chunks 32 x.length x).map fun c => toPlane w uns (c.map fun v => rne .f32 v.1) (c.any (·.2))

/-- PLD of g groups; a source in plane form is copied block by block. -/
def State.loadPlanes (s : State) (c : Arr) (p src g w : Nat) (ty : Ty) (uns : Bool) : State :=
  if ty = .pl then s.putBlocks c p w 0 ((List.range (32 * g)).map (s.sramBlock c src w uns))
  else s.putBlocks c p w 0
    (blocksOf w uns (elemsOf ty w uns ((s.tile c.site).getBytes (c.sb + src) (g * groupBytes ty w))))

/-- PLDV of the lanes of a register. -/
def State.loadLanes (s : State) (c : Arr) (p q w : Nat) (ty : Ty) (uns : Bool) (lanes : List W32) : State :=
  s.putBlocks c p w q (blocksOf w uns (lanes.map fun x => (laneVal ty x.toNat, false)))

/-! ### Completion of the head entry (R275, R515) -/

/-- The busy cycles of an entry (R275). -/
def passes (w : Nat) : Nat := if w ≤ 8 then 1 else 2

def busyOf (e : QEntry) : Nat :=
  match e.i with
  | .pld _ _ _ _ ty _ npl _ => e.b.toNat * ((groupBytes ty (widthOf npl) + 63) / 64)
  | .pldv .. => 4 * (e.lanes.length / 32)
  | .az .. => 32
  | .ard .. => 4 * rowCount e.a
  | .awr .. => 4 * rowCount e.a
  | .mma _ _ _ _ wa npl _ _ _ nb _ => (nb.toNat + 1) * 4 * widthOf npl * passes (widthOf wa)
  | .acmb _ _ _ _ _ d128 _ => 64 * (1 + dimOf d128 / 64)
  | .attv _ _ _ _ _ wa npl _ _ d128 _ =>
    dimOf d128 / 32 * 4 * widthOf npl * passes (widthOf wa) + 96 +
      dimOf d128 / 64 * 8 * widthOf npl * passes (widthOf wa)
  | _ => 64

/-- The elements of residue whose sums the check of an entry covers: of the products of s, and for the second products of an ATTV
of what it has left in t. -/
def State.mismatches (s t : State) (e : QEntry) (residue : List Nat) : List Nat :=
  let c := s.arr e.tr
  let a := e.a.toNat
  let b := e.b.toNat
  match e.i with
  | .mma _ _ _ acc wa npl ua ub bs nb _ =>
    residue.filter (c.checked acc.toNat (linesOf (nb.toNat + 1) (s.planeBlock c a (widthOf wa) ua))
      (linesOf (nb.toNat + 1) (if bs then s.sramBlock c b (widthOf npl) ub else s.planeBlock c b (widthOf npl) ub)))
  | .attv _ _ _ _ acc wa npl ub _ d128 _ =>
    let nb := dimOf d128 / 32
    let p := a + opSize nb (widthOf wa)
    let v := b + 0x40 + opSize nb (widthOf npl)
    residue.filter fun k =>
      c.checked acc.toNat (linesOf nb (s.planeBlock c a (widthOf wa) false)) (linesOf nb (s.planeBlock c (b + 0x40) (widthOf npl) ub)) k ||
        (List.range (dimOf d128 / 64)).any fun j =>
          c.checked (acc.toNat + 1 + j) (linesOf 2 (t.planeBlock c p (widthOf wa) true))
            (linesOf 2 (t.planeBlock c (v + j * opSize 2 (widthOf npl)) (widthOf npl) ub)) k
  | _ => []

/-- What an entry writes; bad names the elements whose sums failed the residue check. -/
def State.arrayEffect (s : State) (e : QEntry) (bad : List Nat) : State :=
  let c := s.arr e.tr
  let d := e.d.toNat
  let a := e.a.toNat
  let b := e.b.toNat
  match e.i with
  | .pld _ _ _ _ ty uns npl _ => s.loadPlanes c d a b (widthOf npl) ty uns
  | .pldv _ _ _ _ ty uns npl _ => s.loadLanes c d b (widthOf npl) ty uns e.lanes
  | .az _ acc _ => s.setAcc c acc.toNat fun _ _ => (0, false)
  | .mma _ _ _ acc wa npl ua ub bs nb _ =>
    s.mmaInto c acc.toNat (phiOf (widthOf wa) ua) (phiOf (widthOf npl) ub)
      (linesOf (nb.toNat + 1) (s.planeBlock c a (widthOf wa) ua))
      (linesOf (nb.toNat + 1) (if bs then s.sramBlock c b (widthOf npl) ub else s.planeBlock c b (widthOf npl) ub)) bad
  | .ard _ _ _ acc _ =>
    let rows := (List.range (rowCount e.a)).map fun k =>
      (c.sb + b + k * rowStride e.a, s.accRow c acc.toNat (rowFirst e.a + k))
    (rows.foldl (fun s (a, l) => s.putBytes c.site a (l.flatMap fun x => (leBytes 4 x.1).map (·, x.2))) s).settle c.site
      (rows.flatMap fun (a, l) => wordsAt a l)
  | .awr _ _ _ acc _ =>
    s.setAcc c acc.toNat fun r col =>
      if rowFirst e.a ≤ r && r < rowFirst e.a + rowCount e.a then
        s.rdF c (b + (r - rowFirst e.a) * rowStride e.a + 4 * col)
      else s.accAt c acc.toNat r col
  | .ascl _ _ acc _ => s.scaleAcc c acc.toNat fun r => s.rdF c (a + 4 * r)
  | .arowmax _ _ _ acc _ => (s.rowMaxAll c acc.toNat a (some b)).2
  | .aexp _ _ acc _ => s.expAcc c acc.toNat a
  | .arowsum _ _ _ acc _ => s.rowSumAll c acc.toNat a fun r => s.rdF c (b + 4 * r)
  | .acvt _ _ acc uns npl _ => s.cvtAcc c acc.toNat a (widthOf npl) uns
  | .amask _ ra _ acc _ => s.maskAcc c acc.toNat (if ra = 0 then none else some a) (b, false)
  | .attv _ _ _ _ acc wa npl ub m d128 _ => s.visit c acc.toNat d a b (widthOf wa) (widthOf npl) (dimOf d128) ub m bad
  | .acmb _ _ _ _ acc d128 _ => s.combine c acc.toNat d a b (dimOf d128)
  | .anrm _ _ acc d128 _ =>
    (List.range (dimOf d128 / 64)).foldl (fun s k => s.normAcc c (acc.toNat + k) a) s
  | _ => s

end Sys2Proof.Machine
end

