-- ==== Sys2Proof/Machine/Baskets.lean ====
section
/-!
DEFINITION. The shared operations over regions, the handler table and baskets (R51 to R57, R276, R277, R312 to R314),
and what the pending effects of instructions do in their landing cycle (R38).
-/

namespace Sys2Proof.Machine

/-! ### Regions -/

/-- The region of a kernel instance. -/
def Kernel.region (k : Kernel) : RegionId := ⟨k.l, k.node, k.wid⟩

/-- Whether a kernel belongs to a region. -/
def Kernel.inRegion (k : Kernel) (r : RegionId) : Bool := k.l == r.l && k.node == r.node && k.wid == r.wid

/-- The tiles of a region with the kernel on each. -/
def State.regionOn (s : State) (r : RegionId) : List (Nat × Kernel) :=
  s.tiles.flatMap fun (n, t) => (t.kernels.filter (·.inRegion r)).map fun k => (n, k)

/-- Column and row of a site in the package: dies lie two by two (R10 to R12). -/
def siteX (n : Nat) : Nat := 16 * (n / 256 % 2) + n % 16
def siteY (n : Nat) : Nat := 16 * (n / 512) + n / 16 % 16

/-- The width plus the height of the bounding box of some sites. -/
def boxSpan (l : List Nat) : Nat :=
  let xs := l.map siteX
  let ys := l.map siteY
  (xs.foldl Nat.max 0 - xs.foldl Nat.min 31 + 1) + (ys.foldl Nat.max 0 - ys.foldl Nat.min 31 + 1)

/-! ### The handler table (R51 to R53) -/

def hentValid (w : W64) : Bool := fld w 63 1 == 1
def hentPrio (w : W64) : Nat := fld w 60 3
def hentMask (w : W64) : Bool := fld w 59 1 == 1
def hentLatch (w : W64) : Nat := fld w 57 2
def hentBasket (w : W64) : Nat := fld w 53 4
def hentChan (w : W64) : Nat := fld w 45 8
def hentOwner (w : W64) : Nat := fld w 42 3
def hentPc (w : W64) : Nat := fld w 0 18

def Tile.hentOf (t : Tile) (n : Nat) : W64 := getD 0 t.hent n
def Tile.hsteOf (t : Tile) (n : Nat) : HState := getD HState.reset t.hste n
def Tile.setHste (t : Tile) (n : Nat) (h : HState) : Tile := { t with hste := putD HState.reset n h t.hste }

/-- The valid entry that binds a channel. -/
def Tile.entryFor (t : Tile) (chan : Nat) : Option Nat :=
  (List.range 32).find? fun n => hentValid (t.hentOf n) && hentChan (t.hentOf n) == chan

/-- The entry after HSET: every field of the value but OWNER and the reserved bits (R285). -/
def hentAfter (old v : W64) : W64 :=
  word64 [(63, fld v 63 1), (60, fld v 60 3), (59, fld v 59 1), (57, fld v 57 2), (53, fld v 53 4), (45, fld v 45 8),
          (42, fld old 42 3), (0, fld v 0 18)]

/-- The entry with its MASK bit set to b. -/
def hentMasked (w : W64) (b : Bool) : W64 :=
  BitVec.ofNat 64 (w.toNat - (if hentMask w then 2 ^ 59 else 0) + if b then 2 ^ 59 else 0)

/-! ### Baskets (R312, R313) -/

def Tile.basket (t : Tile) (n : Nat) : Basket := getD Basket.reset t.baskets n
def Tile.setBasket (t : Tile) (n : Nat) (b : Basket) : Tile := { t with baskets := putD Basket.reset n b t.baskets }
def Basket.stateOf (b : Basket) (i : Nat) : BState := getD .free b.st i
def Basket.setSt (b : Basket) (i : Nat) (x : BState) : Basket := { b with st := putD .free i x b.st }

/-- Local offset and size of slot i (R313). -/
def Basket.off (b : Basket) (i : Nat) : Nat := 64 * b.base + 64 * b.sz * i
def Basket.bytes (b : Basket) : Nat := 64 * b.sz

/-- The physical offset of slot i of basket n. -/
def Tile.basketAt (t : Tile) (n i : Nat) : Nat := (t.kernelOf (t.basket n).owner).sbase + (t.basket n).off i

/-- The slot that a claim takes: the first free one in ring order from NEXT, passing over the reserved slot (R313); the
reserved slot where no other is free and the claim may have it (R346). -/
def Basket.pick (b : Basket) (reserved : Bool) : Option Nat :=
  if !b.valid then none
  else
    let n := b.nm1 + 1
    let ring := (List.range n).map fun j => (b.next + j) % n
    match ring.find? fun i => b.stateOf i == .free && !(b.rsv && i == b.nm1) with
    | some i => some i
    | none => if reserved && b.rsv && b.stateOf b.nm1 == .free then some b.nm1 else none

/-- The basket after the claim of slot i; NEXT moves to the index after an ordinary slot. -/
def Basket.claim (b : Basket) (i : Nat) (x : BState) : Basket :=
  let b := b.setSt i x
  if b.rsv && i == b.nm1 then b else { b with next := (i + 1) % (b.nm1 + 1) }

/-- A basket slot becomes free. -/
def Tile.freeSlot (t : Tile) (n i : Nat) : Tile := t.setBasket n ((t.basket n).setSt i .free)

/-! ### Arrivals (R54, R276, R277) -/

/-- Word 0 of an arrival (R276). -/
def arrivalWord (kind chan basket slot len : Nat) : W64 :=
  word64 [(60, kind), (52, chan), (48, basket), (32, slot), (0, len)]

/-- An arrival with its words 1 to 7, whose PEND rises in the cycle due. -/
def Tile.arrive (t : Tile) (kind chan basket : Nat) (slot : Option Nat) (len : Nat) (words : List W64) (due : Nat) : Tile :=
  { t with arrivals := t.arrivals ++
      [{ chan := chan, kind := kind, basket := basket, slot := slot, len := len, words := words, due := due,
         entry := none }] }

/-- BASKET and SLOT written into word 0 of the header in a basket slot (R277). -/
def State.stampSlot (s : State) (site n i : Nat) : State :=
  let t := s.tile site
  let a := t.basketAt n i
  let w := BitVec.ofNat 64 (loadNat t.sram a 8)
  s.remoteWrite site (a + 4) ((leBytes 8 (word64 [(52, fld w 52 12), (48, n), (32, i), (0, fld w 0 32)]).toNat).drop 4 |>.take 3)

/-! ### Landing (R38) -/

/-- A register file after an effect lands. -/
def Slot.landReg (x : Slot) (e : PEffect) : Slot :=
  match e with
  | .s r v => { x with s := putD 0 r v x.s }
  | .p r v => { x with p := putD false r v x.p }
  | .m r en v => { x with m := putD 0 r (maskOf 128 fun i => if bitOf en i then bitOf v i else bitOf (getD 0 x.m r) i) x.m }
  | .v r lanes => { x with v := lanes.reverse.foldl (fun l (i, w) => if i < 128 then putD 0 (128 * r + i) w l else l) x.v }
  | .sys n v => if n = 0x20 then { x with hcfg := v } else if n = 0x30 then { x with tvec := v }
    else if n = 0x34 then { x with tscr := v } else x
  | _ => x

/-- The tile after an effect of a slot of kernel k lands. -/
def Tile.landTile (t : Tile) (cyc : Nat) (k : Kernel) (e : PEffect) : Tile :=
  match e with
  | .tclr m => { t with tags := t.tags &&& ~~~m }
  | .hset n v => { t with hent := putD 0 n (hentAfter (t.hentOf n) v) t.hent }
  | .hmsk sel new =>
    { t with hent := (List.range 32).foldl (fun l n =>
        if bitOf sel.toNat n then putD 0 n (hentMasked (getD 0 l n) (bitOf new.toNat n)) l else l) t.hent }
  | .bkinit n base w =>
    t.setBasket n { valid := true, rsv := fld w 31 1 == 1, nm1 := fld w 16 8, sz := fld w 0 10, next := 0, owner := k.owner,
                    base := base, st := [] }
  | .bkpost n i w =>
    let kind := fld w 60 4
    let a := t.basketAt n i
    let words := if kind = 1 then (List.range 7).map fun j => BitVec.ofNat 64 (loadNat t.sram (a + 8 * (j + 1)) 8)
      else List.replicate 7 0
    (t.arrive kind (fld w 0 8) n (some i) (fld w 16 32) words (cyc + 2)).setBasket n ((t.basket n).setSt i .ready)
  | .bkrel n i => t.freeSlot n i
  | .marks lo hi mark =>
    t.modKernel k.owner fun q =>
      { q with marks := (List.range (hi - lo)).foldl (fun l j => putD 0 (lo + j) mark l) q.marks }
  | _ => t

/-- Pending effects in the order of landing, and of issue within one cycle. -/
def insertPend (p : Pend) : List Pend → List Pend
  | [] => [p]
  | q :: t => if p.land < q.land || (p.land == q.land && decide (p.iss < q.iss)) then p :: q :: t else q :: insertPend p t

/-- The effects on the handler table and the baskets that have issued on a tile and have not landed, with the owner of their
kernel, in their order. -/
def Tile.tableEffects (t : Tile) : List (Nat × PEffect) :=
  let all := t.slots.flatMap fun (_, x) => x.pend.filterMap fun p => match p.eff with
    | .hset .. | .hmsk .. | .bkinit .. => some (x.kern, p)
    | _ => none
  let order := (all.map (·.2)).foldl (fun l p => insertPend p l) []
  order.filterMap fun p => (all.find? (·.2 == p)).map fun q => (q.1, p.eff)

/-- The tile with its handler table and baskets as they stand once those effects have landed: what HSET and BKINIT are checked
against, so that R51 holds of the table at all times (notes/assumptions/83.md). -/
def Tile.coming (t : Tile) : Tile :=
  t.tableEffects.foldl (fun t (k, e) => t.landTile 0 (t.kernelOf k) e) t

/-- A TOKID leaves the census of a launch (R347). -/
def State.retireToken (s : State) (l tokid : Nat) : State :=
  { s with sched := { s.sched with census := s.sched.census.filter fun c => !(c.1.l == l && c.2 == tokid) } }

/-- BKREL of a held slot with the image of a registered token at depth 0 at its home, as it is or as it was saved, retires it
(R347, R523). -/
def State.releaseSlot (s : State) (site k i l : Nat) : State :=
  let t := s.tile site
  let w (j : Nat) : W64 := BitVec.ofNat 64 (loadNat t.sram (t.basketAt k i + 8 * j) 8)
  if (t.basket k).stateOf i == .held && fld (w 0) 60 4 == 1 && fld (w 2) 63 1 == 1 && fld (w 1) 12 4 == 0 &&
      (fld (w 2) 32 22 == s.coord site || t.reloc.contains (fld (w 2) 32 22, s.coord site)) then
    s.retireToken l (fld (w 1) 16 48)
  else s

/-- The effects of a slot that land by now are applied in the order of their landing cycles, and of their issues within
one, and are no longer pending. -/
def State.landSlot (s : State) (site slot : Nat) : State :=
  let x := s.slot site slot
  let due := (x.pend.filter fun p => p.land ≤ s.cyc).foldl (fun l p => insertPend p l) []
  let s := s.modSlot site slot fun x => { x with pend := x.pend.filter fun p => !decide (p.land ≤ s.cyc) }
  due.foldl (fun s p =>
    let k := (s.tile site).kernelOf x.kern
    let s := match p.eff with
      | .bkrel n i => s.releaseSlot site n i k.l
      | _ => s
    let s := s.modTile site fun t => (t.landTile s.cyc k p.eff).modSlot slot (·.landReg p.eff)
    match p.eff with
    | .bkpost n i w => if fld w 60 4 = 1 then s.stampSlot site n i else s
    | _ => s) s

end Sys2Proof.Machine
end

