-- ==== Sys2Proof/Machine/HamperOps.lean ====
section
/-!
DEFINITION. The shared operations over hampers: closing with a reason, the elements a slot or kernel has in them, their
registers (R144 to R168).
-/

namespace Sys2Proof

/-- Positions that an element takes (R146). -/
def Elem.positions (e : Elem) : Nat := if e.op == .cas then 2 else 1

/-- Whether an element holds a contribution of a slot, or of a kernel. -/
def Elem.ofSlot (e : Elem) (slot : Nat) : Bool := e.slot == slot || e.merged.any (·.slot == slot)
def Elem.ofKern (e : Elem) (kern : Nat) : Bool := e.tr.kern == kern || e.merged.any (·.kern == kern)

/-- Contributions of a slot to an element that HPEND counts: one for an element of its own with what it merged into it,
and one for each that it merged into another slot's element (R166). -/
def Elem.pendOf (e : Elem) (slot : Nat) : Nat :=
  if e.slot == slot then 1 else (e.merged.filter (·.slot == slot)).length

/-- A hamper destination in the layout of R168. -/
def HDest.word : HDest → W64
  | .tile coord bank asp => Machine.word64 [(60, 8), (38, coord), (36, bank), (0, asp)]
  | .virt vpage asp => Machine.word64 [(16, vpage), (0, asp)]

end Sys2Proof

namespace Sys2Proof.Machine

/-- The reason codes of R154. -/
def rsSize : Nat := 1
def rsAge : Nat := 2
def rsFlush : Nat := 3
def rsFence : Nat := 4
def rsEvict : Nat := 5
def rsKend : Nat := 6
def rsPreempt : Nat := 7

/-- The element count of a hamper (R146). -/
def Hamper.count (h : Hamper) : Nat := h.elems.foldl (fun n e => n + e.positions) 0

def Hamper.ofSlot (h : Hamper) (slot : Nat) : Bool := h.elems.any (·.ofSlot slot)
def Hamper.ofKern (h : Hamper) (kern : Nat) : Bool := h.elems.any (·.ofKern kern)

/-- A trigger closes hamper n: a departure with its reason; one that closed in this same cycle keeps the reason with the
highest code, and one that closed earlier is left alone (R156). -/
def Tile.closeHamper (t : Tile) (cyc reason n : Nat) : Tile :=
  match t.hampers.find? (·.1 == n) with
  | none => t
  | some (_, h) =>
    match h.closed with
    | none =>
      { t with hampers := put n { h with closed := some cyc } t.hampers, hlast := put n reason t.hlast,
               hdeps := put n ((getD 0 t.hdeps n + 1) % 2 ^ 32) t.hdeps }
    | some c => if c = cyc then { t with hlast := put n (Nat.max reason (getD 0 t.hlast n)) t.hlast } else t

/-- The hampers that meet a condition close. -/
def Tile.closeWhere (t : Tile) (cyc reason : Nat) (p : Hamper → Bool) : Tile :=
  (t.hampers.filter fun (_, h) => p h).foldl (fun t (n, _) => t.closeHamper cyc reason n) t

/-- Whether a handler of a kernel runs on the tile. -/
def Tile.handlerRuns (t : Tile) (kern : Nat) : Bool := t.slots.any fun (_, x) => x.kern == kern && x.hnd.isSome

/-- Every main slot of a kernel on the tile is DONE. -/
def Tile.mainsDone (t : Tile) (k : Kernel) : Bool := k.mains.all fun n => (t.slot n).state == .done

/-- The kernel-end trigger (R154) is due in this cycle once the last main slot is DONE and no handler runs. -/
def Tile.kernelEnd (t : Tile) (kern : Nat) : Tile :=
  if t.mainsDone (t.kernelOf kern) && !t.handlerRuns kern then { t with kends := t.kends ++ [kern] } else t

/-- At the end of the cycle, after its insertion, the hampers of the kernels that ended close (R154). -/
def Tile.closeEnded (t : Tile) (cyc : Nat) : Tile :=
  t.kends.foldl (fun t k => t.closeWhere cyc rsKend (·.ofKern k)) { t with kends := [] }

/-- HPEND.ELEMS of a slot (R166). -/
def Tile.hpend (t : Tile) (slot : Nat) : Nat :=
  let q := t.insQ.foldl (fun n (_, i) => match i with | .elem _ _ e => n + e.pendOf slot | _ => n) 0
  let h := t.hampers.foldl (fun n (_, h) => h.elems.foldl (fun n e => n + e.pendOf slot) n) 0
  let u := t.unacked.foldl (fun n p => p.pkt.elems.foldl (fun n e => n + e.pendOf slot) n) 0
  (q + h + u) % 2 ^ 16

/-- Whether a slot has an element, or a request, that its destination has not acknowledged. -/
def Tile.elemsOpen (t : Tile) (p : Elem → Bool) : Bool :=
  t.insQ.any (fun (_, i) => match i with | .elem _ _ e => p e | _ => false) ||
    t.hampers.any (fun (_, h) => h.elems.any p) || t.unacked.any (fun u => u.pkt.elems.any p)

/-- HSTAT_n (R167). -/
def Tile.hstat (t : Tile) (cyc n : Nat) : W64 :=
  let base := [(52, getD 0 t.hlast n), (0, getD 0 t.hdeps n)]
  match t.hampers.find? (·.1 == n) with
  | none => word64 base
  | some (_, h) =>
    word64 ([(63, 1), (62, bitNat h.closed.isSome), (61, match h.dst with | .virt _ _ => 1 | _ => 0), (55, h.count),
             (32, Nat.min (cyc - h.first) 0xFFFF)] ++ base)

/-- HDST_n (R168). -/
def Tile.hdst (t : Tile) (n : Nat) : W64 :=
  match t.hampers.find? (·.1 == n) with
  | none => 0
  | some (_, h) => h.dst.word

/-- HCFG as a write sets it (R165). -/
def clampHcfg (x : W64) : W64 :=
  let age := fld x 8 16
  let pol := fld x 6 2
  let thr := fld x 0 6
  word64 [(8, if age < 32 then 32 else age), (6, if pol = 3 then 0 else pol),
          (0, if thr = 0 then 1 else if 32 < thr then 32 else thr)]

end Sys2Proof.Machine
end

