-- ==== Sys2Proof/Machine/SysRegs.lean ====
section
/-!
DEFINITION. The system registers (R172), each computed from the state that holds it, and what MTS writes (R173).
-/

namespace Sys2Proof.Machine

/-- Register k of a site map (R17). -/
def mapWord (sites : List Nat) (k : Nat) : W64 :=
  BitVec.ofNat 64 (maskOf 64 fun b => inSet (64 * k + b) sites)

/-- DEVID (R24). -/
def State.devid (s : State) : W64 := word64 [(48, 0x7960), (40, s.mg.step)]

/-- DIECOUNT (R26). -/
def State.dieCount (s : State) : W64 :=
  word64 ((List.range 4).map fun d => (16 * d, (s.mg.tileEn.filter (· / 256 == d)).length))

/-- CYCNT and GTIME (R230). -/
def State.cycnt (s : State) : W64 := BitVec.ofNat 64 s.cyc
def State.gtime (s : State) : W64 := BitVec.ofNat 64 (4 * s.cyc / 5)

/-- The state codes of R48. -/
def SlotState.code : SlotState → Nat
  | .empty => 0 | .run => 1 | .held => 2 | .asleep => 3 | .backed => 4 | .stopped => 5 | .done => 6

/-- SLST of a slot (R71): a slot that reads its own reads STATE = 1; HOLD is capped at 7 (R216). -/
def Slot.slst (x : Slot) : W64 := word64 [(8, Nat.min x.hold 7), (3, bitNat x.hslot), (0, SlotState.run.code)]

/-- The boundary b(k) of a kernel's work identifier, b(N) from N upwards (R67, R69). -/
def Kernel.boundary (k : Kernel) (n : Nat) : Nat := (k.widths.take n).foldl (· + ·) 0

/-- WLVL (R73). -/
def Kernel.wlvl (k : Kernel) : W64 :=
  word64 ((36, k.widths.length) :: (List.range 6).map fun i => (6 * i, k.boundary (i + 1)))

/-- The field Fk of the work identifier, 0 where there is none (R67, R232). -/
def Kernel.fieldVal (k : Kernel) (n : Nat) : Nat :=
  if n < k.widths.length then fld k.wid (k.boundary n) (nth k.widths n 0) else 0

/-- The extent of Fk, 1 where there is none (R68, R232). -/
def Kernel.extent (k : Kernel) (n : Nat) : Nat := nth k.exts n 1

/-- The number of participants at a level (R68, R232). -/
def Kernel.participants (k : Kernel) (level : Nat) : Nat :=
  (List.range (Nat.min level k.widths.length)).foldl (fun p i => p * k.extent i) 1

/-- HSTE_n (R53). -/
def HState.word (h : HState) : W64 :=
  word64 [(32, h.age), (16, h.pend), (2, bitNat h.aged), (1, bitNat h.running), (0, bitNat (0 < h.pend && !h.running))]

/-- Basket slots of a basket in one state. -/
def Basket.countOf (b : Basket) (st : BState) : Nat :=
  ((List.range (b.nm1 + 1)).filter fun i => getD .free b.st i == st).length

/-- BKST_n (R312). A basket that is not valid reads as zero in every field: R65 clears VALID, and R312 does not say what the
other fields then read (DESIGN CHOICE, notes/assumptions/82.md). -/
def Basket.word (b : Basket) : W64 :=
  if b.valid then
    word64 [(63, 1), (62, bitNat b.rsv), (54, b.nm1), (44, b.sz), (35, b.countOf .free), (27, b.next), (24, b.owner),
            (15, b.countOf .ready), (0, b.base)]
  else 0

/-- BOBJ_n (R316). -/
def BObj.word (o : BObj) : W64 := word64 [(63, bitNat o.valid), (32, o.count), (16, o.arrived), (0, o.gen)]

/-- MONST_n of a monitor in use (R320). -/
def Mon.status (m : Mon) : W64 := word64 [(63, 1), (60, m.slot), (58, m.cond.code), (0, m.word)]

/-- The value of a system register at the issuing slot; none for a reserved number (R172). MONST_n of a monitor that is not in use
reads 0 throughout, also once it has been freed, where R320 gives SLOT, COND and WORD reset values only (notes/assumptions/109.md).
DESIGN CHOICE -/
def State.sysRead (s : State) (n : Nat) : Option W64 :=
  let t := s.here
  let x := s.me
  let k := s.kern
  if n = 0x000 then some t.palette
  else if n = 0x001 then some k.useMask
  else if n = 0x008 then some s.cycnt
  else if n = 0x009 then some s.gtime
  else if n = 0x010 then some (word64 [(3, s.coord s.curSite), (0, s.curSlot)])
  else if n = 0x011 then some t.wheel
  else if n = 0x012 then some x.slst
  else if n = 0x013 then some (word64 [(4, x.count), (0, x.base)])
  else if n = 0x014 then some (BitVec.ofNat 64 x.vlen)
  else if n = 0x015 then some k.wid
  else if n = 0x016 then some k.wlvl
  else if n = 0x017 then some (word64 [(32, k.rankSize), (0, k.rankIndex)])
  else if n = 0x018 then some (BitVec.ofNat 64 k.phno)
  else if n = 0x019 then some (BitVec.ofNat 64 (if x.hslot then x.budget else 0))
  else if n = 0x01A then some (word64 [(40, k.pagepol), (24, k.plen), (0, k.pbase / 4096)])
  else if n = 0x020 then some (x.sysReg s.cyc 0x20)
  else if n = 0x021 then some (BitVec.ofNat 64 (t.hpend s.curSlot))
  else if n = 0x028 then some t.tags
  else if n = 0x030 then some (x.sysReg s.cyc 0x30)
  else if n = 0x031 then some x.tcause
  else if n = 0x032 then some x.tepc
  else if n = 0x033 then some x.tval
  else if n = 0x034 then some (x.sysReg s.cyc 0x34)
  else if 0x040 ≤ n && n < 0x060 then some (getD 0 t.hent (n - 0x040))
  else if 0x060 ≤ n && n < 0x080 then some (getD HState.reset t.hste (n - 0x060)).word
  else if 0x080 ≤ n && n < 0x090 then some (t.hstat s.cyc (n - 0x080))
  else if 0x090 ≤ n && n < 0x0A0 then some (t.hdst (n - 0x090))
  else if 0x0A0 ≤ n && n < 0x0B0 then some (getD Basket.reset t.baskets (n - 0x0A0)).word
  else if 0x0B0 ≤ n && n < 0x0D0 then some (getD BObj.reset t.bobjs (n - 0x0B0)).word
  else if 0x0D0 ≤ n && n < 0x0E0 then some (((t.mons.find? (·.1 == n - 0x0D0)).map (·.2.status)).getD 0)
  else if n = 0x100 then some s.devid
  else if n = 0x101 then some s.mg.pkgnum
  else if n = 0x102 then some s.dieCount
  else if 0x110 ≤ n && n < 0x120 then some (mapWord s.mg.tileEn (n - 0x110))
  else if 0x120 ≤ n && n < 0x130 then some (mapWord s.mg.routeEn (n - 0x120))
  else if 0x130 ≤ n && n < 0x140 then some (mapWord s.mg.svc (n - 0x130))
  else if 0x140 ≤ n && n < 0x150 then some (mapWord s.mg.vltsvc (n - 0x140))
  else none

/-- What a write to HCFG, TVEC or TSCR leaves in it: HCFG is clamped (R165), the reserved bits of TVEC stay zero
(R7, R462). -/
def sysWriteValue (n : Nat) (v : W64) : W64 :=
  if n = 0x20 then clampHcfg v
  else if n = 0x30 then word64 [(63, fld v 63 1), (33, fld v 33 15), (0, fld v 0 18)]
  else v

/-- The state fault of an MTS (R228, R480). -/
def mtsTrap (s : State) (n : Nat) : Option Trap :=
  caseTrap 8 [(3, (s.sysRead n).isNone, 0), (4, n != 0x20 && n != 0x30 && n != 0x34, 0)]

end Sys2Proof.Machine
end

