-- ==== Sys2Proof/Machine/Control.lean ====
section
/-!
DEFINITION. The control and system instructions (R213 to R218, R228 to R232, R465).
-/

namespace Sys2Proof.Machine

/-! ### Branches (R213, R215) -/

/-- Whether a branch target is valid: a word index below the .sram budget divided by 8 (R213). -/
def State.pcValid (s : State) (t : Int) : Bool := decide (0 ≤ t) && decide (t < (s.kern.sram / 8 : Nat))

/-- The PC fault of an invalid target of a taken branch (R213, R477). -/
def pcTrap (s : State) (code : Nat) (t : Int) : Option Trap := if s.pcValid t then none else some ⟨6, code, 0, 0⟩

/-- PC + SEXT(OFF). -/
def State.relTarget (s : State) (off : BitVec 40) : Int := (s.me.pc : Int) + off.toInt

/-- UV(LC) + SEXT(OFF). -/
def State.absTarget (s : State) (lc : SReg) (off : BitVec 40) : Int := ((s.rS lc).toNat : Int) + off.toInt

/-- The slot goes on at a target (R213). -/
def State.jumpTo (s : State) (g : Guard) (t : Int) : State := s.retireTo g.hold.toNat t.toNat

def execNop (g : Guard) (s : State) : Res := issueFree (.nop g) g s fun s => s.retire g

def execBr (g : Guard) (off : BitVec 40) (s : State) : Res :=
  issueChk (.br g off) g s (fun s => pcTrap s 1 (s.relTarget off)) fun s => s.jumpTo g (s.relTarget off)

def execJmp (g : Guard) (lc : SReg) (off : BitVec 40) (s : State) : Res :=
  issueChk (.jmp g lc off) g s (fun s => pcTrap s 1 (s.absTarget lc off)) fun s => s.jumpTo g (s.absTarget lc off)

def execCall (g : Guard) (lc : SReg) (off : BitVec 40) (s : State) : Res :=
  issueChk (.call g lc off) g s (fun s => pcTrap s 1 (s.relTarget off)) fun s =>
    (s.writeS latAlu lc (BitVec.ofNat 64 (s.me.pc + 1))).jumpTo g (s.relTarget off)

def execRet (g : Guard) (lc : SReg) (s : State) : Res :=
  issueChk (.ret g lc) g s (fun s => pcTrap s 1 (s.absTarget lc 0)) fun s => s.jumpTo g (s.absTarget lc 0)

def execLoop (g : Guard) (lc : SReg) (off : BitVec 40) (s : State) : Res :=
  issueChk (.loop g lc off) g s (fun s => if s.rS lc - 1 = 0 then none else pcTrap s 1 (s.relTarget off)) fun s =>
    let n := s.rS lc - 1
    let s' := s.writeS latAlu lc n
    if n = 0 then s'.retire g else s'.jumpTo g (s.relTarget off)

/-! ### Slot control (R216 to R218) -/

def execYield (g : Guard) (imm : BitVec 21) (s : State) : Res :=
  issueFree (.yield g imm) g s fun s => s.retireTo (imm.toNat + g.hold.toNat) (s.me.pc + 1)

def execSleep (g : Guard) (a : SReg) (imm : BitVec 21) (s : State) : Res :=
  issueFree (.sleep g a imm) g s fun s => s.sleepOn g (.time (s.cyc + (s.rS a).toNat + imm.toNat))

/-- An instruction that only a main slot may issue (R488). -/
def mainOnly (s : State) : Option Trap := if s.me.hslot then some ⟨8, 1, 0, 0⟩ else none

/-- END: the main slot is DONE, and the kernel-end trigger is evaluated (R154, R218). -/
def execEndSlot (g : Guard) (s : State) : Res :=
  issueChk (.endSlot g) g s mainOnly fun s =>
    (s.modMe fun x => { x with pc := x.pc + 1, state := .done, hold := 0 }).modHere fun t => t.kernelEnd s.me.kern

/-! ### Traps (R229, R465) -/

/-- TRAP: a software trap with VALUE = YIMM and TEPC = PC + 1. -/
def execTrap (g : Guard) (imm : BitVec 21) (s : State) : Res :=
  issueFree (.trap g imm) g s fun s =>
    s.takeFault (s.faultRec (s.trace (wordOf (.trap g imm)) none) ⟨9, 0, imm.setWidth 64, 0⟩ false) (s.me.pc + 1)

/-- ERET: state fault outside trap handling, PC fault for an invalid resume address (R465, R477, R480). -/
def execEret (g : Guard) (skip : Bool) (s : State) : Res :=
  issueChk (.eret g skip) g s
    (fun s => firstTrap [caseTrap 8 [(2, fld s.me.tcause 63 1 == 0, 0)],
                         pcTrap s 3 ((fld s.me.tepc 0 18 + bitNat skip : Nat) : Int)])
    fun s => s.returnFromTrap g.hold.toNat skip

/-! ### System instructions (R228 to R232) -/

def execMfs (g : Guard) (d : SReg) (n : BitVec 12) (s : State) : Res :=
  issueChk (.mfs g d n) g s (fun s => caseTrap 8 [(3, (s.sysRead n.toNat).isNone, 0)]) fun s =>
    (s.writeS latAlu d ((s.sysRead n.toNat).getD 0)).retire g

def execMts (g : Guard) (n : BitVec 12) (a : SReg) (s : State) : Res :=
  issueChk (.mts g n a) g s (fun s => mtsTrap s n.toNat) fun s =>
    (s.pendMe latAlu (.sys n.toNat (sysWriteValue n.toNat (s.rS a)))).retire g

def execCycle (g : Guard) (d : SReg) (s : State) : Res := issueS (.cycle g d) g s latAlu d State.cycnt

def execTime (g : Guard) (d : SReg) (s : State) : Res := issueS (.time g d) g s latAlu d State.gtime

/-- The palette that CAPQ reads for a coordinate word (R231). -/
def State.capOf (s : State) (x : W64) : W64 :=
  let c := fld x 0 22
  if fld x 22 42 != 0 || coordPkg c != s.pkg || !inSet (coordSite c) s.mg.tileEn || !inSet (coordSite c) s.mg.svc then 0
  else (s.tile (coordSite c)).palette

def execCapq (g : Guard) (d a : SReg) (s : State) : Res := issueS (.capq g d a) g s latLoad d fun s => s.capOf (s.rS a)

/-- WIDQ (R232). -/
def widqValue (f : WidqFn) (k : Nat) (s : State) : W64 :=
  match f with
  | .fld => BitVec.ofNat 64 (s.kern.fieldVal k)
  | .ext => BitVec.ofNat 64 (s.kern.extent k)
  | .part => BitVec.ofNat 64 (s.kern.participants k)
  | .sbase => BitVec.ofNat 64 s.kern.sbase

def execWidq (g : Guard) (d : SReg) (f : WidqFn) (k : BitVec 3) (s : State) : Res :=
  issueS (.widq g d f k) g s latAlu d (widqValue f k.toNat)

end Sys2Proof.Machine
end

