-- ==== Sys2Proof/Machine/Token.lean ====
section
/-!
DEFINITION. The token, route and shard instructions (R276 to R291): checks and operand capture at issue; what a queued
entry does when its queue performs it stands in Machine/Net.lean.
-/

namespace Sys2Proof.Machine

/-! ### Latches (R279, R488) -/

/-- A running handler on a handler slot. -/
def State.handler (s : State) : Option Handler := if s.me.hslot then s.me.hnd else none

/-- The state faults of an instruction that names a latch. -/
def latchTrap (s : State) (l : LReg) : Option Trap :=
  match s.handler with
  | none => some ⟨8, 1, 0, 0⟩
  | some h => if h.held && h.latch == l.toNat then none else some ⟨8, 5, 0, 0⟩

/-- Word k of a latch. -/
def Tile.latchWord (t : Tile) (l k : Nat) : W64 := nth (getD [] t.latches l) k 0
def State.latch (s : State) (l : LReg) (k : Nat) : W64 := s.here.latchWord l.toNat k

/-- BASKET and SLOT of an arrival word. -/
def arrivalSlot (w : W64) : Nat × Nat := (fld w 48 4, fld w 32 16)

/-- The handler no longer holds its latch. -/
def State.unlatch (s : State) : State := s.modMe fun x => { x with hnd := x.hnd.map fun h => { h with held := false } }

/-! ### Route words (R280, R336) -/

/-- Word k of the ring descriptor in the last 256 bytes of the kernel's allocation. -/
def Tile.ringWord (t : Tile) (k : Kernel) (n : Nat) : W64 :=
  BitVec.ofNat 64 (loadNat t.sram (k.sbase + k.sram - 256 + 8 * n) 8)

def routeChan (w : W64) : Nat := fld w 0 8
def routeOut (w : W64) : Nat := fld w 8 3
def routeTile (w : W64) : Nat := fld w 32 22

/-- Whether a route word breaches R280 for a kernel on a tile. -/
def routeBad (t : Tile) (k : Kernel) (w : W64) : Bool :=
  let out := routeOut w
  5 ≤ out || fld w 11 21 != 0 || fld w 54 10 != 0 || (out != 4 && routeTile w != 0) ||
    (decide (out < 4) && (!bitOf k.rings out || fld (t.ringWord k (1 + out)) 63 1 == 0))

/-- The cases of class 7 of a route word. -/
def routeCase (s : State) (w : W64) : Nat × Bool × W64 := (4, routeBad s.here s.kern w, w)

/-- The tile that a route word leads to: the next member of a ring, or TILE. -/
def routeDest (t : Tile) (k : Kernel) (w : W64) : Nat :=
  if routeOut w < 4 then fld (t.ringWord k (1 + routeOut w)) 0 22 else routeTile w

/-! ### Token sends (R281) -/

/-- Entries of the network command queue in use: a send that has stepped aside keeps its entry (R261). -/
def Tile.netUsed (t : Tile) : Nat := t.netQ.length + ((t.sends.map (·.e)).eraseDups).length

/-- A command of the network command queue. -/
def issueNet (i : Instr) (g : Guard) (q : QTag) (s : State) (chk : State → Option Trap) (d a b : State → W64)
    (bslot : State → Option (Nat × Nat)) (after : State → State) : Res :=
  issueQ i g q s chk (fun t => t.netUsed < 8) fun s =>
    after (s.modHere fun t =>
      { t with netQ := t.netQ ++ [{ s.entry i q (d s) (a s) (b s) with bslot := bslot s }] })

def execTsend (g : Guard) (a b : SReg) (q : QTag) (s : State) : Res :=
  issueNet (.tsend g a b q) g q s
    (fun s => firstTrap [caseTrap 7 [routeCase s (s.rS b)],
      caseTrap 5 [(1, decide (s.kern.sram ≤ (s.rS a).toNat), s.rS a), (2, (s.rS a).toNat % 64 != 0, s.rS a)]])
    (fun _ => 0) (·.rS a) (·.rS b) (fun _ => none) id

def execTfwd (g : Guard) (l : LReg) (b : SReg) (q : QTag) (s : State) : Res :=
  issueNet (.tfwd g l b q) g q s
    (fun s => firstTrap [latchTrap s l, caseTrap 7 [routeCase s (s.rS b)]])
    (fun _ => 0) (fun _ => 0) (·.rS b) (fun s => some (arrivalSlot (s.latch l 0))) State.unlatch

/-- DEPTH of a branch word (R278). -/
def branchDepth (w : W64) : Nat := fld w 12 4

/-- TFORK: d names the route of branch 1, b that of branch 0. -/
def execTfork (g : Guard) (d : SReg) (l : LReg) (b : SReg) (q : QTag) (s : State) : Res :=
  issueNet (.tfork g d l b q) g q s
    (fun s => firstTrap [latchTrap s l, lowestTrap 7 [routeCase s (s.rS d), routeCase s (s.rS b),
      (7, decide (8 ≤ branchDepth (s.latch l 1)), s.latch l 1)]])
    (·.rS d) (fun _ => 0) (·.rS b) (fun s => some (arrivalSlot (s.latch l 0))) State.unlatch

/-! ### TJOIN and the join table (R282) -/

/-- Word 1 of the held token's header as its slot holds it: a latch is written only at selection (R60), and TJOIN goes by
the DEPTH that an earlier TJOIN left (R342; notes/assumptions/13.md). -/
def State.joinWord (s : State) (l : LReg) : W64 :=
  let (n, i) := arrivalSlot (s.latch l 0)
  BitVec.ofNat 64 (loadNat s.here.sram (s.here.basketAt n i + 8) 8)

/-- PATH with bit DEPTH − 1 cleared, and that bit. -/
def joinPath (w : W64) : Nat × Bool :=
  let bit := branchDepth w - 1
  (fld w 0 8 - (if bitOf (fld w 0 8) bit then 2 ^ bit else 0), bitOf (fld w 0 8) bit)

/-- The branch word after a join: DEPTH − 1 and PATH bit DEPTH − 1 cleared; the reserved bits stay (R282, R489). -/
def joinedWord (w : W64) : W64 := word64 [(16, fld w 16 48), (12, branchDepth w - 1), (8, fld w 8 4), (0, (joinPath w).1)]

/-- The sibling that waits for a token of a kernel. -/
def Tile.sibling (t : Tile) (kern : Nat) (w : W64) : Option (Nat × Join) :=
  t.joins.find? fun (_, j) =>
    j.kern == kern && j.tokid == fld w 16 48 && j.depth == branchDepth w && j.path == (joinPath w).1

def execTjoin (g : Guard) (d : SReg) (l : LReg) (s : State) : Res :=
  let i := Instr.tjoin g d l
  issueChk i g s (fun s => firstTrap [latchTrap s l,
      caseTrap 7 [(7, branchDepth (s.joinWord l) = 0, s.joinWord l)]]) fun s =>
    let w := s.joinWord l
    let (n, k) := arrivalSlot (s.latch l 0)
    let here := s.here
    match here.sibling s.me.kern w with
    | some (e, j) =>
      let res := word64 [(63, 1), (62, bitNat !(joinPath w).2), (48, j.basket), (32, j.slot), (0, j.off)]
      let s := s.modHere fun t => { t with joins := erase e t.joins }
      ((s.access (s.trace (wordOf i) none)
        (.store [(here.basketAt n k + 8, leBytes 8 (joinedWord w).toNat)] false true)).writeS latLoad d res).retire g
    | none =>
      match (List.range 16).find? fun e => !here.joins.any (·.1 == e) with
      | some e =>
        let j : Join := { kern := s.me.kern, tokid := fld w 16 48, depth := branchDepth w, path := (joinPath w).1,
                          first := !(joinPath w).2, basket := n, slot := k, off := (here.basket n).off k, word1 := w }
        ((s.modHere fun t => { t with joins := put e j t.joins }).writeS latLoad d 0).retire g
      | none => (s.writeS latLoad d (word64 [(61, 1)])).retire g

/-! ### TTAKE and HRET (R283, R284) -/

def execTtake (g : Guard) (d : SReg) (l : LReg) (word : BitVec 3) (rel : Bool) (s : State) : Res :=
  issueChk (.ttake g d l word rel) g s (fun s => latchTrap s l) fun s =>
    let s := s.writeS latAlu d (s.latch l word.toNat)
    (if rel then s.unlatch.pendMe 3 (.latch l.toNat) else s).retire g

/-- The handler of a slot ends: its entry is no longer running, and with PEND > 0 it becomes runnable with AGE = 0 (R57). -/
def Tile.endHandler (t : Tile) (slot : Nat) : Tile :=
  match (t.slot slot).hnd with
  | none => t
  | some h =>
    let e := t.hsteOf h.entry
    (t.setHste h.entry { e with running := false, age := if 0 < e.pend then 0 else e.age }).modSlot slot
      fun x => { x with hnd := none, overrun := false }

/-- HRET: it covers every fault recorded against the slot (R458), then ends the handler; the kernel-end trigger of the
hampers is evaluated (R154). -/
def execHret (g : Guard) (s : State) : Res :=
  issueChk (.hret g) g s (fun s => if s.handler.isSome then none else some ⟨8, 1, 0, 0⟩) fun s =>
    s.coverOr [s.curSlot] (fun _ => true) fun s =>
      (s.modHere fun t => (t.endHandler s.curSlot).kernelEnd s.me.kern).retire g

/-! ### HSET and HMSK (R285) -/

/-- Whether HSET of entry n to a value breaches R285, for a tile with the table effects that have issued (Tile.coming). -/
def hsetBad (t : Tile) (k : Kernel) (n : Nat) (v : W64) : Bool :=
  let w := t.hentOf n
  let h := t.hsteOf n
  let b := t.basket (hentBasket v)
  hentOwner w != k.owner ||
    (hentValid v && (List.range 32).any fun e => e != n && hentValid (t.hentOf e) && hentChan (t.hentOf e) == hentChan v) ||
    ((decide (0 < h.pend) || h.running) &&
      ((hentValid w && !hentValid v) || hentChan v != hentChan w || hentBasket v != hentBasket w ||
        hentLatch v != hentLatch w)) ||
    decide (k.sram ≤ 8 * hentPc v) ||
    (hentValid v && b.valid && b.owner != k.owner)

def execHset (g : Guard) (a b : SReg) (s : State) : Res :=
  issueChk (.hset g a b) g s
    (fun s => firstTrap [caseTrap 8 [(6, hsetBad s.here.coming s.kern (fld (s.rS a) 0 5) (s.rS b), 0)],
      caseTrap 7 [(2, fld (s.rS a) 5 59 != 0, s.rS a)]])
    fun s => (s.pendMe latAlu (.hset (fld (s.rS a) 0 5) (s.rS b))).retire g

def execHmsk (g : Guard) (a b : SReg) (s : State) : Res :=
  issueChk (.hmsk g a b) g s
    (fun s => firstTrap [
      caseTrap 8 [(6, (List.range 32).any fun n =>
        bitOf (s.rS b).toNat n && hentOwner (s.here.hentOf n) != s.kern.owner, 0)],
      caseTrap 7 [(2, fld (s.rS a) 32 32 != 0, s.rS a), (2, fld (s.rS b) 32 32 != 0, s.rS b)]])
    fun s => (s.pendMe latAlu (.hmsk (s.rS b) (s.rS a))).retire g

/-! ### Configured routes (R286 to R289) -/

/-- EOS keeps the number of the next engine command: it follows every command passed before it. -/
def execEos (g : Guard) (a : SReg) (q : QTag) (s : State) : Res :=
  issueNet (.eos g a q) g q s (fun s => caseTrap 7 [(9, decide (s.kern.cfgOuts ≤ (s.rS a).toNat), s.rS a)])
    (fun s => BitVec.ofNat 64 s.nextCmd) (·.rS a) (fun _ => 0) (fun _ => none) id

/-- The first code of R476 that a global range breaks, as a case of class 5. -/
def gaddrCases (x : W64) (n : Nat) : List (Nat × Bool × W64) := (gaddrCodes x n).map fun c => (c, true, x)

def execCfgld (g : Guard) (a b : SReg) (q : QTag) (s : State) : Res :=
  issueNet (.cfgld g a b q) g q s (fun s => lowestTrap 5 (gaddrCases (s.rS a) (s.rS b).toNat))
    (fun _ => 0) (·.rS a) (·.rS b) (fun _ => none) id

def execCfgswap (g : Guard) (s : State) : Res :=
  let i := Instr.cfgswap g
  issueChk i g s (fun s => firstTrap [mainOnly s, caseTrap 8 [(7, s.here.box.swapWait, 0)]]) fun s =>
    let tr := s.trace (wordOf i) none
    (s.sleepOn g (.swap false)).modHere fun t => { t with box := { t.box with swapTr := some tr, swapWait := true } }

/-- The inputs that a box's active plane selects, among its four links. -/
def boxInputs (c : BoxCfg) : List Nat := [1, 2, 3, 4].filter c.sel.contains

/-- LOCAL of a box (R289); strays do not clear it (R529). -/
def Box.isLocal (b : Box) : Bool :=
  (match b.active with | none => true | some c => (boxInputs c).all b.eosIn.contains) &&
    b.inbuf.isEmpty && b.eos.isNone && b.rest.isEmpty

/-- Whether the node of a kernel has parts on other packages (R364, R369). -/
def State.spanning (s : State) (k : Kernel) : Bool :=
  s.sched.launches.any fun a => a.l == k.l &&
    (a.lead != s.pkg || a.nodes.any fun (n, x) => n == k.node && !x.parts.isEmpty)

/-- REGION: LOCAL on every tile, as the control plane reports no later than the bound of R289; within the bound the
delay is a free value. Whether the tiles of the region on other packages read LOCAL = 1 is a free value too. -/
def State.regionLocal (s : State) (sites : List Nat) : Bool :=
  sites.all (fun n => (s.tile n).box.isLocal && (s.tile n).box.localAt.isSome) &&
    (!s.spanning s.kern || Config.freeBit (2 ^ 64 + 1024 * s.cyc + s.curSite)) &&
    (let since := (sites.map fun n => ((s.tile n).box.localAt).getD 0).foldl Nat.max 0
     let delay := (Config.freeWord (2 ^ 64 + 1024 * since + s.curSite)).toNat % (2 * boxSpan sites + 9)
     decide (since + delay ≤ s.cyc))

def State.drainWord (s : State) : W64 :=
  let b := s.here.box
  word64 [(8, b.eosn), (2, bitNat b.loaded), (1, bitNat (s.regionLocal ((s.regionOn s.kern.region).map (·.1)))),
          (0, bitNat b.isLocal)]

def execDrainq (g : Guard) (d : SReg) (s : State) : Res := issueS (.drainq g d) g s latAlu d State.drainWord

/-! ### Shard instructions (R290, R291) -/

/-- A shard instruction: the key's unused bits are zero. Until the entry completes its destination reads as a free value
(R43; notes/assumptions/5.md). -/
def issueShard (i : Instr) (g : Guard) (q : QTag) (d a b : SReg) (map : Bool) (s : State) : Res :=
  issueQ i g q s
    (fun s => caseTrap 7 [(8, fld (s.rS b) 16 48 != 0, s.rS b), (8, map && fld (s.rS d) 62 2 == 0, s.rS d)])
    (fun t => t.shardQ.length < 8) fun s =>
      let s := s.modHere fun t => { t with shardQ := t.shardQ ++ [s.entry i q (s.rS d) (s.rS a) (s.rS b)] }
      { s.writeS 1 d (Config.freeWord s.free) with free := s.free + 1 }

def execShlk (g : Guard) (d a b : SReg) (q : QTag) (s : State) : Res :=
  issueShard (.shlk g d a b q) g q d a b false s

def execShmap (g : Guard) (d a b : SReg) (new : Bool) (q : QTag) (s : State) : Res :=
  issueShard (.shmap g d a b new q) g q d a b true s

def execShunmap (g : Guard) (d a b : SReg) (cond : Bool) (q : QTag) (s : State) : Res :=
  issueShard (.shunmap g d a b cond q) g q d a b false s

def execShref (g : Guard) (d a b : SReg) (dec : Bool) (q : QTag) (s : State) : Res :=
  issueShard (.shref g d a b dec q) g q d a b false s

end Sys2Proof.Machine
end

