-- ==== Sys2Proof/Machine/Engine.lean ====
section
/-!
DEFINITION. Completion tags, copy-engine commands, remote stores, atomics and loads, hamper control (R294 to R309): the
instructions with their checks at issue, and the entries they put into the engine port, the insertion queue and the
remote request queue. What the units do later stands in Machine/Hampers.lean, Machine/Requests.lean and
Machine/Copy.lean.
-/

namespace Sys2Proof.Machine

/-! ### Completion tags (R296 to R299) -/

/-- Whether a mask of tags covers a fault: its instruction's tag, or that of an HFLUSH that waited for the element (R299,
R501). -/
def FaultRec.underTags (f : FaultRec) (mask : W64) : Bool :=
  (f.tr.tag.any fun t => mask.getLsbD t) || f.flush.any fun t => mask.getLsbD t

/-- TWAIT: the mask of S1, or the one tag where S1 is s0; it covers the instructions whose tag lies in its mask. -/
def execTwait (g : Guard) (a : SReg) (tag : BitVec 6) (any : Bool) (s : State) : Res :=
  issueFree (.twait g a tag any) g s fun s =>
    let mask := if a = 0 then BitVec.ofNat 64 (2 ^ tag.toNat) else s.rS a
    s.coverOr [s.curSlot] (·.underTags mask) fun s => s.sleepOn g (.tags mask any)

def execTfirst (g : Guard) (d a : SReg) (s : State) : Res :=
  issueS (.tfirst g d a) g s latAlu d fun s =>
    BitVec.ofNat 64 ((lowestSet (s.here.tags &&& s.rS a).toNat 64).getD 64)

/-- TCLR: in its landing cycle c + 2, after the completions of that cycle (R296), so before the issues of c + 3. -/
def execTclr (g : Guard) (a : SReg) (s : State) : Res :=
  issueFree (.tclr g a) g s fun s => (s.pendMe 3 (.tclr (s.rS a))).retire g

/-! ### Copy engines (R300 to R305) -/

/-- Engine ENG of a site's die, package-wide (R30). -/
def engineOf (site : Nat) (e : EngQ) : Nat := site / 256 * 16 + e.eng.toNat

/-- A copy-engine command enters the engine port. -/
def issueEng (i : Instr) (g : Guard) (e : EngQ) (q : QTag) (s : State) (chk : State → Option Trap) (op : State → EOp)
    (after : Nat → State → State) : Res :=
  issueQ i g q s chk (fun t => t.engPort.length < 8) fun s =>
    let c : ECmd := { id := s.nextCmd, iss := s.cyc, tr := s.trace (wordOf i) q.tagOf, eng := engineOf s.curSite e, queue := e.queue.toNat,
                      op := op s, bad := false, stopped := false, late := false, acks := [], ran := false, failed := none, beats := [] }
    after c.id { s.modHere fun t => { t with engPort := t.engPort ++ [c] } with nextCmd := s.nextCmd + 1 }

/-- The operand fault of a length above 2^32 − 1 (R301). -/
def lenTrap (x : W64) : Option Trap := caseTrap 7 [(1, decide (2 ^ 32 ≤ x.toNat), x)]

def execCpy (g : Guard) (d a b : SReg) (e : EngQ) (q : QTag) (s : State) : Res :=
  issueEng (.cpy g d a b e q) g e q s
    (fun s => firstTrap [lenTrap (s.rS b),
      lowestTrap 5 (gaddrCases (s.rS d) (s.rS b).toNat ++ gaddrCases (s.rS a) (s.rS b).toNat)])
    (fun s => .cpy (s.rS d) (s.rS a) (s.rS b).toNat) (fun _ => id)

/-- A command with a descriptor in SRAM, read in the SRAM cycle c + 3 (R302, R304). -/
def issueDesc (i : Instr) (g : Guard) (e : EngQ) (q : QTag) (d : SReg) (op : EOp) (s : State) : Res :=
  issueEng i g e q s (fun s => lowestTrap 5 (sramCases s (s.rS d) 32 8)) (fun _ => op)
    (fun id s => s.access (s.trace (wordOf i) q.tagOf) (.desc id (s.phys (s.rS d).toNat)))

def execCpy2 (g : Guard) (d : SReg) (e : EngQ) (q : QTag) (s : State) : Res :=
  issueDesc (.cpy2 g d e q) g e q d (.cpy2 none) s

def execCpyc (g : Guard) (d : SReg) (e : EngQ) (q : QTag) (s : State) : Res :=
  issueDesc (.cpyc g d e q) g e q d (.cpyc none) s

/-- CPYL: the list is read when the command starts (R303). -/
def execCpyl (g : Guard) (d a : SReg) (e : EngQ) (q : QTag) (s : State) : Res :=
  issueEng (.cpyl g d a e q) g e q s
    (fun s => firstTrap [caseTrap 7 [(1, s.rS a == 0 || decide (256 < (s.rS a).toNat), s.rS a)],
      lowestTrap 5 (sramCases s (s.rS d) (24 * (s.rS a).toNat) 8)])
    (fun s => .cpyl (s.phys (s.rS d).toNat) (s.rS a).toNat none) (fun _ => id)

def execFill (g : Guard) (d a b : SReg) (e : EngQ) (q : QTag) (s : State) : Res :=
  issueEng (.fill g d a b e q) g e q s
    (fun s => firstTrap [lenTrap (s.rS b), lowestTrap 5 (gaddrCases (s.rS d) (s.rS b).toNat)])
    (fun s => .fill (s.rS d) (s.rS a) (s.rS b).toNat) (fun _ => id)

/-- QFENCE: the commands it waits for are fixed when it enters its queue (R305). -/
def execQfence (g : Guard) (a : SReg) (e : EngQ) (q : QTag) (s : State) : Res :=
  issueEng (.qfence g a e q) g e q s (fun s => caseTrap 7 [(2, fld (s.rS a) 8 56 != 0, s.rS a)])
    (fun s => .qfence (fld (s.rS a) 0 8) []) (fun _ => id)

/-! ### Elements (R144, R147, R306) -/

/-- The hamper destination and the offset in it that a global address names, for a slot of an address space. -/
def elemDest (x : W64) (asp : Nat) : HDest × Nat :=
  match gaddr x with
  | .tile coord bank off => (.tile coord bank asp, off)
  | .virt va => (.virt (va / 65536) asp, va % 65536)
  | .reserved => (.virt 0 asp, 0)

/-- The cases of class 5 of an access of 2^size bytes at a global address; mail permits mailbox words (R306, R307). -/
def elemCases (x : W64) (size : Nat) (mail : Bool) : List (Nat × Bool × W64) :=
  let mis : Nat × Bool × W64 := (2, (elemDest x 0).2 % 2 ^ size != 0, x)
  match gaddr x with
  | .reserved => [(4, true, x)]
  | .virt va => [(5, decide (2 ^ 57 ≤ va), x), mis]
  | .tile _ bank off =>
    [mis, (6, decide (bankBytes bank ≤ off), x), (7, bank == 3 && !mail, x)]

/-- An entry for the insertion queue, which reaches the insertion stage in cycle c + 3 at the earliest (R150). -/
def State.insert (s : State) (it : InsItem) : State :=
  s.modHere fun t => { t with insQ := t.insQ ++ [(s.cyc + 3, it)] }

/-- An element of the issuing instruction. -/
def State.elem (s : State) (i : Instr) (x : W64) (op : AOp) (comb : Bool) (size : Nat) (data swap : W64) : InsItem :=
  let (dst, off) := elemDest x s.kern.asp
  let cut : W64 → W64 := fun v => BitVec.ofNat 64 (v.toNat % 2 ^ (8 * 2 ^ size))
  .elem s.kern.asp dst
    { eseq := 0, op := op, comb := comb, size := size, slot := s.curSlot, offset := off, data := cut data, swap := cut swap,
      tr := s.trace (wordOf i) none, merged := [] }

/-- The operand and, for a compare-and-swap, the new value in the next register (R306). -/
def State.operandPair (s : State) (op : AOp) (a : SReg) : W64 × W64 :=
  (s.rS a, if op = .cas then s.me.regS s.cyc (a.toNat + 1) else 0)

/-- RST and RAT. -/
def issueElem (i : Instr) (g : Guard) (d a : SReg) (op : AOp) (size : Nat) (comb mail : Bool) (s : State) : Res :=
  issue i g s (fun s => lowestTrap 5 (elemCases (s.rS d) size mail)) (fun s => s.here.insQ.length < 4) fun s =>
    (s.insert (s.elem i (s.rS d) op comb size (s.operandPair op a).1 (s.operandPair op a).2)).retire g

def execRst (g : Guard) (d a : SReg) (size : BitVec 2) (s : State) : Res :=
  issueElem (.rst g d a size) g d a .store size.toNat false (size == 3) s

def execRat (g : Guard) (d a : SReg) (op : AOp) (size : BitVec 2) (comb : Bool) (s : State) : Res :=
  issueElem (.rat g d a op size comb) g d a op size.toNat comb false s

/-! ### Remote requests (R307) -/

/-- A message put on the package's planes, from a lane group where it comes from another package. -/
def State.sendVia (s : State) (via : Option Nat) (m : Msg) : State :=
  { s with wire := s.wire ++ [⟨s.nextMsg, via, m⟩], nextMsg := s.nextMsg + 1 }

/-- Whether the routing tables wait to be written anew, no partition reset is in progress, and every node has left the dies
concerned: the network interfaces then hold what they have not injected (R510, R513). -/
def State.rewriting (s : State) : Bool :=
  s.mg.tables != s.mg.rtsvc && s.mg.prst.isNone &&
    (let dies := (s.mg.tables.filter fun n => !s.mg.rtsvc.contains n).map (· / 256)
     s.tiles.all fun (n, t) => t.kernels.isEmpty || !dies.contains (n / 256))

/-- A message put on the package's planes by one of its units, or held by its network interface (R510). -/
def State.send (s : State) (m : Msg) : State :=
  if s.rewriting then { s with heldMsgs := s.heldMsgs ++ [(none, s.pkg, m)] } else s.sendVia none m

/-- A request enters the remote request queue of the issuing tile and leaves for its destination. -/
def State.request (s : State) (i : Instr) (tag : Option Nat) (kind : ReqKind) (addr : W64) (mem : Bool) (dst : Nat)
    (barw : Bool) : State :=
  let id := s.here.nextId
  let r : Req := { src := s.coord s.curSite, id := id, kind := kind, addr := addr, phys := none, mem := mem, tr := s.trace (wordOf i) tag }
  (s.modHere fun t =>
    { t with nextId := id + 1,
             remote := t.remote ++ [{ id := id, req := r, dst := dst, since := s.cyc, sent := true, stopped := false, gen := none,
                                      barw := barw, gone := none }] }).send (.req r)

/-- Room in the remote request queue. -/
def Tile.reqRoom (t : Tile) : Bool := decide (t.remote.length < 16)

def execRatf (g : Guard) (d a b : SReg) (op : AOp) (size : BitVec 2) (q : QTag) (s : State) : Res :=
  let i := Instr.ratf g d a b op size q
  issueQ i g q s
    (fun s => lowestTrap 5 (elemCases (s.rS d) size.toNat false ++ sramCases s (s.rS b) (2 ^ size.toNat) (2 ^ size.toNat)))
    Tile.reqRoom fun s =>
      s.request i q.tagOf (.ratf op size.toNat (s.operandPair op a).1 (s.operandPair op a).2) (s.rS d) false
        (s.phys (s.rS b).toNat) false

def execRld (g : Guard) (d a : SReg) (size : BitVec 2) (q : QTag) (s : State) : Res :=
  let i := Instr.rld g d a size q
  issueQ i g q s
    (fun s => lowestTrap 5 (elemCases (s.rS d) size.toNat false ++ sramCases s (s.rS a) (2 ^ size.toNat) (2 ^ size.toNat)))
    Tile.reqRoom fun s => s.request i q.tagOf (.rld size.toNat) (s.rS d) false (s.phys (s.rS a).toNat) false

/-! ### Hamper control (R308, R309) -/

/-- HFLUSH: a marker; of the address only its form is checked. -/
def execHflush (g : Guard) (d : SReg) (all : Bool) (q : QTag) (s : State) : Res :=
  let i := Instr.hflush g d all q
  issueQ i g q s
    (fun s => if all then none else
      caseTrap 5 [(4, gaddr (s.rS d) == .reserved, s.rS d),
                  (5, (match gaddr (s.rS d) with | .virt va => decide (2 ^ 57 ≤ va) | _ => false), s.rS d)])
    (fun t => t.insQ.length < 4) fun s =>
      s.insert (.flush s.curSlot (if all then none else some (elemDest (s.rS d) s.kern.asp).1)
        (s.trace (wordOf i) q.tagOf))

def execHcfg (g : Guard) (a : SReg) (s : State) : Res :=
  issueFree (.hcfg g a) g s fun s => (s.pendMe latAlu (.sys 0x20 (clampHcfg (s.rS a)))).retire g

def execHstat (g : Guard) (d a : SReg) (dst : Bool) (s : State) : Res :=
  issueChk (.hstat g d a dst) g s (fun s => caseTrap 7 [(2, fld (s.rS a) 4 60 != 0, s.rS a)]) fun s =>
    (s.writeS latAlu d (if dst then s.here.hdst (fld (s.rS a) 0 4) else s.here.hstat s.cyc (fld (s.rS a) 0 4))).retire g

end Sys2Proof.Machine
end

