-- ==== Sys2Proof/Machine/Sync.lean ====
section
/-!
DEFINITION. Fences and phases, baskets, barrier objects, monitors, pre-emption points, SRAM marks and network reductions
(R310 to R324): the instructions with their checks at issue.
-/

namespace Sys2Proof.Machine

/-! ### Fences and phases (R138, R310, R311) -/

/-- The cycle by which every earlier local load of the slot has landed. -/
def State.loadsLanded (s : State) : Nat :=
  let q := s.here.accesses.foldl (fun n a =>
    if a.tr.slot != s.curSlot then n
    else match a.act with
      | .load .. => Nat.max n (a.cyc - 3 + latLoad)
      | .atom .. => Nat.max n (a.cyc - 3 + latLoad)
      | .vload .. => Nat.max n (a.cyc - 3 + latVload)
      | _ => n) 0
  s.me.pend.foldl (fun n p => if p.load then Nat.max n p.land else n) q

/-- Whether a fence departs hampers and covers elements and remote requests: of release or full kind, wider than the
tile (R138, R310). -/
def fenceWide (k : FKind) (scope : Scope) : Bool := k != .acq && decide (2 ≤ scope.code)

def execFence (g : Guard) (k : FKind) (scope : Scope) (s : State) : Res :=
  issue (.fence g k scope) g s (fun _ => none) (fun s => !fenceWide k scope || s.here.insQ.length < 4) fun s =>
    s.coverOr [s.curSlot] (fun f => f.fence && fenceWide k scope) fun s =>
      (if fenceWide k scope then s.insert (.fence s.curSlot) else s).sleepOn g (.fence k scope s.loadsLanded)

def execPhase (g : Guard) (s : State) : Res :=
  issue (.phase g) g s mainOnly (fun s => s.here.insQ.length < 4) fun s =>
    s.coverOr s.phaseSlots (fun _ => true) fun s => (s.insert (.fence s.curSlot)).sleepOn g (.phase false)

/-! ### Baskets (R314) -/

/-- Whether a basket is valid and owned by the issuing kernel. -/
def State.basketOk (s : State) (k : Nat) : Bool := (s.here.basket k).valid && (s.here.basket k).owner == s.kern.owner

/-- The state fault of BKINIT (R480), by the tables as they stand once what has issued has landed. -/
def bkinitBad (s : State) (k : Nat) : Bool :=
  let t := s.here.coming
  let b := t.basket k
  (b.valid && (b.owner != s.kern.owner || (List.range (b.nm1 + 1)).any fun i => b.stateOf i != .free)) ||
    (List.range 32).any fun e =>
      hentValid (t.hentOf e) && hentBasket (t.hentOf e) == k && hentOwner (t.hentOf e) != s.kern.owner

def execBkinit (g : Guard) (k : BitVec 4) (d a : SReg) (s : State) : Res :=
  issueChk (.bkinit g k d a) g s
    (fun s =>
      let w := s.rS a
      firstTrap [caseTrap 8 [(8, bkinitBad s k.toNat, 0)],
        caseTrap 7 [(6, fld w 0 10 == 0 || decide (768 < fld w 0 10) || fld w 10 6 != 0 || fld w 24 7 != 0 ||
          fld w 32 32 != 0 || (fld w 31 1 == 1 && fld w 16 8 == 0), w)],
        lowestTrap 5 (sramCases s (s.rS d) (64 * fld w 0 10 * (fld w 16 8 + 1)) 64)])
    fun s => (s.pendMe latAlu (.bkinit k.toNat ((s.rS d).toNat / 64) (s.rS a))).retire g

/-- The claim of a BKAW at this position, with what its destination receives. -/
def State.bkClaim (s : State) (site k : Nat) : Option (W64 × State) :=
  let b := (s.tile site).basket k
  (b.pick false).map fun i =>
    (word64 [(32, i), (0, b.off i)], s.modTile site fun t => t.setBasket k (b.claim i .claimed))

/-- BKAW: a slot is claimed at this position where one can be; else .try answers all ones and the plain form sleeps. -/
def execBkaw (g : Guard) (k : BitVec 4) (d : SReg) (once : Bool) (s : State) : Res :=
  issueChk (.bkaw g k d once) g s (fun s => caseTrap 8 [(9, !s.basketOk k.toNat, 0)]) fun s =>
    match s.bkClaim s.curSite k.toNat with
    | some (v, s) => (s.writeS latAlu d v).retire g
    | none => if once then (s.writeS latAlu d 0xFFFFFFFFFFFFFFFF).retire g else s.sleepOn g (.bkaw k.toNat d)

/-- Whether slot i of a basket is in one of the states. -/
def Basket.slotIn (b : Basket) (i : Nat) (l : List BState) : Bool := decide (i ≤ b.nm1) && l.contains (b.stateOf i)

def execBkpost (g : Guard) (k : BitVec 4) (a b : SReg) (s : State) : Res :=
  issueChk (.bkpost g k a b) g s
    (fun s =>
      let w := s.rS b
      let bk := s.here.basket k.toNat
      let bound := match s.here.entryFor (fld w 0 8) with
        | some e => hentOwner (s.here.hentOf e) == s.kern.owner && hentBasket (s.here.hentOf e) == k.toNat
        | none => false
      firstTrap [caseTrap 8 [(9, !s.basketOk k.toNat || !bk.slotIn (s.rS a).toNat [.claimed], 0)],
        caseTrap 7 [(6, (fld w 60 4 != 1 && fld w 60 4 != 2) || fld w 48 12 != 0 || fld w 8 8 != 0 ||
          decide (bk.bytes < fld w 16 32) || !bound, w)]])
    fun s => (s.pendMe latAlu (.bkpost k.toNat (s.rS a).toNat (s.rS b))).retire g

def execBkrel (g : Guard) (k : BitVec 4) (a : SReg) (s : State) : Res :=
  issueChk (.bkrel g k a) g s
    (fun s => caseTrap 8 [(9, !s.basketOk k.toNat ||
      !(s.here.basket k.toNat).slotIn (s.rS a).toNat [.claimed, .held], 0)])
    fun s => (s.pendMe latAlu (.bkrel k.toNat (s.rS a).toNat)).retire g

/-! ### Barriers (R315 to R318) -/

/-- Whether a handle breaches R315. -/
def handleBad (s : State) (h : W64) (mem : Bool) : Bool :=
  if mem then
    h.toNat % 16 != 0 ||
      (match gaddr h with | .tile _ bank _ => bank != 2 | .virt _ => false | .reserved => true)
  else fld h 5 27 != 0 || fld h 54 10 != 0 || coordPkg (fld h 32 22) != s.pkg

/-- The checks of a handle. -/
def handleTrap (s : State) (h : W64) (mem : Bool) (count : List (Nat × Bool × W64)) : Option Trap :=
  firstTrap [lowestTrap 7 (count ++ [(5, handleBad s h mem, h)]),
             if mem then lowestTrap 5 (gaddrCases h 16) else none]

/-- The count that a count word gives (R317). -/
def State.barCount (s : State) (w : W64) : Nat :=
  if fld w 63 1 = 1 then s.kern.participants (fld w 0 3) * (s.kern.rankSize * s.kern.mains.length) else fld w 0 32

/-- Whether a count word is outside its limits. -/
def countBad (s : State) (w : W64) (mem : Bool) : Bool :=
  (if fld w 63 1 = 1 then fld w 3 60 != 0 else fld w 32 31 != 0) || s.barCount w == 0 ||
    decide ((if mem then 2 ^ 32 - 1 else 65535) < s.barCount w)

def execBari (g : Guard) (d a : SReg) (mem : Bool) (q : QTag) (s : State) : Res :=
  let i := Instr.bari g d a mem q
  issueQ i g q s (fun s => handleTrap s (s.rS d) mem [(1, countBad s (s.rS a) mem, s.rS a)]) Tile.reqRoom fun s =>
    s.request i q.tagOf (.bari (s.barCount (s.rS a))) (s.rS d) mem 0 false

def execBara (g : Guard) (d : SReg) (mem : Bool) (q : QTag) (s : State) : Res :=
  let i := Instr.bara g d mem q
  issueQ i g q s (fun s => handleTrap s (s.rS d) mem []) Tile.reqRoom fun s =>
    s.request i q.tagOf .arrive (s.rS d) mem 0 false

def execBarw (g : Guard) (d : SReg) (mem : Bool) (s : State) : Res :=
  let i := Instr.barw g d mem
  issue i g s (fun s => handleTrap s (s.rS d) mem []) (fun s => s.here.reqRoom) fun s =>
    (s.request i none .arrive (s.rS d) mem 0 true).sleepOn g (.bar (s.rS d) mem none false)

/-! ### Monitors (R319) -/

/-- The monitor that a WAITM takes: the lowest free one, where R319 says only one of the sixteen (DESIGN CHOICE,
notes/assumptions/81.md). -/
def Tile.freeMon (t : Tile) : Option Nat := (List.range 16).find? fun n => !t.mons.any (·.1 == n)

def execWaitm (g : Guard) (d a : SReg) (cc : WCond) (s : State) : Res :=
  let i := Instr.waitm g d a cc
  issue i g s (fun s => lowestTrap 5 (sramCases s (s.rS d) 8 8)) (fun s => s.here.freeMon.isSome) fun s =>
    let n := s.here.freeMon.getD 0
    let m : Mon := { slot := s.curSlot, cond := cc, word := s.phys (s.rS d).toNat / 8, val := s.rS a, armed := false }
    ((s.modHere fun t => { t with mons := put n m t.mons }).access (s.trace (wordOf i) none) (.arm n)).sleepOn g
      (.mon n false)

/-! ### Pre-emption points and marks (R321, R322) -/

/-- Whether a compact pre-emption request stands for a kernel's node. -/
def State.compactStands (s : State) (k : Kernel) : Bool :=
  s.sched.preempts.any fun p => p.l == k.l && p.node == k.node && p.compact && !p.stopped

def execPrep (g : Guard) (s : State) : Res :=
  issueChk (.prep g) g s mainOnly fun s => if s.compactStands s.kern then s.sleepOn g .prep else s.retire g

/-- The address fault of a range that passes the end of the allocation. -/
def rangeTrap (s : State) (d a : SReg) : Option Trap :=
  caseTrap 5 [(1, s.rS a != 0 && decide (s.kern.sram < (s.rS d).toNat + (s.rS a).toNat), s.rS d)]

/-- KEEP marks the granules that the range touches: kept (1) or, for KEEP.none, plain (0). -/
def execKeep (g : Guard) (d a : SReg) (plain : Bool) (s : State) : Res :=
  issueChk (.keep g d a plain) g s (fun s => rangeTrap s d a) fun s =>
    let lo := (s.rS d).toNat
    let n := (s.rS a).toNat
    (s.pendMe latAlu (.marks (lo / 64) (if n = 0 then lo / 64 else (lo + n + 63) / 64) (if plain then 0 else 1))).retire g

/-- DISC marks discardable (2) the granules that lie wholly inside the range. -/
def execDisc (g : Guard) (d a : SReg) (s : State) : Res :=
  issueChk (.disc g d a) g s (fun s => rangeTrap s d a) fun s =>
    let lo := (s.rS d).toNat
    (s.pendMe latAlu (.marks ((lo + 63) / 64) ((lo + (s.rS a).toNat) / 64) 2)).retire g

/-! ### Network reductions and broadcast (R323, R324) -/

/-- N of a group word, whether it is a count that R323 admits, and whether the rest of the word breaches R323. -/
def groupN (w : W64) : Nat := fld w 0 16
def groupNBad (w : W64) : Bool := groupN w == 0 || decide (4096 < groupN w)
def groupBad (w : W64) : Bool := fld w 19 12 != 0 || (fld w 31 1 == 0 && fld w 32 32 != 0)

/-- The contributions that a group word asks for (R324). -/
def State.groupCount (s : State) (w : W64) : Nat :=
  if fld w 31 1 = 1 then fld w 32 32 else s.kern.participants (fld w 16 3) * s.kern.rankSize

/-- The key of a group among the collectives of a tile: level and the fields above it. -/
def Kernel.groupKey (k : Kernel) (level : Nat) : Nat := level + 8 * (k.wid.toNat / 2 ^ k.boundary level)

/-- The collectives that a tile has issued for a launch and a group (R324). -/
def Tile.collCount (t : Tile) (l key : Nat) : Nat := getD 0 (getD [] t.collSeq l) key

/-- One more collective issued for a launch and a group. -/
def Tile.countColl (t : Tile) (l key : Nat) : Tile :=
  { t with collSeq := put l (put key (t.collCount l key + 1) (getD [] t.collSeq l)) t.collSeq }

def issueColl (i : Instr) (g : Guard) (q : QTag) (d a b : SReg) (size : Nat) (op : Option AOp) (root : Bool) (s : State) :
    Res :=
  issueQ i g q s
    (fun s => firstTrap [caseTrap 7 [(1, groupNBad (s.rS b), s.rS b), (10, groupBad (s.rS b), s.rS b)],
      lowestTrap 5 (sramCases s (s.rS d) (groupN (s.rS b) * 2 ^ size) (2 ^ size) ++
        sramCases s (s.rS a) (groupN (s.rS b) * 2 ^ size) (2 ^ size))])
    (fun t => t.collQ.length < 4) fun s =>
      let w := s.rS b
      let key := s.kern.groupKey (fld w 16 3)
      let c : CEntry := { tr := s.trace (wordOf i) q.tagOf, iss := s.cyc, d := s.phys (s.rS d).toNat, a := s.phys (s.rS a).toNat,
                          n := groupN w, size := size, op := op, root := root, group := w, count := s.groupCount w,
                          level := fld w 16 3, index := s.here.collCount s.kern.l key }
      let s := s.modHere fun t => t.countColl s.kern.l key
      if s.groupCount w = 0 then s.complete c.tr else s.modHere fun t => { t with collQ := t.collQ ++ [c] }

def execNred (g : Guard) (d a b : SReg) (op : AOp) (size : BitVec 2) (q : QTag) (s : State) : Res :=
  issueColl (.nred g d a b op size q) g q d a b size.toNat (some op) false s

def execNbcast (g : Guard) (d a b : SReg) (size : BitVec 2) (root : Bool) (q : QTag) (s : State) : Res :=
  issueColl (.nbcast g d a b size root q) g q d a b size.toNat none root s

end Sys2Proof.Machine
end

