-- ==== Sys2Proof/Machine/Slots.lean ====
section
/-!
DEFINITION. The steps of slots, handlers and arrivals: landing, holds, waking, retries, handler selection and aging, the
counting of arrivals, fault delivery, deferred traps and sequential PC faults (R36, R38, R44, R49, R54 to R59, R458,
R460, R477, R524).
-/

namespace Sys2Proof.Machine

def execLandingCycle (site slot : Nat) (s : State) : Res := .next (s.landSlot site slot)

/-- One more hold position passes; after the last the slot is in RUN (R36). -/
def execHoldExpiry (site slot : Nat) (s : State) : Res :=
  .next (if (s.slot site slot).state == .held then
    s.modSlot site slot fun x => { x with hold := x.hold - 1, state := if x.hold ≤ 1 then .run else .held }
  else s)

/-! ### Waking (R49, R75) -/

/-- Whether the slot has local accesses that have not reached their SRAM cycle. -/
def Tile.accessing (t : Tile) (slot : Nat) : Bool := t.accesses.any (·.tr.slot == slot)

/-- Whether a slot has a remote load or fetching atomic that has not been answered. -/
def Tile.readsOpen (t : Tile) (slot : Nat) : Bool :=
  t.remote.any fun r => r.req.tr.slot == slot &&
    (match r.req.kind with | .rld _ => true | .ratf .. => true | _ => false)

/-- Whether the wake condition of a slot holds. R134 leaves open when the stores that a CWB waits for are performed: they are
performed at the wake itself, so that the slot wakes at its first own position from c + 4 on at which none of its accesses is still
to come (notes/assumptions/105.md). DESIGN CHOICE -/
def State.wakeMet (s : State) (site slot : Nat) : Bool :=
  let t := s.tile site
  match (t.slot slot).wake with
  | none => true
  | some (.time c) => decide (c ≤ s.cyc)
  | some (.tags mask any) =>
    if mask = 0 then true else if any then t.tags &&& mask != 0 else t.tags &&& mask == mask
  | some (.bar _ _ _ met) => met
  | some (.mon _ met) => met
  | some (.phase met) => met
  | some (.swap met) => met
  | some (.fence k scope landed) =>
    (k == .rel || decide (landed ≤ s.cyc)) &&
      (!fenceWide k scope || (!t.accessing slot && !t.elemsOpen (·.ofSlot slot) && !t.readsOpen slot))
  | some (.code cwb c) => decide (c ≤ s.cyc) && (!cwb || !t.accessing slot)
  | some (.bkaw k _) => ((t.basket k).pick false).isSome
  | some .prep => !s.compactStands (t.kernelOf (t.slot slot).kern)

/-- What the end of a wait brings about beside the waking: the stores that it waited for are performed at every scope
(R134), and a BKAW claims its slot and delivers its destination (R314). -/
def State.wakeEffect (s : State) (site slot : Nat) (w : Wake) : State :=
  match w with
  | .fence k scope _ => if fenceWide k scope then s.modTile site fun t => t.performStores slot else s
  | .code true _ => s.modTile site fun t => t.performStores slot
  | .bkaw k d =>
    match s.bkClaim site k with
    | some (v, s) =>
      if d = 0 then s
      else s.modSlot site slot fun x => { x with pend := x.pend ++ [⟨s.cyc + latAlu, s.cyc, .s d.toNat v, false⟩] }
    | none => s
  | _ => s

/-- A slot in ASLEEP whose condition holds: RUN, or HELD where the waiting instruction had a hold, of which this position is
the first (R36). -/
def execSlotWake (site slot : Nat) (s : State) : Res :=
  .next (
    let x := s.slot site slot
    if x.state == .asleep && s.wakeMet site slot then
      let s := match x.wake with
        | some w => s.wakeEffect site slot w
        | none => s
      let h := x.wakeHold
      s.modSlot site slot fun x =>
        { x with wake := none, wakeHold := 0, hold := h - 1, state := if 1 < h then .held else .run }
    else s)

/-- A slot in BACKED tries its instruction again (R44). -/
def execBackedRetry (site slot : Nat) (s : State) : Res :=
  .next (if (s.slot site slot).state == .backed then s.modSlot site slot fun x => { x with state := .run } else s)

/-! ### Handlers (R54 to R59) -/

/-- Whether a load of the slot has not landed, or any write has not (R55). -/
def Tile.writesOpen (t : Tile) (cyc slot : Nat) : Bool :=
  (t.slot slot).pend.any (fun p => match p.eff with
      | .latch _ => false
      | .tclr _ => decide (cyc + 1 < p.land)
      | _ => decide (cyc < p.land)) ||
    t.accesses.any fun a => a.tr.slot == slot &&
      (match a.act with | .load .. => true | .vload .. => true | .atom .. => true | _ => false)

/-- A latch is busy while a running handler holds it, and until its release has taken effect (R55, R283). -/
def Tile.latchBusy (t : Tile) (l : Nat) : Bool :=
  t.slots.any fun (_, x) => (x.hnd.any fun h => h.held && h.latch == l) ||
    x.pend.any fun p => match p.eff with | .latch k => k == l | _ => false

/-- Whether the tiles of a node on other packages have come to rest, of a node that spans packages: a free value each cycle. -/
def State.othersRest (s : State) (k : Kernel) : Bool := !s.spanning k || Config.freeBit (2 ^ 66 + s.cyc)

/-- Whether selection on a node's handler slots is masked: a compact request stands and every main slot of the node is asleep in
PREP or DONE (R384). -/
def State.selectionMasked (s : State) (k : Kernel) : Bool :=
  s.compactStands k && s.othersRest k && s.tiles.all fun (_, t) => (t.kernels.filter (·.isOf k.l k.node)).all fun q =>
    q.mains.all fun n => (t.slot n).state == .done || ((t.slot n).state == .asleep && (t.slot n).wake == some .prep)

/-- The candidates of a handler slot (R55). -/
def Tile.candidates (t : Tile) (owner : Nat) : List Nat :=
  (List.range 32).filter fun n =>
    let w := t.hentOf n
    let h := t.hsteOf n
    hentValid w && hentOwner w == owner && decide (0 < h.pend) && !h.running && !hentMask w && !t.latchBusy (hentLatch w)

/-- The better of two candidates: an aged one before others, then the higher priority among those that have not aged,
then the lower channel (R55, R56). -/
def Tile.better (t : Tile) (a b : Nat) : Nat :=
  let key (n : Nat) : Nat :=
    let p := if (t.hsteOf n).aged then 8 else hentPrio (t.hentOf n)
    256 * (8 - p) + hentChan (t.hentOf n)
  if key b < key a then b else a

/-- The words that a latch receives (R276, R277). -/
def Arrival.latch (a : Arrival) : List W64 :=
  arrivalWord a.kind a.chan a.basket (a.slot.getD 0xFFFF) a.len :: a.words

/-- Handler selection at a position of an idle handler slot: the entry's oldest counted arrival goes into its latch, its
basket slot is held, and the slot stands at the entry point. -/
def execHandlerSelection (site slot : Nat) (s : State) : Res :=
  .next (
    let t := s.tile site
    let x := t.slot slot
    let k := t.kernelOf x.kern
    if x.state == .run && x.hslot && x.hnd.isNone && !t.writesOpen s.cyc slot && !s.selectionMasked k then
      match t.candidates k.owner with
      | [] => s
      | c :: l =>
        let n := l.foldl t.better c
        let w := t.hentOf n
        match t.arrivals.find? fun a => a.entry == some n with
        | none => s
        | some a =>
          let h := t.hsteOf n
          let t := { t with arrivals := t.arrivals.erase a, latches := put (hentLatch w) a.latch t.latches }
          let t := match a.slot with
            | some i => t.setBasket a.basket ((t.basket a.basket).setSt i .held)
            | none => t
          let t := t.setHste n { h with pend := h.pend - 1, running := true, aged := false }
          s.setTile site (t.modSlot slot fun x =>
            { x with pc := hentPc w, lastTr := none,
                     hnd := some { entry := n, chan := hentChan w, latch := hentLatch w, held := true, counted := 0 } })
    else s)

/-- AGE of a runnable, unmasked entry has reached 4,096 (R56). -/
def execHandlerAged (site entry : Nat) (s : State) : Res :=
  .next (
    let t := s.tile site
    let h := t.hsteOf entry
    if 0 < h.pend && !h.running && 4096 ≤ h.age && !h.aged then s.setTile site (t.setHste entry { h with aged := true })
    else s)

/-- A handler over its budget, its precise fault already taken at the position before (R524). -/
def execHandlerOverrun (site slot : Nat) (s : State) : Res :=
  .next (
    let s := { s with curSite := site, curSlot := slot }
    if s.overLimit then s.overrunAt (loadNat s.here.sram (s.kern.sbase + 8 * s.me.pc) 8) else s)

/-- Arrivals whose last byte is written count in the cycle after, so their basket slots are ready, and PEND rises two
cycles later (R54); PEND wraps at 2^16, where R54 is silent (DESIGN CHOICE, notes/assumptions/84.md). An arrival on a channel
that no valid entry binds any longer stays as it is; one that has counted waits for the handler of its entry. -/
def execArrivalCounts (site : Nat) (s : State) : Res :=
  .next (
    let t := s.tile site
    let ready := t.arrivals.filter fun a => a.due ≤ s.cyc + 2
    let t := ready.foldl (fun t a => match a.slot with
      | some i =>
        if (t.basket a.basket).stateOf i == .filling then t.setBasket a.basket ((t.basket a.basket).setSt i .ready) else t
      | none => t) t
    let up := t.arrivals.filter fun a => a.due ≤ s.cyc && a.entry.isNone && (t.entryFor a.chan).isSome
    let t := up.foldl (fun t a => match t.entryFor a.chan with
      | some n =>
        let h := t.hsteOf n
        let t := t.setHste n { h with pend := (h.pend + 1) % 2 ^ 16, age := if h.pend = 0 && !h.running then 0 else h.age }
        { t with progress := put (hentOwner (t.hentOf n)) s.cyc t.progress }
      | none => t) t
    s.setTile site { t with arrivals := t.arrivals.map fun a =>
      if a.due ≤ s.cyc && a.entry.isNone then { a with entry := t.entryFor a.chan } else a })

/-! ### Faults at a slot's own position -/

/-- The waits that a trap withdraws leave their monitor, with its first read where that is still to come, their arrival, which
wakes nobody from then on, and their swap (R317, R319, R460). -/
def State.withdrawWait (s : State) (site slot : Nat) : State :=
  match (s.slot site slot).wake with
  | some (.mon n _) =>
    s.modTile site fun t => { t with mons := erase n t.mons, accesses := t.accesses.filter fun a => a.act != .arm n }
  | some (.bar ..) =>
    s.modTile site fun t => { t with remote := t.remote.map fun q => if q.req.tr.slot = slot then { q with barw := false } else q }
  | some (.swap _) => s.modTile site fun t => { t with box := { t.box with swapWait := false } }
  | _ => s

/-- Whether the wait of a sleeping slot covers a fault (R458). -/
def Wake.covers (w : Wake) (f : FaultRec) : Bool :=
  match w with
  | .tags mask _ => f.underTags mask
  | .fence k scope _ => f.fence && fenceWide k scope
  | .bar .. => f.barw
  | .phase _ => true
  | .swap _ => f.swap
  | _ => false

/-- The slots whose faults a sleeping slot's wait covers. -/
def Tile.coverSlots (t : Tile) (slot : Nat) : List Nat :=
  let x := t.slot slot
  let k := t.kernelOf x.kern
  match x.wake with
  | some (.phase _) =>
    if k.mains.head? = some slot then slot :: (k.slots.map (·.1)).filter fun n => !k.mains.contains n else [slot]
  | _ => [slot]

/-- The oldest fault that the wait of a sleeping slot covers. -/
def Tile.coveredFault (t : Tile) (slot : Nat) : Option FaultRec :=
  match (t.slot slot).state, (t.slot slot).wake with
  | .asleep, some w => (t.coverSlots slot).findSome? fun n => (t.slot n).faults.find? w.covers
  | _, _ => none

/-- A recorded fault is delivered to a slot asleep at a covering point; TEPC names the point (R458, R299). -/
def execFaultDelivery (site slot : Nat) (s : State) : Res :=
  .next (match (s.tile site).coveredFault slot with
    | some f => (s.withdrawWait site slot).deliver slot f ((s.slot site slot).pc - 1)
      ((s.tile site).coverSlots slot)
    | none => s)

/-- The first deferred poison fault that is due at a slot, whatever state it is in (R460). -/
def Slot.deferredDue (x : Slot) (cyc : Nat) : Option (Nat × FaultRec) :=
  if x.state == .empty then none else x.deferred.find? fun d => d.1 ≤ cyc

/-- A deferred trap: nothing issues, a hold is discarded and a wait withdrawn; TEPC names the instruction that would have
issued (notes/assumptions/14.md). A slot in STOPPED takes it and stays STOPPED, to go on in the trap routine. -/
def execDeferredTrap (site slot : Nat) (s : State) : Res :=
  .next (match (s.slot site slot).deferredDue s.cyc with
    | some d =>
      let x := s.slot site slot
      let covered := (s.tile site).coverSlots slot
      let t := (s.withdrawWait site slot).modSlot site slot fun x => { x with deferred := x.deferred.erase d }
      let t := t.takeFaultAt slot d.2 x.pc covered
      if x.state == .stopped then t.modSlot site slot fun y =>
        if y.state == .run then { y with state := .stopped, resume := .run } else y
      else t
    | none => s)

/-- The program counter has passed the last word of the allocation: class 6 with code 0x02 against that word, TEPC its
successor; at a trap vector beyond it code 0x04 (R477). -/
def execSequentialPcFault (site slot : Nat) (s : State) : Res :=
  .next (
    let s := { s with curSite := site, curSlot := slot }
    let x := s.me
    if x.state == .run && s.kern.sram / 8 ≤ x.pc then
      let s := if s.overLimit then s.modMe fun x => { x with overrun := true } else s
      match x.lastTr with
      | some tr => s.takeFault (s.faultRec tr ⟨6, 2, 0, 0⟩ false) x.pc
      | none => s.takeFault (s.faultRec (s.trace 0 none) ⟨6, 4, 0, 0⟩ false) x.pc
    else s)

end Sys2Proof.Machine
end

