-- ==== Sys2Proof/Machine/Routing.lean ====
section
/-!
DEFINITION. Where packets travel (R397, R398, R408, R535) and what the gateways check (R419, R420): the path of a packet
inside the package, the way out of it, the home slice or attach point of an HBM address, and the owner checks.
-/

namespace Sys2Proof.Machine

/-! ### Paths inside the package (R397) -/

/-- The site at a column and row of the package-wide grid. -/
def siteAt (x y : Nat) : Nat := (2 * (y / 16) + x / 16) * 256 + y % 16 * 16 + x % 16

/-- A step from a towards b along one axis. -/
def toward (a b : Nat) : Nat := if a < b then a + 1 else a - 1

/-- Where a packet stands and whether it goes around a dead router of the destination column, whose row is then kept. -/
structure Walk where
  x : Nat
  y : Nat
  around : Option Nat
  deriving DecidableEq, Repr

/-- The next step of a packet bound for (dx, dy), before it is known whether the router it leads to is live. -/
def Walk.next (live : Nat → Nat → Bool) (dx dy : Nat) (w : Walk) : Walk :=
  match w.around with
  | some dead =>
    if w.y = dy || (w.y != dead && (decide (dead < w.y) == decide (dead < dy)) && live dx w.y) then { w with x := dx, around := none }
    else { w with y := toward w.y dy }
  | none =>
    if w.x != dx then
      if live (toward w.x dx) w.y then { w with x := toward w.x dx }
      else if w.y != dy then { w with y := toward w.y dy }
      else { w with y := if w.y = 31 then 30 else w.y + 1 }
    else if live w.x (toward w.y dy) then { w with y := toward w.y dy }
    else { w with x := if w.x = 31 then 30 else w.x + 1, around := some (toward w.y dy) }

/-- The sites that a packet passes on its way, in order; none where its destination is unreachable: the rule would step
onto a dead router, or back into one that the path has left. -/
def walkTo (live : Nat → Nat → Bool) (dx dy : Nat) : Nat → List Nat → Walk → Option (List Nat)
  | 0, _, _ => none
  | n + 1, past, w =>
    let here := siteAt w.x w.y
    if w.x = dx && w.y = dy then some (past ++ [here])
    else
      let v := w.next live dx dy
      let dest := siteAt v.x v.y
      if !live v.x v.y || past.contains dest || dest = here then none else walkTo live dx dy n (past ++ [here]) v

/-- The path between two sites by the routing tables. -/
def State.path (s : State) (src dst : Nat) : Option (List Nat) :=
  let live := fun x y => s.mg.tables.contains (siteAt x y)
  if s.mg.rtsvc.contains dst then walkTo live (siteX dst) (siteY dst) 1025 [] ⟨siteX src, siteY src, none⟩ else none

/-- Whether a path crosses a seam. -/
def crosses (p : List Nat) : Bool := (p.zip (p.drop 1)).any fun (a, b) => a / 256 != b / 256

/-! ### HBM: home slices and attach points (R125, R126, R535) -/

/-- The nearest of some sites along an edge whose router is live, the first on a tie; d gives the distance. -/
def nearest (live : Nat → Bool) (d : Nat → Nat) (l : List Nat) : Option Nat :=
  (List.range 16).findSome? fun k => l.find? fun n => d n == k && live n

/-- The distance between two numbers. -/
def apart (a b : Nat) : Nat := Nat.max a b - Nat.min a b

/-- The site of the attach point of a stack. -/
def State.attach (s : State) (stack : Nat) : Option Nat :=
  let die := stack / 2
  let row := if die < 2 then 0 else 15
  let x0 := if stack % 2 = 0 then 3 else 11
  nearest s.mg.rtsvc.contains (fun n => apart (n % 16) x0) ((List.range 16).map fun x => die * 256 + row * 16 + x)

/-- The stack of an HBM physical address, and its offset within that stack (R31). -/
def stackOf (pa : Nat) : Nat := pa / 4096 % 8
def stackOffset (pa : Nat) : Nat := pa / 32768 * 4096 + pa % 4096

/-- Whether n bytes from a physical address name HBM (R31). -/
def inHbm (pa n : Nat) : Bool := decide (pa + n ≤ 2 ^ 39)

/-- The number of the home slice of an HBM physical address. -/
def State.homeSlice (s : State) (pa : Nat) : Nat := pa / 512 % s.mg.slices.length

/-- The site whose vault controller serves an HBM address, where the memory-side cache is in use and the home slice is not
bypassed (R127, R128). -/
def State.sliceSite (s : State) (pa : Nat) : Option Nat :=
  if s.mg.msEn && !s.mg.slices.isEmpty then
    let site := (nth s.mg.slices (s.homeSlice pa) (0, 0)).1
    if s.mg.bypassed.contains site then none else some site
  else none

/-- The site that an access to an HBM address of this package is routed to. -/
def State.hbmSite (s : State) (pa : Nat) : Option Nat :=
  match s.sliceSite pa with
  | some n => some n
  | none => s.attach (stackOf pa)

/-- The 512-byte granules of n bytes from an HBM address, each by an address in it: the address itself, then the bases. -/
def homeGranules (pa n : Nat) : List Nat :=
  pa :: (List.range ((pa + n - 1) / 512 - pa / 512)).map fun i => 512 * (pa / 512 + 1 + i)

/-! ### Ways out of the package (R398, R406, R408) -/

/-- Lane group n as its register holds it. -/
def State.lane (s : State) (n : Nat) : W64 := getD 0 s.mg.lgb n

/-- Whether a lane group passes traffic: it is bound and live, and its port enabled (R435). -/
def State.laneUp (s : State) (n : Nat) : Bool :=
  fld (s.lane n) 63 1 == 1 && fld (s.lane n) 60 1 == 1 && bitOf s.mg.portEn (n / 4)

/-- Whether a lane group belongs to the packet pool and passes traffic. -/
def State.poolLive (s : State) (n : Nat) : Bool := s.laneUp n && fld (s.lane n) 61 2 == 0

/-- The egress port for a destination package. A byte that names none of the 36 ports is no route, as 0xFF is
(notes/assumptions/86.md). DESIGN CHOICE -/
def State.portFor (s : State) (pkg : Nat) : Option Nat :=
  let b := fld (getD 0xFFFFFFFFFFFFFFFF s.mg.fwdt (pkg / 8)) (8 * (pkg % 8)) 8
  if b < 36 then some b else none

/-- The lane group by which a packet for another package leaves. -/
def State.poolGroup (s : State) (pkg : Nat) : Option Nat :=
  (s.portFor pkg).bind fun p => ((List.range 4).map (4 * p + ·)).find? s.poolLive

/-- The edge site by which traffic of a row and half reaches the I/O die on the west (0) or east (1). -/
def State.edgeSite (s : State) (io site : Nat) : Option Nat :=
  let die := 2 * (site / 512) + io
  let row := site / 16 % 16
  nearest s.mg.rtsvc.contains (fun n => apart (n / 16 % 16) row)
    ((List.range 16).map fun y => die * 256 + y * 16 + 15 * io)

/-- Whether packets for a package have a way out: a live pool group of the egress port (R408). -/
def State.wayOut (s : State) (pkg : Nat) : Bool := (s.poolGroup pkg).isSome

/-- The circuit bound for the traffic of an owner with a package: USE 1 a ring circuit, 2 a reduction edge (R407). -/
def State.bound (s : State) (use owner pkg : Nat) : Option Nat :=
  (List.range 144).find? fun n =>
    let w := s.lane n
    fld w 63 1 == 1 && fld w 61 2 == use && fld w 28 12 == owner && fld w 48 12 == pkg

/-- Whether traffic leaves: by its circuit where one is bound for it, else by the packet pool (R407, R506). -/
def State.hasWay (s : State) (circ : Option Nat) (pkg : Nat) : Bool :=
  match circ with
  | some n => s.laneUp n
  | none => s.wayOut pkg

/-- A lane group that has brought a message, where it is a circuit: the answer goes back along it. -/
def State.circuitOf (s : State) (via : Option Nat) : Option Nat := via.filter fun n => fld (s.lane n) 61 2 != 0

/-- The path from a site to a destination that a packet travels to inside the package, and whether it crosses a seam or an
edge bridge. -/
def State.wayTo (s : State) (src : Nat) : PDest → Option Bool
  | .tile coord _ =>
    if coordPkg coord = s.pkg then (s.path src (coordSite coord)).map crosses
    else (s.poolGroup (coordPkg coord)).bind fun g => (s.edgeSite (g / 72) src).bind fun e => (s.path src e).map fun _ => true
  | .hbm pkg pa =>
    if pkg = s.pkg then (s.hbmSite pa).bind fun n => (s.path src n).map crosses
    else (s.poolGroup pkg).bind fun g => (s.edgeSite (g / 72) src).bind fun e => (s.path src e).map fun _ => true
  | .host port _ => (s.edgeSite port src).bind fun e => (s.path src e).map fun _ => true

/-- The site inside this package at which a packet for a destination of this package ends. -/
def State.destSite (s : State) : PDest → Option Nat
  | .tile coord _ => some (coordSite coord)
  | .hbm _ pa => s.hbmSite pa
  | .host _ _ => none

/-- Whether a packet that a lane group brings reaches its destination: it enters at the edge site of the destination's row and
half beside the group's I/O die, and is routed from there (R398, R405). -/
def State.wayIn (s : State) (lane : Nat) (dst : PDest) : Bool :=
  (s.destSite dst).any fun n => (s.edgeSite (lane / 72) n).any fun e => (s.path e n).isSome

/-- The way of a message to a destination of this package, from the tile of its source or from the lane group that brings it:
none where the destination is unreachable, else whether a seam or an edge bridge lies on it. -/
def State.wayOf (s : State) (via : Option Nat) (src : Nat) (dst : PDest) : Option Bool :=
  match via with
  | some lane => if s.wayIn lane dst then some true else none
  | none => s.wayTo (coordSite src) dst

/-! ### Sending -/

/-- The package that a packet is bound for (R535). -/
def destPackage (own : Nat) : PDest → Nat
  | .tile coord _ => coordPkg coord
  | .hbm p _ => p
  | .host _ _ => own

/-- What a fabric interface sends to another package: by a circuit, or by the packet pool. What has no way out is lost
(R505). -/
def State.emitOn (s : State) (circ : Option Nat) (pkg : Nat) (m : Msg) : State :=
  if s.hasWay circ pkg then { s with outbox := s.outbox ++ [.msg pkg m] } else s

/-- A message that leaves for another package, by the circuit bound for it or by the packet pool, or travels inside this one.
While the routing tables are rewritten the network interfaces hold it (R510). -/
def State.postOn (s : State) (circ : Option Nat) (pkg : Nat) (m : Msg) : State :=
  if pkg = s.pkg then s.send m
  else if s.rewriting then { s with heldMsgs := s.heldMsgs ++ [(circ, pkg, m)] }
  else s.emitOn circ pkg m

def State.post (s : State) (pkg : Nat) (m : Msg) : State := s.postOn none pkg m

/-! ### Gateways (R419, R420, R512) -/

/-- The partition of a site. -/
def State.siteAsp (s : State) (site : Nat) : Nat := fld (getD 0 s.mg.partmap (site / 16)) (4 * (site % 16)) 4

/-- Whether an owner identifier is that of a valid partition of the package. -/
def State.validOwner (s : State) (owner : Nat) : Bool :=
  (List.range 16).any fun a => fld (getD 0 s.mg.part a) 63 1 == 1 && s.ownerOf a == owner

/-- The class 12 code with which the interface of a tile rejects what an owner sends to it. -/
def State.gateTile (s : State) (site owner : Nat) : Option Nat :=
  if s.mg.prst = some (s.siteAsp site) then some 0x0C
  else if s.ownerOf (s.siteAsp site) = owner then none else some 1

/-- The code with which a seam port, an edge bridge or a fabric interface rejects it. -/
def State.gatePkg (s : State) (owner : Nat) : Option Nat := if s.validOwner owner then none else some 2

/-- The first gateway that rejects a packet of an owner on its way to its destination in this package. -/
def State.gate (s : State) (owner : Nat) (crossed : Bool) (dst : PDest) : Option Nat :=
  match (if crossed then s.gatePkg owner else none) with
  | some c => some c
  | none =>
    match dst with
    | .tile coord _ => s.gateTile (coordSite coord) owner
    | .hbm _ _ => s.gatePkg owner
    | .host _ _ => s.gatePkg owner

/-- A rejection is counted in ERRSTAT.GW (R498). -/
def State.countGw (s : State) : State := { s with mg := { s.mg with errGW := (s.mg.errGW + 1) % 2 ^ 16 } }

/-- The code with which a circuit rejects what it brings for an owner: it carries the traffic of one (R420). -/
def State.gateCircuit (s : State) (lane owner : Nat) : Option Nat :=
  if fld (s.lane lane) 61 2 != 0 && fld (s.lane lane) 28 12 != owner then some 3 else none

/-- Why what an owner sends does not come to a destination of this package: no way to it (R397), or the first gateway that
rejects it. -/
def State.refusal (s : State) (via : Option Nat) (src owner : Nat) (dst : PDest) : Option Nat :=
  match s.wayOf via src dst with
  | none => some 7
  | some crossed =>
    match via.bind fun n => s.gateCircuit n owner with
    | some c => some c
    | none => s.gate owner crossed dst

/-- Whether a class 12 code is a rejection at a gateway, which ERRSTAT.GW counts (R491, R498). -/
def gateCode (c : Nat) : Bool := c = 1 || c = 2 || c = 3 || c = 0x0C

/-- The owner identifier that a message carries (R399, R418). -/
def msgOwner : Msg → Option Nat
  | .packet p => some p.owner
  | .claim c => some c.owner
  | .token t => some t.owner
  | .req r => some r.tr.owner
  | .resp _ _ _ _ owner _ => some owner
  | .write w => some w.owner
  | .part p => some p.owner
  | .under _ _ _ owner _ => some owner
  | .ack .. => none
  | .grant .. => none
  | .wrote .. => none
  | .unclaim .. => none

/-- The refusal of a message goes back to its source, as the answer that its kind has, along the circuit that brought it. The
refusal of a request is told at the interface of its own tile: no gateway lies on its way (R491, R503). -/
def State.turnBack (s : State) (via : Option Nat) (m : Msg) (cls code : Nat) (value : W64) : State :=
  let s := if cls = 12 && gateCode code then s.countGw else s
  let back := s.postOn (s.circuitOf via)
  match m with
  | .packet p => back (coordPkg p.src) (.ack p.src 0 p.id ((List.range p.elems.length).map fun i => ⟨i, cls, code⟩))
  | .claim c => back (coordPkg c.src) (.grant c.src c.dst c.id none code)
  | .token t => back (coordPkg t.src) (.ack t.src t.dst t.id [⟨0, cls, code⟩])
  | .req r => back (coordPkg r.src) (.resp r.src r.src r.id r.tr.asp r.tr.owner (.fail cls code))
  | .write w => back (coordPkg w.src) (.wrote w.src w.id (some (cls, code, value)))
  | _ => s

/-- A unit's message for another package passes the edge bridge and the fabric interface of its own (R420, R503), to leave by
the circuit bound for it or by the packet pool. -/
def State.departOn (s : State) (circ : Option Nat) (pkg : Nat) (m : Msg) : State :=
  if pkg = s.pkg then s.send m
  else match (msgOwner m).bind s.gatePkg with
    | some c => s.turnBack none m 12 c 0
    | none => s.postOn circ pkg m

def State.depart (s : State) (pkg : Nat) (m : Msg) : State := s.departOn none pkg m

/-! ### Taking a message (R395, R397) -/

/-- The message of a number on the planes, and the state without it. -/
def State.flight (s : State) (n : Nat) : Option Flight := s.wire.find? (·.n == n)
def State.takeMsg (s : State) (n : Nat) : State := { s with wire := s.wire.filter (·.n != n) }

/-- A number for where a packet ends, the same for the same site. -/
def State.spotKey (s : State) (dst : PDest) : Nat :=
  match dst with
  | .host port _ => 1024 + port
  | p => (s.destSite p).getD 1026

/-- The plane (true: vector), the source and the destination of a message that travels as a packet: those that share all three
arrive in the order in which they were sent (R395, R397). at gives the destination of a request. -/
def State.lineOf (s : State) (atReq : Req → PDest) : Msg → Option (Bool × Nat × Nat)
  | .packet p => some (true, p.src, s.spotKey p.dst)
  | .token t => some (true, t.src, coordSite t.dst)
  | .resp dst src _ _ _ (.data _ _) => some (true, src, coordSite dst)
  | .resp dst src _ _ _ _ => some (false, src, coordSite dst)
  | .ack dst src _ _ => some (false, src, coordSite dst)
  | .claim c => some (false, c.src, coordSite c.dst)
  | .grant dst src _ _ _ => some (false, src, coordSite dst)
  | .req r => some (false, r.src, s.spotKey (atReq r))
  | .write _ => none
  | .wrote .. => none
  | .part _ => none
  | .under .. => none
  | .unclaim .. => none

end Sys2Proof.Machine
end

