-- ==== Sys2Proof/Machine/Translate.lean ====
section
/-!
DEFINITION. Translation of virtual addresses (R114 to R119, R537), the memories of the package by place, and reads and
writes of them by parties outside the tiles, with poison, partition keys and error counts (R108, R111, R127, R411 to R413,
R469 to R471, R498); and which message on the planes may be taken (R395, R397, R510).
-/

namespace Sys2Proof.Machine

/-! ### Translation -/

/-- Kinds of access; a fetching atomic needs A and RD (R117). -/
inductive AKind where
  | read | write | atom | fetch | init
  deriving DecidableEq, Repr

/-- KIND of a translation record (R493). -/
def AKind.code : AKind → Nat
  | .read => 0 | .write => 1 | .atom => 2 | .fetch => 2 | .init => 1

/-- PERMITS: a memory-backed BARI needs W and RD (R318). -/
def permits (pme : W64) : AKind → Bool
  | .read => fld pme 3 1 == 1
  | .write => fld pme 4 1 == 1
  | .atom => fld pme 5 1 == 1
  | .fetch => fld pme 5 1 == 1 && fld pme 3 1 == 1
  | .init => fld pme 4 1 == 1 && fld pme 3 1 == 1

/-- What TRANSLATE answers: a place with the marks of its page and window, a translation fault of class 10, or an address
error of class 5. -/
inductive Xl where
  | ok (p : PDest) (marked sealed : Bool)
  | fault (code : Nat)
  | addr (code : Nat)
  /-- the page map lies in a slice that is being emptied (R128) -/
  | wait
  deriving DecidableEq, Repr

/-! ### Keys, ciphertext and line tags (R411 to R413) -/

/-- The partition keys of an address space: the XTS pair, then the CMAC key. -/
def State.keyOf (s : State) (asp : Nat) : List Byte := getD [] s.mg.keys asp

/-- The tweak of a data unit: a package, a kind of place, and the number within it. -/
def tweakOf (pkg kind x : Nat) : BitVec 128 := BitVec.ofNat 128 (x + 2 ^ 64 * kind + 2 ^ 80 * pkg)

/-- The tweak of an HBM line of this package. -/
def State.lineTweak (s : State) (line : Nat) : BitVec 128 := tweakOf s.pkg 4 (64 * line)

/-- The tweak of a line of a tile window. -/
def windowTweak (coord bank off : Nat) : BitVec 128 :=
  tweakOf (coordPkg coord) bank (word64 [(60, 8), (38, coord), (36, bank), (0, off / 64 * 64)]).toNat

/-- The tweak of a packet payload that is not whole lines. -/
def payloadTweak (pkg seq : Nat) : BitVec 128 := tweakOf pkg 5 seq

/-- Bytes as ciphertext under the keys of a partition. -/
def cipherOf (key : List Byte) (tweak : BitVec 128) (l : List Byte) : List Byte := Config.xtsEncrypt (key.take 64) tweak l

/-- The line tag: the leading 64 bits of AES-CMAC over the tweak and the ciphertext. -/
def lineTagOf (key : List Byte) (tweak : BitVec 128) (cipher : List Byte) : List Byte :=
  (Config.cmac (key.drop 64) (leBytes 16 tweak.toNat ++ cipher)).take 8

/-- What the HBM holds of a line: the 64 bytes of ciphertext and the line tag, under the keys of the last write. The state
keeps the plaintext with those keys (notes/assumptions/87.md). -/
def State.hbmLine (s : State) (line : Nat) : List Byte × List Byte :=
  let key := getD [] s.hbmKey line
  let c := cipherOf key (s.lineTweak line) (bytesAt s.hbm (64 * line) 64)
  (c, lineTagOf key (s.lineTweak line) c)

/-- Word w of entry i of the range table of an address space (R114). -/
def State.rangeWord (s : State) (asp i w : Nat) : W64 := getD 0 s.mg.ranges (1024 * asp + 4 * i + w)

/-- Whether entry i covers a virtual page. -/
def State.rangeHas (s : State) (asp i vp : Nat) : Bool :=
  let base := fld (s.rangeWord asp i 0) 16 41
  fld (s.rangeWord asp i 0) 0 1 == 1 && decide (base ≤ vp) && decide (vp - base < fld (s.rangeWord asp i 1) 0 41)

/-- Whether a line of HBM was written under other keys (R413): its line tag then fails (notes/assumptions/87.md). -/
def State.tagBad (s : State) (key : List Byte) (line : Nat) : Bool :=
  match s.hbmKey.find? (·.1 == line) with
  | some (_, k) => k != key
  | none => false

/-- Whether a line is poisoned because the slice it was homed in has been lost (R128). -/
def State.lineLost (s : State) (line : Nat) : Bool :=
  s.hbmLost.any fun (n, k, cured) => line / 8 % n == k && !cured.contains line

/-- Whether a line lies in a stack that can be read no more (R514). -/
def State.lineDead (s : State) (line : Nat) : Bool := s.mg.hbmDead.contains (stackOf (64 * line))

/-- Whether an HBM line reads poisoned under some keys. -/
def State.lineBadWith (s : State) (key : List Byte) (line : Nat) : Bool :=
  inSet line s.hbmPoison || s.lineLost line || s.lineDead line || s.tagBad key line

/-- Whether it does for a partition of this package. -/
def State.lineBad (s : State) (asp line : Nat) : Bool := s.lineBadWith (s.keyOf asp) line

/-! ### Error counts (R498) -/

/-- A granule poisoned, with PLACE, TILE and ADDR of ERRLAST; counted where the cause is one that UE counts. -/
def State.noteError (s : State) (counted : Bool) (place tile addr : Nat) : State :=
  { s with mg := { s.mg with
      errUE := if counted then (s.mg.errUE + 1) % 2 ^ 16 else s.mg.errUE,
      errLast := word64 [(61, place), (39, tile), (0, addr % 2 ^ 39)] } }

/-- The lines of a run of HBM bytes whose tag fails under some keys, or that cannot be read at all. -/
def State.badTags (s : State) (key : List Byte) (a n : Nat) : List Nat :=
  (granules 6 a n).filter fun l => (s.lineDead l || s.tagBad key l) && !inSet l s.hbmPoison && !s.lineLost l

/-- A read of HBM bytes under some keys counts every line whose tag fails (R412, R498), and every one that cannot be read (R514). -/
def State.countTags (s : State) (key : List Byte) (a n : Nat) : State :=
  (s.badTags key a n).foldl (fun s l => s.noteError true (if s.lineDead l then 4 else 5) 0 (64 * l)) s

/-! ### The translation of a page (R114 to R119, R537) -/

/-- Whether any reserved bit of a page map entry is set (R116). Bits [59:50] of an entry with HOST = 1, which R116 has zero,
count among them (notes/assumptions/88.md). DEDUCED -/
def pmeReserved (e : W64) : Bool :=
  fld e 60 2 != 0 || fld e 46 2 != 0 || fld e 8 8 != 0 || fld e 0 3 != 0 || (fld e 62 1 == 1 && fld e 50 10 != 0)

/-- HWIN_k (R416). Each function has its own (R414): a page map entry that names k means function 0's where that is usable,
else function 1's (notes/assumptions/18.md). -/
def State.hwin (s : State) (k w : Nat) : W64 :=
  getD 0 s.mg.hwin ((if fld (getD 0 s.mg.hwin (2 * k + 1)) 63 1 = 1 then 0 else 8) + 2 * k + w)

/-- The checks of every access, whether or not its translation is cached (R537), and the place. -/
def State.placeOf (s : State) (pme : W64) (off : Nat) : Xl :=
  let ppn := fld pme 16 30
  let marked := fld pme 7 1 == 1
  if fld pme 62 1 = 0 then
    if fld pme 48 12 = s.pkg || Config.inDomain (fld pme 48 12) then .ok (.hbm (fld pme 48 12) (ppn * 65536 + off)) marked false
    else .addr 8
  else
    let k := fld pme 48 2
    if fld (s.hwin k 1) 63 1 = 0 || fld (s.hwin k 1) 0 32 ≤ ppn then .addr 9
    else .ok (.host (fld (s.hwin k 1) 61 1) (fld (s.hwin k 0) 16 48 * 65536 + ppn * 65536 + off)) marked
      (fld (s.hwin k 1) 60 1 == 1)

/-- The range entry that covers a virtual page, and the physical address of the page's page map entry. -/
def State.pmeAt (s : State) (asp vp : Nat) : Option (Nat × Nat) :=
  ((List.range 256).find? fun i => s.rangeHas asp i vp).map fun i =>
    (i, fld (s.rangeWord asp i 2) 0 39 + 8 * (vp - fld (s.rangeWord asp i 0) 16 41))

/-- A walk of the range table and the page map: the entry's index and the page map entry, or the code of the fault. -/
def State.walk (s : State) (asp vp : Nat) : Except Nat (Nat × W64) :=
  match s.pmeAt asp vp with
  | none => .error 1
  | some (i, pa) =>
    if !inHbm pa 1 then .error 2
    else if s.lineBad asp (pa / 64) then .error 4
    else
      let e := BitVec.ofNat 64 (loadNat s.hbm pa 8)
      if fld e 63 1 = 0 || pmeReserved e then .error 2 else .ok (i, e)

/-- Whether the PPN of a page map entry of an HBM page is out of range. -/
def ppnBad (e : W64) : Bool := fld e 62 1 == 0 && decide (2 ^ 23 ≤ fld e 16 30)

/-- Whether an HBM access waits for its home slice, bypassed and not yet emptied (R128). -/
def State.slicing (s : State) (pa : Nat) : Bool :=
  s.mg.msEn && !s.mg.slices.isEmpty && s.mg.emptying.contains (nth s.mg.slices (s.homeSlice pa) (0, 0)).1

/-- The translations cached with one more in front; a port holds 1,024 (R119). -/
def keepXlat (x : Xlat) (l : List Xlat) : List Xlat :=
  let others := l.filter fun y => !(y.port == x.port && y.asp == x.asp && y.vpage == x.vpage)
  let mine := (others.filter (·.port == x.port)).take 1023
  x :: (mine ++ others.filter (·.port != x.port))

/-- TRANSLATE at a memory port (R117) for some kinds of access at once: the kind that decides, and the answer. A translation
that the port has cached is used, or has been evicted and is made afresh, as a free bit says (R119; notes/assumptions/16.md). -/
def State.translateFor (s : State) (port asp va : Nat) (ks : List AKind) : AKind × Xl × State :=
  let first := ks.headD .read
  if 2 ^ 57 ≤ va then (first, .addr 5, s)
  else
    let vp := va / 65536
    let fresh : Unit → AKind × Xl × State := fun _ =>
      if (s.pmeAt asp vp).any fun p => s.slicing p.2 then (first, .wait, s)
      else match s.walk asp vp with
        | .error c => (first, .fault c, match s.pmeAt asp vp with
          | some (_, pa) => if inHbm pa 1 then s.countTags (s.keyOf asp) pa 8 else s
          | none => s)
        | .ok (i, e) =>
          match ks.find? fun k => !permits e k with
          | some k => (k, .fault 3, s)
          | none =>
            if ppnBad e then (first, .fault 2, s)
            else (first, s.placeOf e (va % 65536), { s with mg := { s.mg with xlats := keepXlat ⟨port, asp, i, vp, e⟩ s.mg.xlats } })
    match s.mg.xlats.find? fun x => x.port == port && x.asp == asp && x.vpage == vp with
    | none => fresh ()
    | some x =>
      if Config.freeBit s.free then
        match ks.find? fun k => !permits x.pme k with
        | some k => (k, .fault 3, { s with free := s.free + 1 })
        | none => (first, s.placeOf x.pme (va % 65536), { s with free := s.free + 1 })
      else
        let (k, r, t) := fresh ()
        (k, r, { t with free := s.free + 1 })

/-- TRANSLATE for one kind of access. -/
def State.translate (s : State) (port asp va : Nat) (k : AKind) : Xl × State := (s.translateFor port asp va [k]).2

/-- The memory ports: engine e, the hamper egress of a site with its other requests, and the two host ports. -/
def portEgress (site : Nat) : Nat := 64 + site
def portHost (port : Nat) : Nat := 2000 + port

/-! ### Places -/

/-- A memory of this package with an offset, or a host's memory with an address. -/
inductive Mem where
  | sram (site off : Nat)
  | plane (site off : Nat)
  | vault (site off : Nat)
  | mail (site off : Nat)
  | hbm (pa : Nat)
  | host (port addr : Nat)
  deriving DecidableEq, Repr

/-- The place at an offset of a destination in this package. -/
def memAt (p : PDest) (off : Nat) : Mem :=
  match p with
  | .tile coord 0 => .sram (coordSite coord) off
  | .tile coord 1 => .plane (coordSite coord) off
  | .tile coord 2 => .vault (coordSite coord) off
  | .tile coord _ => .mail (coordSite coord) off
  | .hbm _ pa => .hbm (pa + off)
  | .host port a => .host port (a + off)

/-- Whether an access to n bytes waits for a home slice, bypassed and not yet emptied (R128). -/
def State.mustWait (s : State) (m : Mem) (n : Nat) : Bool :=
  match m with
  | .hbm pa => (homeGranules pa n).any s.slicing
  | _ => false

/-- CACHE of a site: MiB of its vault held as cache space (R22, R123). -/
def State.cacheMib (s : State) (site : Nat) : Nat := if s.mg.vltsvc.contains site then getD 0 s.mg.vsplit site else 0

/-- The address error of class 5 of a tile window at hand-off or at a port (R21, R111, R503). -/
def State.windowBad (s : State) (coord bank : Nat) : Bool :=
  if coordPkg coord = s.pkg then
    !s.mg.tileEn.contains (coordSite coord) ||
      (bank == 2 && !s.mg.vltsvc.contains (coordSite coord) && s.mg.rtsvc.contains (coordSite coord))
  else !Config.inDomain (coordPkg coord)

/-- The class 12 code of a failure at the destination: beyond the pinned space of a vault (R111), or a host port whose
link is down (R514). -/
def State.memFail (s : State) (m : Mem) (n : Nat) : Option Nat :=
  match m with
  | .vault site off => if (24 - s.cacheMib site) * 2 ^ 20 < off + n then some 6 else none
  | .host port _ => if s.mg.hostUp.contains port then none else some 0x0B
  | _ => none

/-! ### Reading and writing (R127, R132, R413, R470, R471) -/

/-- Bytes of a memory with 2^g-byte granules and their poison. -/
def bytesWith (m : List Host.Cell) (g : Nat) (p : List Nat) (a n : Nat) : List PByte :=
  (bytesAt m a n).mapIdx fun i b => (b, inSet ((a + i) / 2 ^ g) p)

/-- A read by a party outside the tiles, under the keys of a partition: the bytes with their poison. Of tile SRAM the stores that
are performed at its scope are seen, those of the slots in own among them. A line whose tag fails reads poisoned and is
counted. -/
def State.readWith (s : State) (m : Mem) (key : List Byte) (n : Nat) (own : List Nat) : List PByte × State :=
  match m with
  | .sram site off =>
    let p := (s.tile site).sramPoison
    let (b, s) := s.outsideRead site off n own
    (b.mapIdx fun i x => (x, inSet ((off + i) / 8) p), s)
  | .plane site off => (bytesWith (s.tile site).plane 3 (s.tile site).planePoison off n, s)
  | .vault site off => (bytesWith s.vault 6 s.vaultPoison (2 ^ 25 * site + off) n, s)
  | .mail _ _ => (List.replicate n (0, false), s)
  | .hbm pa =>
    ((bytesAt s.hbm pa n).mapIdx fun i b => (b, s.lineBadWith key ((pa + i) / 64)), s.countTags key pa n)
  | .host port a =>
    if s.mg.hostUp.contains port then
      ((bytesAt (if port = 0 then s.host0 else s.host1) a n).mapIdx fun i b => (b, inSet (2 ^ 64 * port + a + i) s.hostPoison), s)
    else (List.replicate n (0, true), s)

/-- A read for a partition of this package. -/
def State.readMem (s : State) (m : Mem) (asp n : Nat) (own : List Nat) : List PByte × State := s.readWith m (s.keyOf asp) n own

/-- The lines of a lost slice written whole, after n bytes are written at an address (R128, R471). -/
def curedAfter (slices k a n : Nat) (cured : List Nat) : List Nat :=
  (granules 6 a n).foldl (fun l g =>
    if g / 8 % slices == k && decide (a ≤ 64 * g) && decide (64 * g + 64 ≤ a + n) then insSet g l else l) cured

/-- PLACE, TILE and ADDR of ERRLAST for a memory (R498). -/
def Mem.errPlace (m : Mem) (coord : Nat → Nat) : Nat × Nat × Nat :=
  match m with
  | .sram site off => (0, coord site, off)
  | .plane site off => (1, coord site, off)
  | .vault site off => (3, coord site, off)
  | .mail site off => (0, coord site, off)
  | .hbm pa => (4, 0, pa)
  | .host _ _ => (7, 0, 0)

/-- The lines of a run of HBM bytes that a write leaves, or may leave, dirty in the memory-side cache: those whose home slice
is in use (R127, R128). -/
def State.dirtied (s : State) (a n : Nat) : List Nat := (granules 6 a n).filter fun k => (s.sliceSite (64 * k)).isSome

/-- A write by a party outside the tiles, under the keys of a partition: a line of HBM is from then on under them, and one
written in part whose tag fails is counted and stored poisoned. Poisoned bytes leave for a host with EP set, and its memory keeps
them poisoned until they are written again (R417, R470; notes/assumptions/104.md). -/
def State.writeWith (s : State) (m : Mem) (key : List Byte) (l : List PByte) : State :=
  let b := l.map (·.1)
  let s := if l.any (·.2) then s.noteError false (m.errPlace s.coord).1 (m.errPlace s.coord).2.1 (m.errPlace s.coord).2.2 else s
  match m with
  | .sram site off => s.putBytes site off l
  | .plane site off =>
    s.modTile site fun t =>
      { t with plane := setBytes t.plane off b, planePoison := poisonAfter 3 t.planePoison off l }
  | .vault site off =>
    { s with vault := setBytes s.vault (2 ^ 25 * site + off) b,
             vaultPoison := poisonAfter 6 s.vaultPoison (2 ^ 25 * site + off) l }
  | .mail _ _ => s
  | .hbm pa =>
    let bad := s.badTags key pa l.length
    let s := s.countTags key pa l.length
    { s with hbm := setBytes s.hbm pa b,
             hbmPoison := poisonAfter 6 (bad.foldl (fun p k => insSet k p) s.hbmPoison) pa l,
             hbmLost := s.hbmLost.map fun (n, k, cured) => (n, k, curedAfter n k pa l.length cured),
             hbmKey := (granules 6 pa l.length).foldl (fun k n => putD [] n key k) s.hbmKey,
             hbmDirty := (s.dirtied pa l.length).foldl (fun d n => insSet n d) s.hbmDirty }
  | .host port a =>
    let s := if l.any (·.2) then { s with outbox := s.outbox ++ [.poisoned port a l.length] } else s
    let s := { s with hostPoison := poisonAfter 0 s.hostPoison (2 ^ 64 * port + a) l }
    if port = 0 then { s with host0 := setBytes s.host0 a b } else { s with host1 := setBytes s.host1 a b }

/-- A write for a partition. -/
def State.writeMem (s : State) (m : Mem) (asp : Nat) (l : List PByte) : State := s.writeWith m (s.keyOf asp) l

/-- The poison granules that poisoned bytes written at a place touch. -/
def badGranules (m : Mem) (l : List PByte) : Nat :=
  let g (k : Nat) (a : Nat) : Nat := (((l.mapIdx fun i b => ((a + i) / 2 ^ k, b.2)).filter (·.2)).map (·.1)).eraseDups.length
  match m with
  | .sram _ off => g 3 off
  | .plane _ off => g 3 off
  | .vault _ off => g 6 off
  | .hbm pa => g 6 pa
  | .mail _ _ => 0
  | .host _ _ => 0

/-- Poison that has come from the fabric or a host port is written at a place: every granule of it is counted, with PLACE 7
(R498, R508). -/
def State.received (s : State) (m : Mem) (l : List PByte) : State :=
  if l.any (·.2) then
    { s with mg := { s.mg with errUE := (s.mg.errUE + badGranules m l) % 2 ^ 16, errLast := word64 [(61, 7)] } }
  else s

/-- Whether any of some bytes is poisoned. -/
def anyBad (l : List PByte) : Bool := l.any (·.2)

/-! ### Taking a message (R395, R397, R510) -/

/-- The new place of a tile coordinate that a relocation pair names (R523). -/
def Tile.relocated (t : Tile) (coord : Nat) : Nat := ((t.reloc.find? fun p => p.1 == coord).map (·.2)).getD coord

/-- The address that a request accesses: of a poll, GEN of the pair. -/
def reqAddr (r : Req) : W64 :=
  match r.kind with
  | .poll => r.addr + 8
  | _ => r.addr

/-- Whether a request goes to a hardware barrier object. -/
def objectReq (r : Req) : Bool :=
  !r.mem && (match r.kind with | .bari _ => true | .arrive => true | .waitGen _ => true | _ => false)

/-- Where a request goes, as the planes keep it in order: a virtual address by its cached translation, else by its page map. -/
def State.reqDest (s : State) (r : Req) : PDest :=
  let home := coordSite r.src
  if objectReq r then .tile ((s.tile home).relocated (fld r.addr 32 22)) 0
  else
    match r.phys, gaddr (reqAddr r) with
    | some p, _ => p
    | none, .tile coord bank _ => .tile coord bank
    | none, .reserved => .tile r.src 0
    | none, .virt va =>
      let pme := match s.mg.xlats.find? fun x => x.port == portEgress home && x.asp == r.tr.asp && x.vpage == va / 65536 with
        | some x => some x.pme
        | none => match s.walk r.tr.asp (va / 65536) with | .ok (_, e) => some e | .error _ => none
      match pme.map fun e => s.placeOf e (va % 65536) with
      | some (.ok p _ _) => p
      | _ => .tile r.src 0

/-- Whether no message before it shares its plane, source and destination. -/
def State.firstInLine (s : State) (f : Flight) : Bool :=
  match s.lineOf s.reqDest f.m with
  | none => true
  | some k => ((s.wire.find? fun g => s.lineOf s.reqDest g.m == some k).map (·.n)) == some f.n

/-- Whether a message is in flight inside the package: one from another package stands at its edge bridge until it is taken, but
for a packet of which elements have been performed. -/
def Flight.inside (f : Flight) : Bool := f.via.isNone || (match f.m with | .packet p => decide (0 < p.done) | _ => false)

/-- The message of a number that its unit may take now, and the state without it: the first of its line, and while the
routing tables are rewritten none that waits at an edge bridge (R510). -/
def State.taken (s : State) (n : Nat) : Option (Flight × State) :=
  match s.flight n with
  | some f => if (!f.inside && s.rewriting) || !s.firstInLine f then none else some (f, s.takeMsg n)
  | none => none

end Sys2Proof.Machine
end

