-- ==== Sys2Proof/Machine/Hampers.lean ====
section
/-!
DEFINITION. Hampers and their packets (R144 to R168, R500 to R505, R535): the insertion stage, the age trigger, hand-off,
the performing of a packet at its destination, acknowledgement, and what becomes of packets that leave the package or are
never acknowledged.
-/

namespace Sys2Proof

/-- The combined data of two elements (R153). -/
def Elem.sum (e l : Elem) : W64 :=
  if e.op == .fadd then BitVec.ofNat 64 (Machine.fadd .f32 (e.data.toNat % 2 ^ 32) (l.data.toNat % 2 ^ 32))
  else BitVec.ofNat 64 ((e.data.toNat + l.data.toNat) % 2 ^ (8 * 2 ^ e.size))

/-- Whether two elements share a byte. -/
def Elem.touches (e l : Elem) : Bool := Machine.overlaps e.offset (2 ^ e.size) l.offset (2 ^ l.size)

/-- Whether the later element l merges into e, the latest of its hamper that touches a byte of it (R153). -/
def Elem.takes (e l : Elem) : Bool :=
  e.comb && l.comb && e.op == l.op && (e.op == .add || e.op == .fadd) && e.offset == l.offset && e.size == l.size

/-- Word 0 of an element (R147). -/
def Elem.word (e : Elem) : W64 :=
  Machine.word64 [(48, e.eseq), (44, e.op.code), (43, bitNat e.comb), (41, e.size), (38, e.slot), (0, e.offset)]

/-- The trace by which a slot has a part in an element: its own, or of what it merged into it. -/
def Elem.traceOf (e : Elem) (slot : Nat) : Option Trace :=
  if e.slot == slot then some e.tr else e.merged.find? (·.slot == slot)

/-- The global address of an element of a destination. -/
def HDest.address (d : HDest) (off : Nat) : W64 :=
  match d with
  | .tile coord bank _ => Machine.word64 [(60, 8), (38, coord), (36, bank), (0, off)]
  | .virt vpage _ => Machine.word64 [(16, vpage), (0, off)]

end Sys2Proof

namespace Sys2Proof.Machine

/-! ### Insertion (R150 to R156) -/

/-- The elements of a hamper with l combined into the latest element that touches a byte of it, where they combine. -/
def mergeInto (l : Elem) (es : List Elem) : Option (List Elem) :=
  match es.reverse with
  | [] => none
  | r =>
    match r.findIdx? fun e => e.touches l with
    | none => none
    | some k =>
      let i := es.length - 1 - k
      match es[i]? with
      | some e => if e.takes l then some (es.set i { e with data := e.sum l, merged := e.merged ++ [l.tr] }) else none
      | none => none

/-- The hamper bound to a destination. -/
def Tile.hamperFor (t : Tile) (dst : HDest) : Option (Nat × Hamper) := t.hampers.find? fun (_, h) => h.dst == dst

/-- Whether every slot of a node on a tile is in STOPPED or DONE. -/
def Tile.allStopped (t : Tile) (l node : Nat) : Bool :=
  (t.kernels.filter (·.isOf l node)).all fun k => k.slots.all fun (n, _) =>
    (t.slot n).state == .stopped || (t.slot n).state == .done

/-- Whether pre-emption closes the hampers that take an element of a kernel's node (R160). -/
def State.preempting (s : State) (site kern : Nat) : Bool :=
  let k := (s.tile site).kernelOf kern
  (s.sched.preempts.any fun p => p.l == k.l && p.node == k.node && p.stopped && !p.ending) && (s.tile site).allStopped k.l k.node

/-- The triggers that an insertion evaluates: size, and pre-emption (R154). -/
def State.afterInsert (s : State) (site n kern : Nat) : State :=
  let t := s.tile site
  match t.hampers.find? (·.1 == n) with
  | none => s
  | some (_, h) =>
    let t := if h.thresh ≤ h.count then t.closeHamper s.cyc rsSize n else t
    s.setTile site (if s.preempting site kern then t.closeHamper s.cyc rsPreempt n else t)

/-- The victim of an eviction (R155). -/
def Tile.victim (t : Tile) (policy : Nat) : Option Nat :=
  let opens := t.hampers.filter fun (_, h) => h.closed.isNone
  let better (a b : Nat × Hamper) : Nat × Hamper :=
    if policy = 1 then
      if a.2.count < b.2.count || (a.2.count == b.2.count && decide (b.2.first < a.2.first)) then b else a
    else if policy = 2 then (if b.2.latest < a.2.latest then b else a)
    else if b.2.first < a.2.first then b else a
  match opens with
  | [] => none
  | h :: l => some (l.foldl better h).1

/-- The head of the insertion queue leaves it. -/
def Tile.popIns (t : Tile) : Tile := { t with insQ := t.insQ.drop 1 }

/-- An element goes into hamper n. -/
def State.placeElem (s : State) (site n : Nat) (h : Hamper) (es : List Elem) (kern : Nat) : State :=
  (s.modTile site fun t =>
    { t.popIns with hampers := put n { h with elems := es, latest := s.cyc } t.hampers,
                    eseq := (t.eseq + 1) % 2 ^ 16 }).afterInsert site n kern

/-- The steps of R150 for an element at the head. -/
def State.insertElem (s : State) (site : Nat) (dst : HDest) (e : Elem) : State :=
  let t := s.tile site
  let e := { e with eseq := t.eseq }
  match t.hamperFor dst with
  | some (n, h) =>
    if h.closed.isSome then s
    else
      match mergeInto e h.elems with
      | some es => s.placeElem site n h es e.tr.kern
      | none =>
        if h.count + e.positions ≤ 32 then s.placeElem site n h (h.elems ++ [e]) e.tr.kern
        else s.setTile site (t.closeHamper s.cyc rsSize n)
  | none =>
    let cfg := (t.slot e.slot).sysReg s.cyc 0x20
    match (List.range 16).find? fun n => !t.hampers.any (·.1 == n) with
    | some n =>
      let h : Hamper := { closed := none, dst := dst, elems := [], age := fld cfg 8 16, thresh := fld cfg 0 6, first := s.cyc,
                          latest := s.cyc, stopped := false }
      s.placeElem site n h [e] e.tr.kern
    | none =>
      if t.hampers.any fun (_, h) => h.closed.isSome then s
      else match t.victim (fld cfg 6 2) with
        | some n => s.setTile site (t.closeHamper s.cyc rsEvict n)
        | none => s

/-- The elements of a slot that a marker covers: in hampers and in packets not acknowledged, for a destination or for
all (R308). -/
def Tile.coveredElems (t : Tile) (slot : Nat) (dst : Option HDest) : List Nat :=
  let of (d : HDest) (es : List Elem) : List Nat :=
    if dst.isNone || dst == some d then (es.filter (·.ofSlot slot)).map (·.eseq) else []
  (t.hampers.flatMap fun (_, h) => of h.dst h.elems) ++ t.unacked.flatMap fun u => of u.pkt.hdst u.pkt.elems

/-- HFLUSH at the insertion stage: it completes at once where it covers nothing (R308). -/
def State.flushMark (s : State) (site slot : Nat) (dst : Option HDest) (tr : Trace) : State :=
  let s := s.modTile site fun t =>
    t.popIns.closeWhere s.cyc rsFlush fun h => match dst with | some d => h.dst == d | none => h.ofSlot slot
  let es := (s.tile site).coveredElems slot dst
  if es.isEmpty then s.complete tr
  else s.modTile site fun t => { t with flushes := t.flushes ++ [{ tr := tr, dst := dst, elems := es }] }

/-- The insertion stage handles the head entry of the insertion queue. -/
def execInsertionStage (site : Nat) (s : State) : Res :=
  .next (match (s.tile site).insQ with
    | (c, it) :: _ =>
      if s.cyc < c then s
      else match it with
        | .elem _ dst e => s.insertElem site dst e
        | .fence slot => s.modTile site fun t => t.popIns.closeWhere s.cyc rsFence (·.ofSlot slot)
        | .flush slot dst tr => s.flushMark site slot dst tr
    | [] => s)

/-- AGE cycles after its first insertion an open hamper closes (R154); one that an insertion closed in this cycle records AGE
(R156). -/
def execHamperAgeTrigger (site n : Nat) (s : State) : Res :=
  .next (match (s.tile site).hampers.find? (·.1 == n) with
    | some (_, h) =>
      if (h.closed.isNone || h.closed == some s.cyc) && decide (h.first + h.age ≤ s.cyc) then s.modTile site fun t => t.closeHamper s.cyc rsAge n else s
    | none => s)

/-! ### Acknowledgement and failure of elements (R159, R308, R500 to R502) -/

/-- Elements count as acknowledged: the HFLUSH instructions that waited for nothing else complete. -/
def State.ackElems (s : State) (site : Nat) (es : List Elem) : State :=
  let gone := es.map (·.eseq)
  let fl := (s.tile site).flushes.map fun f => { f with elems := f.elems.filter fun e => !gone.contains e }
  let done := fl.filter (·.elems.isEmpty)
  let s := s.modTile site fun t => { t with flushes := fl.filter fun f => !f.elems.isEmpty }
  let s := es.foldl (fun s e => (e.tr :: e.merged).foldl (fun s tr => s.noteProgress site tr.kern) s) s
  done.foldl (fun s f => s.complete f.tr) s

/-- One record of the hamper fault log. -/
def Tile.logElem (t : Tile) (dst : HDest) (seq : Option Nat) (e : Elem) (cls code : Nat) (ind : Bool) : Tile :=
  let rec4 : List W64 := [e.word, e.data,
    word64 [(56, cls), (48, code), (47, bitNat ind), (46, bitNat !e.merged.isEmpty), (24, (seq.getD 0) % 2 ^ 16),
      (0, e.tr.pc % 2 ^ 18)], dst.word]
  { t with hlog := put (t.hflWr % 64) rec4 t.hlog, hflWr := (t.hflWr + 1) % 2 ^ 32,
           hflLost := if t.hlog.any (·.1 == t.hflWr % 64) then (t.hflLost + 1) % 2 ^ 32 else t.hflLost }

/-- The tags of the HFLUSH instructions of a slot that wait for an element of a destination: those at the insertion stage
already, and those whose marker follows the element in the insertion queue (R308, R501). -/
def Tile.flushTags (t : Tile) (slot : Nat) (dst : HDest) (e : Elem) : List Nat :=
  (t.flushes.filter fun f => f.tr.slot == slot && f.elems.contains e.eseq).filterMap (·.tr.tag) ++
    t.insQ.filterMap fun (_, i) => match i with
      | .flush n d tr => if n == slot && (d.isNone || d == some dst) then tr.tag else none
      | _ => none

/-- Failed elements of a packet: each leaves a record in the fault log of its tile, and each slot that has a part in one
receives a fault that names its earliest (notes/assumptions/26.md). -/
def State.failElems (s : State) (site : Nat) (dst : HDest) (seq : Option Nat) (l : List (Elem × Nat × Nat)) (ind : Bool) :
    State :=
  let s := s.modTile site fun t => l.foldl (fun t (e, cls, code) => t.logElem dst seq e cls code ind) t
  (List.range 8).foldl (fun s slot =>
    match l.findSome? fun (e, cls, code) => (e.traceOf slot).map fun tr => (e, cls, code, tr) with
    | none => s
    | some (e, cls, code, tr) =>
      let value := if cls = 12 then 0 else dst.address e.offset
      s.recordFault { s.faultRec tr ⟨cls, code, value, 0⟩ true with flush := (s.tile site).flushTags slot dst e, fence := true }) s

/-- Every element of a hamper or packet fails alike, and counts as acknowledged. -/
def State.failAll (s : State) (site : Nat) (dst : HDest) (seq : Option Nat) (es : List Elem) (cls code : Nat) (ind : Bool) :
    State :=
  (s.failElems site dst seq (es.map (·, cls, code)) ind).ackElems site es

/-- The acknowledgement of a packet reaches its source tile; one that no longer waits is discarded (R505). -/
def State.ackPacket (s : State) (site id : Nat) (fails : List ElemFail) : State :=
  match (s.tile site).unacked.find? (·.id == id) with
  | none => s
  | some u =>
    let s := s.modTile site fun t => { t with unacked := t.unacked.filter (·.id != id) }
    let bad := fails.filterMap fun f => u.pkt.elems[f.idx]?.map fun e => (e, f.cls, f.code)
    (s.failElems site u.pkt.hdst u.pkt.seq bad false).ackElems site u.pkt.elems

/-! ### Translation records (R493) -/

/-- Word k of the MSI-X table of a port, two to a vector: the mask bit of a vector is set at reset
(notes/assumptions/24.md). -/
def State.msixWord (s : State) (port k : Nat) : W64 :=
  getD (if k % 2 = 1 then 0x100000000 else 0) s.mg.msixTab (256 * port + k)

/-- The device sends an MSI-X vector on a host port (R414); a masked one pends. -/
def State.msix (s : State) (port vec : Nat) : State :=
  if fld (s.msixWord port (2 * vec + 1)) 32 1 = 1 then
    { s with mg := { s.mg with msixPba := put port (getD 0 s.mg.msixPba port ||| BitVec.ofNat 64 (2 ^ vec)) s.mg.msixPba } }
  else { s with outbox := s.outbox ++ [.msix port vec] }

/-- Whether a record awaits an answer. -/
def XRec.valid (r : XRec) : Bool := fld (nth r.words 0 0) 63 1 == 1

/-- A record becomes valid in the first entry whose V is 0, with its interrupt. -/
def State.fileRecord (s : State) (r : XRec) : State :=
  match (List.range 64).find? fun i => !s.mg.xfrec.any fun (k, x) => k == i && x.valid with
  | none => { s with mg := { s.mg with xfWait := s.mg.xfWait ++ [r] } }
  | some i =>
    let w0 := word64 [(63, 1), (32, fld (nth r.words 0 0) 32 31), (0, s.mg.xfTotal)]
    let s := { s with mg := { s.mg with xfrec := put i { r with words := w0 :: r.words.drop 1 } s.mg.xfrec,
                                         xfTotal := (s.mg.xfTotal + 1) % 2 ^ 32 } }
    if fld s.mg.fltcfg 0 1 = 1 then s.msix (fld s.mg.fltcfg 16 1) (fld s.mg.fltcfg 8 6) else s

/-- A stopped generator's record: GEN, AS, KIND, CODE, GID and ADDR. -/
def xrecOf (g : Gen) (coord asp kind code : Nat) (addr : W64) : XRec :=
  let (gen, gid) := match g with
    | .eng e q => (0, e / 16 * 256 + e % 16 * 16 + q)
    | .hamper _ h => (1, h * 2 ^ 22 + coord)
    | .req _ _ => (2, coord)
    | .net _ => (3, coord)
  { gen := g, words := [word64 [(61, gen), (57, asp), (55, kind), (32, code)], word64 [(0, gid)], addr, 0] }

/-! ### Hand-off (R157, R158, R503, R535) -/

/-- The sequence numbers of the packets of the package that a destination package has not acknowledged (R163). -/
def State.unackedTo (s : State) (pkg : Nat) : List Nat :=
  s.tiles.flatMap fun (_, (t : Tile)) => (t.unacked.filter fun u => destPackage s.pkg u.pkt.dst == pkg).filterMap (·.pkt.seq)

/-- Whether hand-off of packets to a package waits: 1,024 of them are not acknowledged (R163). -/
def State.windowFull (s : State) (pkg : Nat) : Bool := decide (1024 ≤ (s.unackedTo pkg).length)

/-- The hamper is free. -/
def Tile.freeHamper (t : Tile) (n : Nat) : Tile := { t with hampers := erase n t.hampers }

/-- The elements of hamper n fail at its hand-off, and it is free. -/
def State.failHamper (s : State) (site n : Nat) (h : Hamper) (cls code : Nat) : State :=
  (s.modTile site (·.freeHamper n)).failAll site h.dst none h.elems cls code false

/-- A packet of hamper n enters the egress queue, where there is a way to its destination and the edge bridge on it admits
its owner (R420, R503). -/
def State.sendHamper (s : State) (site n : Nat) (h : Hamper) (dst : PDest) : State :=
  let asp := match h.dst with | .tile _ _ a => a | .virt _ a => a
  let dest := destPackage s.pkg dst
  match s.wayTo site dst with
  | none => s.failHamper site n h 12 7
  | some _ =>
    match (if dest = s.pkg then none else s.gatePkg (s.ownerOf asp)) with
    | some c => s.countGw.failHamper site n h 12 c
    | none =>
      let seq := if dest = s.pkg then none else some (getD 0 s.seqOut dest)
      let t := s.tile site
      let p : HPacket := { id := t.nextId, src := s.coord site, asp := asp, owner := s.ownerOf asp, seq := seq, dst := dst,
                           hdst := h.dst, marked := false, elems := h.elems, key := if dest = s.pkg then [] else s.keyOf asp }
      let s := if dest = s.pkg then s else { s with seqOut := put dest ((getD 0 s.seqOut dest + 1) % 2 ^ 32) s.seqOut }
      s.setTile site { t.freeHamper n with
        nextId := t.nextId + 1, egress := t.egress ++ [(s.cyc, p)],
        unacked := t.unacked ++ [{ id := t.nextId, since := s.cyc, pkt := p }] }

/-- A packet of hamper n is sent, unless hand-off to its package waits. -/
def State.trySend (s : State) (site n : Nat) (h : Hamper) (dst : PDest) : Option State :=
  if destPackage s.pkg dst != s.pkg && s.windowFull (destPackage s.pkg dst) then none else some (s.sendHamper site n h dst)

/-- The accesses that the elements of a slice make: a write for stores, an atomic for the others. -/
def elemKinds (es : List Elem) : List AKind :=
  (if es.any (·.op == .store) then [.write] else []) ++ (if es.any (·.op != .store) then [.atom] else [])

/-- The hand-off of hamper n; none where it waits. The granules of a 64 KiB slice of HBM have several home slices and stacks: the
packet of a virtual page goes to the one that the page's base address names (notes/assumptions/106.md). DESIGN CHOICE -/
def State.handOff (s : State) (site n : Nat) (h : Hamper) : Option State :=
  match h.dst with
  | .tile coord bank _ =>
    if s.windowBad coord bank then some (s.failHamper site n h 5 8) else s.trySend site n h (.tile coord bank)
  | .virt vpage asp =>
    match s.translateFor (portEgress site) asp (65536 * vpage) (elemKinds h.elems) with
    | (_, .ok p marked sealed, s) => if marked || sealed then some (s.failHamper site n h 12 4) else s.trySend site n h p
    | (_, .addr c, s) => some (s.failHamper site n h 5 c)
    | (k, .fault c, s) =>
      some ((s.modTile site fun t => { t with hampers := put n { h with stopped := true } t.hampers }).fileRecord
        (xrecOf (.hamper site n) (s.coord site) asp k.code c (BitVec.ofNat 64 (65536 * vpage))))
    | (_, .wait, _) => none

/-- The egress takes a hamper that closed before this cycle: the one of the lowest number whose hand-off does not wait. A hand-off
that fails its elements, or stops its hamper, is the one of its cycle as well (notes/assumptions/107.md). DESIGN CHOICE -/
def execHandOff (site : Nat) (s : State) : Res :=
  .next (
    let t := s.tile site
    if 8 ≤ t.egress.length then s
    else ((t.hampers.filter fun (_, h) => h.closed.any (· < s.cyc) && !h.stopped).findSome? fun (n, h) => s.handOff site n h).getD s)

/-! ### At the destination (R112, R149, R161, R162, R420, R500) -/

/-- A mailbox word arrives on a channel (R112, R276, R277); none where no slot is free. -/
def State.mailbox (s : State) (site chan src slot : Nat) (data : W64) : Option State :=
  let t := s.tile site
  match t.entryFor chan with
  | none => none
  | some e =>
    let k := hentBasket (t.hentOf e)
    match (t.basket k).pick false with
    | none => none
    | some i =>
      let s := s.remoteWrite site (t.basketAt k i) (leBytes 8 data.toNat)
      some (s.modTile site fun t =>
        (t.setBasket k ((t.basket k).claim i .filling)).arrive 0 chan k (some i) 8
          [data, word64 [(22, slot), (0, src)], 0, 0, 0, 0, 0] (s.cyc + 3))

/-- Whether an atomic path of a vault controller is fenced: bit 0 integer, bit 1 floating point (R518, R519). -/
def State.pathFenced (s : State) (site : Nat) (op : AOp) : Bool :=
  !bitOf (getD 0 s.mg.vapal site) (match op with | .fadd | .fmin | .fmax => 1 | _ => 0)

/-- The vault controller that performs an atomic at a place. -/
def State.atomicSite (s : State) (m : Mem) : Option Nat :=
  match m with
  | .vault site _ => some site
  | .hbm pa => s.sliceSite pa
  | _ => none

/-- The failure of an operation at a place under the keys of a partition: class and code. -/
def State.opFailWith (s : State) (m : Mem) (op : AOp) (n : Nat) (key : List Byte) : Option (Nat × Nat) :=
  match s.memFail m n with
  | some c => some (12, c)
  | none =>
    if op == .store then none
    else if (match m with | .host _ _ => true | _ => false) then some (12, 5)
    else if (s.atomicSite m).any fun site => s.pathFenced site op then some (12, 5)
    else
      let bad := match m with
        | .sram site off => anyPoison 3 (s.tile site).sramPoison off n
        | .plane site off => anyPoison 3 (s.tile site).planePoison off n
        | .vault site off => anyPoison 6 s.vaultPoison (2 ^ 25 * site + off) n
        | .hbm pa => (granules 6 pa n).any (s.lineBadWith key)
        | _ => false
      if bad then some (11, 4) else none

/-- The failure of an operation of a partition of this package. -/
def State.opFail (s : State) (m : Mem) (op : AOp) (n asp : Nat) : Option (Nat × Nat) := s.opFailWith m op n (s.keyOf asp)

/-- The keys of a partition as a tile's package has them, or as the access from another package brings them (R413). -/
def State.keysFor (s : State) (src asp : Nat) (key : List Byte) : List Byte := if coordPkg src = s.pkg then s.keyOf asp else key

/-- What an operation of another kind than a store reads of a place: a line whose tag fails is counted (R412, R498). -/
def State.countRead (s : State) (m : Mem) (op : AOp) (n : Nat) (key : List Byte) : State :=
  match m with
  | .hbm pa => if op == .store then s else s.countTags key pa n
  | _ => s

/-- The value of n bytes at a place. -/
def State.valueAt (s : State) (m : Mem) (n : Nat) : Nat :=
  match m with
  | .sram site off => loadNat (s.tile site).sram off n
  | .plane site off => loadNat (s.tile site).plane off n
  | .vault site off => loadNat s.vault (2 ^ 25 * site + off) n
  | .hbm pa => loadNat s.hbm pa n
  | .host port a => loadNat (if port = 0 then s.host0 else s.host1) a n
  | .mail _ _ => 0

/-- A read and write of a place from outside its tile performs the local stores that it reads (R132, R134, R221). -/
def State.exposed (s : State) (m : Mem) (n : Nat) : State :=
  match m with
  | .sram site off => s.modTile site fun t => t.performWhere (·.touches off n)
  | _ => s

/-- An operation at a place: what it wrote over, and the state after it, its line then under some keys. -/
def State.performAt (s : State) (m : Mem) (key : List Byte) (op : AOp) (size : Nat) (data swap : W64) : Nat × State :=
  let n := 2 ^ size
  let s := if op == .store then s else s.exposed m n
  let x := s.valueAt m n
  (x, s.writeWith m key ((leBytes n (performOp op size data swap x)).map (·, false)))

/-- One element at its destination: the state and its failure, or none where it waits for a basket slot. An element that a
poisoned beat has reached is not performed (R470). -/
def State.performElem (s : State) (p : HPacket) (e : Elem) : Option (State × Option (Nat × Nat)) :=
  if p.bad.contains p.done then some (s, some (11, 4))
  else match memAt p.dst e.offset with
  | .mail site off =>
    if (s.tile site).entryFor (off / 8) |>.isNone then some (s, some (12, 9))
    else (s.mailbox site (off / 8) p.src e.slot e.data).map (·, none)
  | m =>
    let n := 2 ^ e.size
    let key := s.keysFor p.src p.asp p.key
    if s.mustWait m n then none
    else match s.opFailWith m e.op n key with
    | some f => some (s.countRead m e.op n key, some f)
    | none => some ((s.performAt m key e.op e.size e.data e.swap).2, none)

/-- The failures of a packet as a whole at its destination: of the window, of the way to it, or at a gateway. -/
def State.packetFail (s : State) (via : Option Nat) (p : HPacket) : Option (Nat × Nat) :=
  match p.dst with
  | .tile coord bank =>
    if s.windowBad coord bank then some (5, 8) else (s.refusal via p.src p.owner p.dst).map (12, ·)
  | _ => (s.refusal via p.src p.owner p.dst).map (12, ·)

/-- Whether a packet that has been taken from a source package is still to be performed: it is on the planes, or has been lost in
a router. -/
def State.flying (s : State) (src q : Nat) : Bool :=
  (getD [] s.winLost src).contains q ||
    s.wire.any fun f => match f.m with | .packet p => coordPkg p.src == src && p.seq == some q | _ => false

/-- The window of a source package moves on past the packets performed (R163). -/
def State.advanceWin (s : State) (src : Nat) : Nat → State
  | 0 => s
  | n + 1 =>
    let b := getD 0 s.winBase src
    if (getD [] s.winSeen src).contains b && !s.flying src b then
      State.advanceWin { s with winSeen := putD [] src ((getD [] s.winSeen src).filter (· != b)) s.winSeen,
                                winBase := put src ((b + 1) % 2 ^ 32) s.winBase } src n
    else s

/-- A packet is done at its destination: the acknowledgement goes back, naming what failed. -/
def State.answerPacket (s : State) (n : Nat) (p : HPacket) (fails : List ElemFail) : State :=
  let src := coordPkg p.src
  let s := (s.takeMsg n).post src (.ack p.src (s.coord ((s.destSite p.dst).getD 0)) p.id fails)
  match p.seq with
  | none => s
  | some q =>
    let s := if fails.isEmpty then s else
      { s with winFails := put src ((q, fails) :: getD [] s.winFails src) s.winFails }
    s.advanceWin src 1024

/-- Whether packet number a of a source package comes before number b (R163: modulo 2^32). -/
def seqBefore (a b : Nat) : Bool := decide (0 < (b + 2 ^ 32 - a) % 2 ^ 32) && decide ((b + 2 ^ 32 - a) % 2 ^ 32 < 2 ^ 31)

/-- Whether a packet of another package waits for one that its package sent before it and that has not come: which of the packets
to come are of its tile and hamper destination is not known here, and those are to be performed before it (R162, R163;
notes/assumptions/89.md). DEDUCED -/
def State.early (s : State) (p : HPacket) : Bool :=
  match p.seq with
  | none => false
  | some q =>
    let src := coordPkg p.src
    let b := getD 0 s.winBase src
    let d := (q + 2 ^ 32 - b) % 2 ^ 32
    decide ((((getD [] s.winSeen src).eraseDups).filter fun r => decide ((r + 2 ^ 32 - b) % 2 ^ 32 < d)).length < d)

/-- The next element of a packet is performed, or skipped as failed; the last one sends the acknowledgement. -/
def State.performNext (s : State) (n : Nat) (p : HPacket) : State :=
  match p.elems[p.done]? with
  | none => s.answerPacket n p p.fails
  | some e =>
    match s.performElem p e with
    | none => s
    | some (s, f) =>
      let fails := p.fails ++ (match f with | some (cls, code) => [⟨p.done, cls, code⟩] | none => [])
      if p.done + 1 < p.elems.length then
        { s with wire := s.wire.map fun f => if f.n = n then { f with m := .packet { p with done := p.done + 1, fails := fails } } else f }
      else s.answerPacket n p fails

/-- An element of a hamper packet is performed at its destination, each as one event (R162); a gateway, or the window, refuses
the whole packet before its first element. -/
def execHamperPacketPerform (n : Nat) (s : State) : Res :=
  .next (match s.taken n with
    | some (⟨_, via, .packet p⟩, _) =>
      if destPackage s.pkg p.dst != s.pkg then s
      else if p.done = 0 then
        if s.early p then s
        else match s.packetFail via p with
          | some (cls, code) =>
            let s := if cls = 12 && gateCode code then s.countGw else s
            s.answerPacket n p ((List.range p.elems.length).map fun i => ⟨i, cls, code⟩)
          | none => s.performNext n p
      else s.performNext n p
    | _ => s)

/-- The fault of a token send after its image has been read: its tag has been counted, and a TWAIT on it covers the fault. -/
def State.sendFault (s : State) (tr : Trace) (code : Nat) : State :=
  s.recordFault { s.faultRec { tr with tag := none } ⟨12, code, 0, 0⟩ true with flush := tr.tag.toList }

/-- The answer to a token image reaches the tile of its send: delivered, or rejected. -/
def State.ackToken (s : State) (site id : Nat) (fails : List ElemFail) : State :=
  match (s.tile site).tokensOut.find? (·.1.id == id) with
  | none => s
  | some (x, _) =>
    let s := s.modTile site fun t => { t with tokensOut := t.tokensOut.filter (·.1.id != id) }
    match fails with
    | f :: _ => s.sendFault x.e.tr f.code
    | [] => s

/-- The acknowledgement of a packet, or of a token image, reaches its source tile. -/
def execHamperAcknowledgement (n : Nat) (s : State) : Res :=
  .next (match s.taken n with
    | some (⟨_, _, .ack dst _ id fails⟩, t) =>
      if coordPkg dst != s.pkg then s else (t.ackPacket (coordSite dst) id fails).ackToken (coordSite dst) id fails
    | _ => s)

/-! ### Across packages (R163, R408) -/

/-- Where a packet comes into the order of the planes: before those of its tile and hamper destination that have later numbers
and of which nothing has been performed (R162), else after everything. -/
def putInOrder (p : HPacket) (f : Flight) (l : List Flight) : List Flight :=
  let later (g : Flight) : Bool := match g.m with
    | .packet r => r.src == p.src && r.hdst == p.hdst && r.done == 0 && seqBefore (p.seq.getD 0) (r.seq.getD 0)
    | _ => false
  let before := l.takeWhile fun g => !later g
  before ++ f :: l.drop before.length

/-- A hamper packet from another package: the window of its source decides whether it is delivered (R163). -/
def State.packetArrival (s : State) (lane : Nat) (p : HPacket) : State :=
  let src := coordPkg p.src
  match p.seq with
  | none => s
  | some q =>
    let b := getD 0 s.winBase src
    if seqBefore q b || (getD [] s.winSeen src).contains q then
      if s.flying src q then s
      else s.post src (.ack p.src (s.coord ((s.destSite p.dst).getD 0)) p.id
        (((getD [] s.winFails src).find? (·.1 == q)).map (·.2) |>.getD []))
    else
      let f : Flight := ⟨s.nextMsg, some lane, .packet { p with done := 0, fails := [] }⟩
      { s with winSeen := put src (insSet q (getD [] s.winSeen src)) s.winSeen, wire := putInOrder p f s.wire,
               nextMsg := s.nextMsg + 1 }.advanceWin src 1024

/-- What a tile holds for another package: the packets, requests and token images that have left and are not answered. -/
def State.heldFor (s : State) (pkg : Nat) (t : Tile) : List Msg :=
  ((t.unacked.filter fun u => destPackage s.pkg u.pkt.dst == pkg && !t.egress.any (·.2.id == u.id)).map fun u => .packet u.pkt) ++
    (t.remote.filterMap fun q =>
      match q.gone with
      | some r => if !q.stopped && destPackage s.pkg (s.reqDest r) == pkg then some (.req r) else none
      | none => none) ++
    (t.tokensOut.filter fun x => coordPkg x.2.dst == pkg).map fun x => .token x.2

/-- Everything held for a package is sent once more, when its egress port has a live pool group again (R505). -/
def execHeldPacketResend (pkg : Nat) (s : State) : Res :=
  .next (
    if pkg = s.pkg || (s.poolGroup pkg).isNone then s
    else { s with outbox := s.outbox ++ (s.tiles.flatMap fun (_, (t : Tile)) => (s.heldFor pkg t).map fun m => Out.msg pkg m) })

end Sys2Proof.Machine
end

