-- ==== Sys2Proof/Machine/Copy.lean ====
section
/-!
DEFINITION. Copy engines at work (R300 to R305, R421): locating and translating a command's ranges, its reads and writes
at its completion, queue fences, and commands that come to an end with their node already saved (R387).
-/

namespace Sys2Proof.Machine

/-! ### Accesses of a unit -/

/-- Why an access cannot be made now: bytes of another package that have not come, a translation fault with its kind,
code and address, or a fault with class, code and VALUE. -/
inductive EErr where
  | wait
  | xlat (kind code : Nat) (addr : W64)
  | bad (cls code : Nat) (value : W64)
  deriving DecidableEq, Repr

/-- A translated run of bytes. -/
structure Piece where
  p : PDest
  off : Nat
  n : Nat
  addr : W64
  marked : Bool
  sealed : Bool
  deriving DecidableEq, Repr

/-- The parts of a global range that lie in one page each. -/
def cutRange (x : W64) (n : Nat) : List (W64 × Nat) :=
  if n = 0 then []
  else
    match gaddr x with
    | .virt va =>
      let last := (va + n - 1) / 65536
      (List.range (last - va / 65536 + 1)).map fun k =>
        let lo := Nat.max va (65536 * (va / 65536 + k))
        let hi := Nat.min (va + n) (65536 * (va / 65536 + k + 1))
        (BitVec.ofNat 64 (x.toNat + (lo - va)), hi - lo)
    | _ => [(x, n)]

/-- The places that the accesses of a run go to: of HBM, one for each granule, by its home slice or its stack (R126, R127). -/
def State.placesOf (s : State) (q : Piece) : List PDest :=
  match q.p with
  | .hbm pkg pa => if pkg = s.pkg then (homeGranules (pa + q.off) q.n).map (.hbm pkg) else [q.p]
  | p => [p]

/-- The checks on the way to a place (R397, R420, R503); another package makes its own. -/
def State.wayTrap (s : State) (site owner : Nat) (p : PDest) : Option Nat :=
  match s.wayTo site p with
  | none => some 7
  | some crossed => if destPackage s.pkg p != s.pkg then s.gatePkg owner else s.gate owner crossed p

/-- The checks on the way to a run, and at it. -/
def State.reachTrap (s : State) (site owner : Nat) (k : AKind) (q : Piece) : Option (Nat × Nat) :=
  match (s.placesOf q).findSome? (s.wayTrap site owner) with
  | some c => some (12, c)
  | none =>
    if destPackage s.pkg q.p != s.pkg then none
    else
      let m := memAt q.p q.off
      match m, k with
      | .host _ _, .read => none
      | _, _ => (s.memFail m q.n).map (12, ·)

/-- A run within one page, for an access of a site's unit at a memory port. -/
def State.locate (s : State) (port site : Nat) (tr : Trace) (k : AKind) (x : W64) (n : Nat) :
    Except EErr Piece × State :=
  let check (q : Piece) (s : State) : Except EErr Piece × State :=
    match s.reachTrap site tr.owner k q with
    | some (cls, c) => (.error (.bad cls c 0), if gateCode c then s.countGw else s)
    | none =>
      (if destPackage s.pkg q.p = s.pkg && s.mustWait (memAt q.p q.off) q.n then .error .wait else .ok q, s)
  match gaddr x with
  | .reserved => (.error (.bad 5 4 x), s)
  | .tile coord bank off =>
    if bankBytes bank < off + n then (.error (.bad 5 6 x), s)
    else if bank = 3 then (.error (.bad 5 7 x), s)
    else if s.windowBad coord bank then (.error (.bad 5 8 x), s)
    else check ⟨.tile coord bank, off, n, x, false, false⟩ s
  | .virt va =>
    match s.translate port tr.asp va k with
    | (.fault c, s) => (.error (.xlat k.code c x), s)
    | (.addr c, s) => (.error (.bad 5 c x), s)
    | (.wait, s) => (.error .wait, s)
    | (.ok p marked sealed, s) => check ⟨p, 0, n, x, marked, sealed⟩ s

/-- Runs one after the other, up to the first that fails. -/
def State.locateAll (s : State) (port site : Nat) (tr : Trace) (k : AKind) : List (W64 × Nat) → Except EErr (List Piece) × State
  | [] => (.ok [], s)
  | (x, n) :: t =>
    match s.locate port site tr k x n with
    | (.error e, s) => (.error e, s)
    | (.ok q, s) =>
      match s.locateAll port site tr k t with
      | (.error e, s) => (.error e, s)
      | (.ok l, s) => (.ok (q :: l), s)

/-- What another package answers to the read of a run: its bytes, or a failure there (R111). -/
def extPiece (ext : List ExtRead) (q : Piece) : Except EErr (List PByte) :=
  match ext.find? fun e => e.addr == q.addr with
  | none => .error .wait
  | some e =>
    match e.fail with
    | some (cls, code) => .error (.bad cls code (if cls = 5 then q.addr else 0))
    | none => if e.data.length = q.n then .ok e.data else .error .wait

/-- The bytes of some runs; those of other packages come with the event. -/
def State.readPieces (s : State) (asp : Nat) (own : Nat → List Nat) (ext : List ExtRead) :
    List Piece → Except EErr (List PByte × State)
  | [] => .ok ([], s)
  | q :: t =>
    let here : Except EErr (List PByte × State) :=
      if destPackage s.pkg q.p = s.pkg then
        let site := match q.p with | .tile coord _ => coordSite coord | _ => 0
        .ok (s.readMem (memAt q.p q.off) asp q.n (own site))
      else (extPiece ext q).map (·, s)
    match here with
    | .error e => .error e
    | .ok (b, s) => (s.readPieces asp own ext t).map fun (l, s) => (b ++ l, s)

/-- A run written on another package: the bytes leave, under the keys of the partition (R413). -/
def State.writeFar (s : State) (tr : Trace) (q : Piece) (b : List PByte) : State :=
  let w : EWrite := { src := s.coord tr.site, id := s.nextMsg, dst := q.p, off := q.off, data := b, owner := tr.owner, asp := tr.asp,
                      key := s.keyOf tr.asp }
  { s with outbox := s.outbox ++ [.msg (destPackage s.pkg q.p) (.write w)], nextMsg := s.nextMsg + 1 }

/-- Bytes written over some runs, for an instruction. -/
def State.writePieces (s : State) (tr : Trace) : List Piece → List PByte → State
  | [], _ => s
  | q :: t, b =>
    let here := b.take q.n
    let s := if destPackage s.pkg q.p = s.pkg then s.writeMem (memAt q.p q.off) tr.asp here else s.writeFar tr q here
    s.writePieces tr t (b.drop q.n)

/-- Whether a run lies outside the package: on another one, or in a host's memory. -/
def State.outside (s : State) (q : Piece) : Bool :=
  destPackage s.pkg q.p != s.pkg || (match q.p with | .host _ _ => true | _ => false)

/-- Poison that has come from outside the package and is written over some runs is counted (R498, R508). -/
def State.receivedAll (s : State) : List Piece → List PByte → State
  | [], _ => s
  | q :: t, b =>
    (if destPackage s.pkg q.p = s.pkg then s.received (memAt q.p q.off) (b.take q.n) else s).receivedAll t (b.drop q.n)

/-- Of bytes read from some runs, the poison that has come from outside. -/
def State.fromOutside (s : State) (src : List Piece) (b : List PByte) : List PByte :=
  (b.zip (src.flatMap fun q => List.replicate q.n (s.outside q))).map fun (x, o) => (x.1, x.2 && o)

/-- Where a byte of a run lies, as a key that is the same for the same byte. -/
def Piece.key (q : Piece) (i : Nat) : Nat × Nat × Nat :=
  match q.p with
  | .tile coord bank => (0, 4 * coord + bank, q.off + i)
  | .hbm pkg pa => (1, pkg, pa + q.off + i)
  | .host port a => (2, port, a + q.off + i)

/-- Whether two runs share a byte. -/
def Piece.meets (q r : Piece) : Bool :=
  (q.key 0).1 == (r.key 0).1 && (q.key 0).2.1 == (r.key 0).2.1 && overlaps (q.key 0).2.2 q.n (r.key 0).2.2 r.n

/-- The keys of all bytes of some runs. -/
def keysOf (l : List Piece) : List (Nat × Nat × Nat) := l.flatMap fun q => (List.range q.n).map q.key

/-- A copy whose ranges overlap: each byte is the original one or one already written, as free bits say (R301;
notes/assumptions/17.md). -/
def mixBytes (bit : Nat → Bool) : Nat → List ((Nat × Nat × Nat) × (Nat × Nat × Nat) × PByte) →
    List ((Nat × Nat × Nat) × PByte) → List ((Nat × Nat × Nat) × PByte)
  | _, [], done => done
  | i, (src, dst, b) :: t, done =>
    let v := match done.find? fun d => d.1 == src with
      | some d => if bit i then d.2 else b
      | none => b
    mixBytes bit (i + 1) t ((dst, v) :: done)

/-- The bytes that a copy writes. -/
def State.copied (s : State) (src dst : List Piece) (b : List PByte) : List PByte × State :=
  if src.any fun q => dst.any q.meets then
    let rows := (keysOf src).zip ((keysOf dst).zip b)
    let rows := if Config.freeBit s.free then rows.reverse else rows
    let done := mixBytes (fun i => Config.freeBit (s.free + 1 + i)) 0 rows []
    ((keysOf dst).zip b |>.map fun (k, x) => ((done.find? fun d => d.1 == k).map (·.2)).getD x,
      { s with free := s.free + 1 + b.length })
  else (b, s)

/-! ### Feeders (R400 to R402) -/

/-- The sites whose active plane binds a queue of an engine as their feeder. -/
def State.feeders (s : State) (eng queue : Nat) : List Nat :=
  (s.tiles.filter fun (n, (t : Tile)) => n / 256 == eng / 16 &&
    (match t.box.active with
     | some c => c.feeder.any fun (q, e, _) => q == queue && e == eng % 16
     | none => false)).map (·.1)

/-- Where the site attached to an engine lies, or the nearest live one along its edge (R30). -/
def State.engineSite (s : State) (eng : Nat) : Nat :=
  let die := eng / 16
  let e := eng % 16
  let sites := (List.range 16).map fun k =>
    if e < 8 then die * 256 + (if die < 2 then 0 else 240) + k else die * 256 + 16 * k + (if die % 2 = 0 then 0 else 15)
  let at1 := if e < 8 then 2 * e else 2 * (e - 8)
  (nearest s.mg.rtsvc.contains (fun n => apart (if e < 8 then n % 16 else n / 16 % 16) at1) sites).getD (die * 256)

/-- The neighbour that an output of a box leads to, with its input: outputs 0 N, 1 E, 2 S, 3 W; inputs 1 N, 2 E, 3 S, 4 W. -/
def boxNext (site out : Nat) : Option (Nat × Nat) :=
  let x := siteX site
  let y := siteY site
  match out with
  | 0 => if y = 0 then none else some (siteAt x (y - 1), 3)
  | 1 => if x = 31 then none else some (siteAt (x + 1) y, 4)
  | 2 => if y = 31 then none else some (siteAt x (y + 1), 1)
  | 3 => if x = 0 then none else some (siteAt (x - 1) y, 2)
  | _ => none

/-- What the converter of a box makes of bytes and of the end of the stream: the bytes it passes on, those it keeps, and
whether it has discarded any (R105, R107, R507). -/
def convert (c : Nat × Nat × Nat × Nat × Nat × Bool) (rest b : List PByte) (eos : Bool) : List PByte × List PByte × Bool :=
  let (_, src, dst, rc, wm1, uns) := c
  match Ty.ofCode src, Ty.ofCode dst with
  | some st, some dt =>
    let l := rest ++ b
    let unit := unitBytes st (wm1 + 1) * (if dt.isMX || dt == .pl then (if st.isMX || st == .pl then 1 else 1024) else 1)
    let n := if eos then l.length / unitBytes st (wm1 + 1) * unitBytes st (wm1 + 1) else l.length / unit * unit
    let rc := if dt.isMX || dt == .pl then 4 else rc
    (outBytes dt rc (wm1 + 1) uns (elemsOf st (wm1 + 1) uns (l.take n)), if eos then [] else l.drop n,
      eos && decide (n < l.length))
  | _, _ => (b, rest, false)

/-- Bytes, or the end of the stream with DROP, come to an input of a box; whether a converter on their way discards any. Whatever
comes to an input after its end-of-stream token is a stray, a second end-of-stream token too (R288, R529). EOSN counts every
end-of-stream token that an input of the active plane receives, that of the tile's own feeder among them (R289;
notes/assumptions/90.md). DESIGN CHOICE -/
def State.feedTo (fuel : Nat) (s : State) (site input : Nat) (b : List PByte) (eos : Option Bool) : State × Bool :=
  match fuel with
  | 0 => (s, false)
  | n + 1 =>
    let box := (s.tile site).box
    let setBox (s : State) (f : Box → Box) : State := s.modTile site fun t => { t with box := f t.box }
    let stray (s : State) : State :=
      if b.isEmpty && eos.isNone then s else setBox s fun x => { x with strays := insSet input x.strays }
    match box.active with
    | none => (stray s, false)
    | some c =>
      let s := if eos.isSome then setBox s fun x => { x with eosn := Nat.min (x.eosn + 1) 255 } else s
      if box.eosIn.contains input || !c.sel.contains input then (stray s, false)
      else
        let s := if eos.isSome then setBox s fun x => { x with eosIn := insSet input x.eosIn } else s
        (List.range 5).foldl (fun (s, lost) o =>
          if nth c.sel o 0 != input then (s, lost)
          else
            let (out, drop, s) : List PByte × Bool × State := match c.conv with
              | some cv =>
                if cv.1 = o then
                  let (out, rest, drop) := convert cv (s.tile site).box.rest b eos.isSome
                  (out, drop, setBox s fun x => { x with rest := rest })
                else (b, false, s)
              | none => (b, false, s)
            if o = 4 then
              (setBox s fun x => { x with inbuf := x.inbuf ++ out, eos := if eos.isSome then eos else x.eos }, lost || drop)
            else match boxNext site o with
              | some (dest, inp) =>
                let (s, more) := s.feedTo n dest inp out eos
                (s, lost || drop || more)
              | none => (s, lost || drop)) (s, false)

/-- Bytes, or the end of the stream, come to an input of a box. Where a converter discards any at the end of the stream, every
delivering box of the route gets DROP (R507). -/
def State.feed (fuel : Nat) (s : State) (site input : Nat) (b : List PByte) (eos : Option Bool) : State :=
  let (t, lost) := s.feedTo fuel site input b eos
  if lost then (s.feedTo fuel site input b (some true)).1 else t

/-- Bytes enter the route of a feeder box. -/
def State.feedRoute (s : State) (site : Nat) (b : List PByte) : State := s.feed 1024 site 5 b none

/-! ### Commands -/

/-- The ranges of a copy: destination, source, length. -/
abbrev Run := W64 × W64 × Nat

/-- The fields of a stage's MKFMT: FORMAT, W, H; and whether EN is set. -/
structure MarkFmt where
  en : Bool
  format : Nat
  w : Nat
  h : Nat
  deriving DecidableEq, Repr

def State.markFmt (s : State) (k : Nat) : MarkFmt :=
  let v := getD 0 s.mg.mkfmt k
  ⟨fld v 63 1 == 1, fld v 56 2, fld v 0 16, fld v 32 16⟩

/-- The frame length. -/
def MarkFmt.length (f : MarkFmt) : Nat := if f.format = 1 then f.w * f.h else 3 * f.w * f.h / 2

/-- The I/O die of the window that a frame goes to (R11). Of a frame whose pages name two windows it is that of the first page
(notes/assumptions/115.md). DESIGN CHOICE -/
def framePort (dst : List Piece) : Nat := match dst with | { p := .host port _, .. } :: _ => port | _ => 0

/-- Whether a command is a frame: a copy from marked pages to a sealed window (R422). -/
def isFrame (src dst : List Piece) : Bool := src.all (·.marked) && dst.all (·.sealed) && !src.isEmpty && !dst.isEmpty

/-- The refusal of marked writes (R421). -/
def markedBad (src dst : List Piece) : Bool :=
  if src.any (·.marked) then dst.any fun q => !q.marked || q.sealed else dst.any (·.sealed)

/-! ### Late commands (R387) -/

/-- A run of bytes cut at every 64-byte boundary. -/
def split64 {α : Type} (a : Nat) : List α → List (Nat × List α)
  | [] => []
  | x :: t =>
    match split64 (a + 1) t with
    | (b, l) :: r => if b % 64 = 0 then (a, [x]) :: (b, l) :: r else (a, x :: l) :: r
    | [] => [(a, [x])]

/-- Whether a rucksack holds a granule of the SRAM allocation (R390). -/
def Ruck.holds (r : Ruck) (g : Nat) : Bool :=
  let m := getD 0 r.kern.marks g
  if r.compact then m == 1 else m != 2

/-- The granules that a rucksack holds, ascending. -/
def Ruck.granules (r : Ruck) : List Nat := (List.range ((r.kern.sram + 63) / 64)).filter r.holds

/-- Where a granule of the SRAM allocation lies in the store. -/
def Ruck.granuleAt (r : Ruck) (g : Nat) : Nat := r.addr + nth r.offs 3 0 + 64 * ((List.range g).filter r.holds).length

/-- The rucksack of the tile that issued an instruction. -/
def State.ruckOf (s : State) (tr : Trace) : Option Ruck :=
  s.sched.rucks.find? fun r => r.l == tr.l && r.node == tr.node && r.kern.wid == tr.wid && r.site == tr.site

/-- The rucksack of the tile that issued an instruction, changed. -/
def State.modRuck (s : State) (tr : Trace) (f : Ruck → Ruck) : State :=
  let rucks := s.sched.rucks.map fun r =>
    if r.l == tr.l && r.node == tr.node && r.kern.wid == tr.wid && r.site == tr.site then f r else r
  { s with sched := { s.sched with rucks := rucks } }

/-- Bytes at an offset of the saved SRAM allocation go to the rucksack; a granule that is not saved takes none. -/
def State.writeRuckSram (s : State) (r : Ruck) (off : Nat) (b : List PByte) : State :=
  (split64 off b).foldl (fun s (a, l) =>
    if r.holds (a / 64) then s.writeMem (.hbm (r.granuleAt (a / 64) + a % 64)) r.kern.asp l else s) s

/-- Bytes at an offset of the saved plane-store allocation; a compact rucksack holds none of it. -/
def State.writeRuckPlane (s : State) (r : Ruck) (off : Nat) (b : List PByte) : State :=
  if r.compact then s else s.writeMem (.hbm (r.addr + nth r.offs 4 0 + off)) r.kern.asp b

/-- A write of a late command: the part within the saved tile's allocation goes to its rucksack. What it writes to another tile of
its node goes to that tile's site, whether or not that tile is saved (notes/assumptions/112.md). DESIGN CHOICE -/
def State.writeLate (s : State) (r : Ruck) (tr : Trace) (q : Piece) (b : List PByte) : State :=
  let inside (base n : Nat) (put : State → Nat → List PByte → State) : State :=
    let lo := Nat.min (base - q.off) b.length
    let hi := Nat.min (base + n - q.off) b.length
    let s := s.writePieces tr [{ q with n := lo }] (b.take lo)
    let s := if lo < hi then put s (q.off + lo - base) ((b.take hi).drop lo) else s
    s.writePieces tr [{ q with off := q.off + hi, n := b.length - hi }] (b.drop hi)
  match q.p with
  | .tile coord 0 =>
    if coord = s.coord r.site then inside r.kern.sbase r.kern.sram fun s => s.writeRuckSram r
    else s.writePieces tr [q] b
  | .tile coord 1 =>
    if coord = s.coord r.site then inside r.kern.pbase r.kern.planes fun s => s.writeRuckPlane r
    else s.writePieces tr [q] b
  | _ => s.writePieces tr [q] b

/-- Bytes of a late command over its runs. -/
def State.writeLateAll (s : State) (r : Ruck) (tr : Trace) : List Piece → List PByte → State
  | [], _ => s
  | q :: t, b => (s.writeLate r tr q (b.take q.n)).writeLateAll r tr t (b.drop q.n)

/-- The save block in a rucksack header, with LATE (R387, R388). -/
def Ruck.saveBlock (r : Ruck) : List (Nat × List Byte) :=
  [(0x38, leBytes 8 r.tagSave.toNat ++ (List.range 64).map fun t => BitVec.ofNat 8 (getD 0 r.pendSave t)),
   (0x80, leBytes 4 r.late)]

/-- A late command has come to its end: LATE falls, and the save block goes into the header once it is 0. -/
def State.lateEnd (s : State) (tr : Trace) : State :=
  let s := s.modRuck tr fun r => { r with late := r.late - 1 }
  match s.ruckOf tr with
  | some r =>
    if r.late = 0 then
      r.saveBlock.foldl (fun s (o, b) => s.writeMem (.hbm (r.addr + o)) r.kern.asp (b.map (·, false))) s
    else s
  | none => s

/-- The tag completion of a late command. -/
def State.tagCompletion (s : State) (tr : Trace) : State :=
  let s := match tr.tag with
    | some t => s.modRuck tr fun r =>
        let n := getD 0 r.pendSave t - 1
        { r with pendSave := putD 0 t n r.pendSave,
                 tagSave := if n = 0 then r.tagSave ||| BitVec.ofNat 64 (2 ^ t) else r.tagSave }
    | none => s
  s.lateEnd tr

/-- A fault of a saved node goes to the scheduler: the node ends. -/
def State.savedToSched (s : State) (f : FaultRec) (nest : Bool) : State :=
  (s.countFault f nest).endNode f.tr.l f.tr.node

/-- A fault recorded against a saved slot, which holds 8 (R457); a ninth goes to the scheduler, and its node ends. -/
def State.savedFault (s : State) (tr : Trace) (f : FaultRec) : State :=
  match (s.ruckOf tr).bind fun r => (r.slots.find? (·.1 == tr.slot)).map (·.2) with
  | none => s
  | some x =>
    if x.faults.length < 8 then
      s.modRuck tr fun r => { r with slots := r.slots.map fun (n, x) =>
        (n, if n == tr.slot then { x with faults := x.faults ++ [f] } else x) }
    else s.savedToSched f (fld x.tcause 63 1 == 1)

/-- A fault of an engine command. One of a late command is kept with the saved slot, and is delivered after the slot has
resumed (notes/assumptions/20.md). -/
def State.commandFault (s : State) (c : ECmd) (cls code : Nat) (v : W64) : State :=
  if c.late then (s.savedFault c.tr (s.faultRec c.tr ⟨cls, code, v, 0⟩ true)).lateEnd c.tr
  else s.asyncFault c.tr cls code v

/-- Bytes of a command written over its destination. -/
def State.putOut (s : State) (c : ECmd) (dst : List Piece) (b : List PByte) : State :=
  match (if c.late then s.ruckOf c.tr else none) with
  | some r => s.writeLateAll r c.tr dst b
  | none => s.writePieces c.tr dst b

/-- Runs of bytes in ascending order of their destination addresses, those of one address as they come. -/
def ascending (l : List (W64 × List PByte)) : List (W64 × List PByte) :=
  let insert (x : W64 × List PByte) (l : List (W64 × List PByte)) : List (W64 × List PByte) :=
    l.takeWhile (fun y => decide (y.1.toNat ≤ x.1.toNat)) ++ x :: l.dropWhile fun y => decide (y.1.toNat ≤ x.1.toNat)
  l.foldl (fun acc x => insert x acc) []

/-- Output of a command: each run of bytes is written over its destination, or all of them enter its routes in ascending
destination order (R400). -/
def State.emit (s : State) (c : ECmd) (l : List (W64 × List Piece × List PByte)) : State :=
  match s.feeders c.eng c.queue with
  | [] => l.foldl (fun s (_, dst, b) => s.putOut c dst b) s
  | boxes =>
    let b := (ascending (l.map fun (x, _, b) => (x, b))).flatMap (·.2)
    boxes.foldl (fun s n => s.feedRoute n b) s

/-- Bytes of a command from a position of what it reads, those of its poisoned beats of 128 bytes with poison (R469). -/
def struck (beats : List Nat) (pos : Nat) (b : List PByte) : List PByte :=
  b.mapIdx fun i x => (x.1, x.2 || beats.contains ((pos + i) / 128))

/-- The slots of a tile whose stores a command sees at once: the issuing one (R132). -/
def ownSlots (tr : Trace) (site : Nat) : List Nat := if site = tr.site then [tr.slot] else []

/-- A run of a copy with the places of its source and its destination. -/
structure Leg where
  x : W64
  src : List Piece
  dst : List Piece
  deriving DecidableEq, Repr

/-- The runs of a copy located, sources before destinations (notes/assumptions/7.md). -/
def State.locateRun (s : State) (c : ECmd) : Run → Except EErr Leg × State
  | (x, y, n) =>
    match s.locateAll c.eng (s.engineSite c.eng) c.tr .read (cutRange y n) with
    | (.error e, s) => (.error e, s)
    | (.ok src, s) =>
      match s.locateAll c.eng (s.engineSite c.eng) c.tr .write (cutRange x n) with
      | (.error e, s) => (.error e, s)
      | (.ok dst, s) => (.ok ⟨x, src, dst⟩, s)

def State.locateRuns (s : State) (c : ECmd) : List Run → Except EErr (List Leg) × State
  | [] => (.ok [], s)
  | r :: t =>
    match s.locateRun c r with
    | (.error e, s) => (.error e, s)
    | (.ok g, s) =>
      match s.locateRuns c t with
      | (.error e, s) => (.error e, s)
      | (.ok l, s) => (.ok (g :: l), s)

/-- Bytes read from some runs: those of a host port that has not answered in time are poison (R508). -/
def silenced (mute : List Nat) (src : List Piece) (b : List PByte) : List PByte :=
  (b.zip (src.flatMap fun q => List.replicate q.n (match q.p with | .host port _ => mute.contains port | _ => false))).map
    fun (x, o) => (x.1, x.2 || o)

/-- The bytes that a command reads from some runs. -/
def State.readFor (s : State) (c : ECmd) (ext : List ExtRead) (src : List Piece) : Except EErr (List PByte × State) :=
  (s.readPieces c.tr.asp (ownSlots c.tr) ext src).map fun (b, s) => (silenced c.mute src b, s)

/-- The located runs performed one after the other, from a position of what the command reads: each is read, and then written, or its bytes wait for the routes. -/
def State.copyLegs (s : State) (c : ECmd) (ext : List ExtRead) (feeding : Bool) (pos : Nat) :
    List Leg → List (W64 × List Piece × List PByte) → Except EErr (List (W64 × List Piece × List PByte) × State)
  | [], out => .ok (out, s)
  | g :: t, out =>
    match s.readFor c ext g.src with
    | .error e => .error e
    | .ok (b, s) =>
      let came := s.fromOutside g.src b
      let b := struck c.beats pos b
      if feeding then s.copyLegs c ext feeding (pos + b.length) t (out ++ [(g.x, g.dst, b)])
      else
        let (b, s) := s.copied g.src g.dst b
        ((s.putOut c g.dst b).receivedAll g.dst came).copyLegs c ext feeding (pos + b.length) t out

/-- A copy of one or more runs: everything is located before anything is written (notes/assumptions/7.md), and a mark makes a
marked command of the whole (R421). frame tells whether the copy may be a frame that a mark stage takes; one in a feeder queue
enters its route (R400), where it is of the length of the stage's frames and the stage is enabled (R422). -/
def State.copyRuns (s : State) (c : ECmd) (ext : List ExtRead) (frame : Bool) (pos : Nat) (runs : List Run) :
    Except EErr State × State :=
  match s.locateRuns c runs with
  | (.error e, s) => (.error e, s)
  | (.ok legs, s) =>
    let src := legs.flatMap (·.src)
    let dst := legs.flatMap (·.dst)
    let feeding := !(s.feeders c.eng c.queue).isEmpty
    let asFrame := frame && isFrame src dst
    let f := s.markFmt (framePort dst)
    if asFrame && !feeding then (.error .wait, s)
    else if (!asFrame && markedBad src dst) || (asFrame && (!f.en || (dst.map (·.n)).sum != f.length)) then (.error (.bad 12 4 0), s)
    else
      match s.copyLegs c ext feeding pos legs [] with
      | .error e => (.error e, s)
      | .ok (out, s) => (.ok (if feeding then s.emit c out else s), s)

/-- Bytes made by the engine itself over a range; came tells whether poison from outside is in them. -/
def State.putRun (s : State) (c : ECmd) (srcMarked came : Bool) (x : W64) (b : List PByte) : Except EErr State × State :=
  match s.locateAll c.eng (s.engineSite c.eng) c.tr .write (cutRange x b.length) with
  | (.error e, s) => (.error e, s)
  | (.ok dst, s) =>
    if (if srcMarked then dst.any fun q => !q.marked || q.sealed else dst.any (·.sealed)) then (.error (.bad 12 4 0), s)
    else
      let t := s.emit c [(x, dst, b)]
      (.ok (if came && (s.feeders c.eng c.queue).isEmpty then t.receivedAll dst b else t), s)

/-- The rows of a CPY2 (R302). -/
def rowsOf (w : List W64) : List Run :=
  let rows := fld (nth w 2 0) 32 32
  let len := fld (nth w 2 0) 0 32
  let d : W64 := (BitVec.ofNat 32 (fld (nth w 3 0) 32 32)).signExtend 64
  let e : W64 := (BitVec.ofNat 32 (fld (nth w 3 0) 0 32)).signExtend 64
  (List.range rows).map fun k => (nth w 0 0 + BitVec.ofNat 64 k * d, nth w 1 0 + BitVec.ofNat 64 k * e, len)

/-- Whether a CPYC descriptor breaks its limits (R304). -/
def cpycBad (w : List W64) : Bool :=
  let f := nth w 3 0
  2 ^ 32 ≤ (nth w 2 0).toNat || fld f 5 3 != 0 || fld f 13 3 != 0 || fld f 19 1 != 0 || fld f 25 39 != 0 ||
    !convPair (fld f 0 5) (fld f 8 5) || !convWidthOk (fld f 0 5) (fld f 8 5) (fld f 20 4) (fld f 24 1 == 1)

/-- CPYC: the source is read in whole groups where it has block form, and its first elements are converted (R304). -/
def State.convertRun (s : State) (c : ECmd) (ext : List ExtRead) (w : List W64) : Except EErr State × State :=
  if cpycBad w then (.error (.bad 7 0x11 c.tr.opd), s)
  else
    let f := nth w 3 0
    match Ty.ofCode (fld f 0 5), Ty.ofCode (fld f 8 5) with
    | some st, some dt =>
      let n := (nth w 2 0).toNat
      let wd := fld f 20 4 + 1
      let uns := fld f 24 1 == 1
      let block := st.isMX || st == .pl
      let len := if block then (n + 1023) / 1024 * groupBytes st wd else n * unitBytes st wd
      match s.locateAll c.eng (s.engineSite c.eng) c.tr .read (cutRange (nth w 1 0) len) with
      | (.error e, s) => (.error e, s)
      | (.ok src, s) =>
        match s.readFor c ext src with
        | .error e => (.error e, s)
        | .ok (b, s) =>
          let came := anyBad (s.fromOutside src b)
          let rc := if dt.isMX || dt == .pl then 4 else fld f 16 3
          s.putRun c (src.any (·.marked)) came (nth w 0 0)
            (struck c.beats ((len + 127) / 128 * 128) (outBytes dt rc wd uns ((elemsOf st wd uns (struck c.beats 0 b)).take n)))
    | _, _ => (.error (.bad 7 0x11 c.tr.opd), s)

/-- The run of an entry of a CPYL list. -/
def entryRun (w : List W64) : Run := (nth w 0 0, nth w 1 0, (nth w 2 0).toNat)

/-- The entries of a CPYL from a position of what it reads, each as a CPY of its own, with how many have been performed. One whose
length is too great, or that fails, stops the command there, and what came before it stands (R137, R303, R495). -/
def State.copyList (s : State) (c : ECmd) (ext : List ExtRead) (pos : Nat) : List (List W64) → Except EErr State × State × Nat
  | [] => (.ok s, s, 0)
  | w :: t =>
    if 2 ^ 32 ≤ (entryRun w).2.2 then (.error (.bad 7 0x16 (nth w 2 0)), s, 0)
    else
      match s.copyRuns c ext false pos [entryRun w] with
      | (.ok s, _) =>
        let (r, s, n) := s.copyList c ext (pos + (entryRun w).2.2) t
        (r, s, n + 1)
      | (.error e, s) => (.error e, s, 0)

/-- The list of a CPYL, three words to an entry, with whether any of it is poisoned. -/
def Tile.listAt (t : Tile) (addr n : Nat) : List (List W64) × Bool :=
  ((List.range n).map fun k => (List.range 3).map fun j => BitVec.ofNat 64 (loadNat t.sram (addr + 24 * k + 8 * j) 8),
    anyPoison 3 t.sramPoison addr (24 * n))

/-- A command starts: a CPYL reads its list, once (R303). -/
def State.startCmd (s : State) (c : ECmd) : ECmd :=
  match c.op with
  | .cpyl addr n none => { c with op := .cpyl addr n (some ((s.tile c.tr.site).listAt addr n)) }
  | _ => c

/-- The bytes of a FILL. -/
def fillBytes (pat : W64) (len : Nat) : List PByte :=
  (List.range len).map fun i => (BitVec.ofNat 8 (pat.toNat / 2 ^ (8 * (i % 8))), false)

/-- What a command with no list does; frames are left to the mark stages. -/
def State.command1 (s : State) (c : ECmd) (ext : List ExtRead) : Except EErr State × State :=
  match c.op with
  | .cpy dst src len => s.copyRuns c ext true 0 [(dst, src, len)]
  | .cpy2 none => (.error .wait, s)
  | .cpy2 (some w) => if c.bad then (.error (.bad 11 3 c.tr.opd), s) else s.copyRuns c ext false 0 (rowsOf w)
  | .cpyc none => (.error .wait, s)
  | .cpyc (some w) => if c.bad then (.error (.bad 11 3 c.tr.opd), s) else s.convertRun c ext w
  | .cpyl .. => (.error .wait, s)
  | .fill dst pat len => s.putRun c false false dst (struck c.beats 0 (fillBytes pat len))
  | .qfence _ await =>
    if s.engines.any fun (_, q) => q.any fun d => await.contains d.id then (.error .wait, s) else (.ok s, s)

/-- What a command does, and how many entries of its list it performs; one that has been stopped goes on with the entry that it
stopped at. -/
def State.command (s : State) (c : ECmd) (ext : List ExtRead) : Except EErr State × State × Nat :=
  match c.op with
  | .cpyl _ _ (some (l, bad)) =>
    if bad then (.error (.bad 11 3 c.tr.opd), s, 0)
    else s.copyList c ext ((l.take c.done).map fun w => (entryRun w).2.2).sum (l.drop c.done)
  | _ =>
    let (r, s) := s.command1 c ext
    (r, s, 0)

/-! ### Queues -/

/-- The commands of queue q of engine e. -/
def State.engQueue (s : State) (e q : Nat) : List ECmd := getD [] s.engines (8 * e + q)
def State.setEngQueue (s : State) (e q : Nat) (l : List ECmd) : State :=
  { s with engines := putD [] (8 * e + q) l s.engines }

/-- What a QFENCE waits for, as it enters its queue: the commands in the queues of its mask (R305). -/
def State.awaited (s : State) (c : ECmd) : ECmd :=
  match c.op with
  | .qfence mask _ =>
    { c with op := .qfence mask ((List.range 8).flatMap fun q =>
        if bitOf mask q && q != c.queue then (s.engQueue c.eng q).map (·.id) else []) }
  | _ => c

/-- The engine port passes on its head command once its queue has room (R300). -/
def execEnginePortForward (site : Nat) (s : State) : Res :=
  .next (match (s.tile site).engPort with
    | c :: rest =>
      if (s.engQueue c.eng c.queue).length < 16 then
        (s.modTile site fun t => { t with engPort := rest }).setEngQueue c.eng c.queue
          (s.engQueue c.eng c.queue ++ [s.awaited c])
      else s
    | [] => s)

/-- A generator stops at a translation fault, and its record is filed (R492, R493). -/
def State.stopGen (s : State) (g : Gen) (coord asp kind code : Nat) (addr : W64) : State :=
  s.fileRecord (xrecOf g coord asp kind code addr)

/-- The head command of an engine queue has completed. -/
def State.finishHead (s : State) (e q : Nat) (c : ECmd) (rest : List ECmd) : State :=
  let s := s.setEngQueue e q rest
  if c.late then s.tagCompletion c.tr else s.complete c.tr

/-- The head command of an engine queue has made its reads and writes, and every write is acknowledged: it completes, or it
faults. -/
def State.endHead (s : State) (e q : Nat) (c : ECmd) (rest : List ECmd) : State :=
  match c.failed with
  | some (cls, code, v) => (s.setEngQueue e q rest).commandFault c cls code v
  | none => s.finishHead e q c rest

/-- A command that has sent writes to other packages between two states. -/
def ECmd.awaiting (c : ECmd) (old new : State) : ECmd :=
  { c with acks := c.acks ++ (List.range (new.nextMsg - old.nextMsg)).map (old.nextMsg + ·) }

/-- The head command has made its reads and writes; it waits for the answers to those writes that went to other packages since
a state (R137). -/
def State.ranHead (s old : State) (e q : Nat) (c : ECmd) (rest : List ECmd) (failed : Option (Nat × Nat × W64)) : State :=
  let c := { c.awaiting old s with ran := true, failed := if c.failed.isSome then c.failed else failed }
  if c.acks.isEmpty then s.endHead e q c rest else s.setEngQueue e q (c :: rest)

/-- Whether a late command waits: its rucksack lies in a slice that is being emptied (R128). -/
def State.ruckWaits (s : State) (c : ECmd) : Bool :=
  c.late && (s.ruckOf c.tr).any fun r => s.mustWait (.hbm r.addr) (nth r.offs 8 0)

/-- The head command of an engine queue: it completes, faults, stops, or cannot come to its end yet. -/
def State.runHead (s : State) (e q : Nat) (ext : List ExtRead) : State :=
  match s.engQueue e q with
  | [] => s
  | c :: rest =>
    if c.stopped || s.cyc < c.iss + 4 || s.ruckWaits c then s
    else if c.ran then (if c.acks.isEmpty then s.endHead e q c rest else s)
    else
      let c := s.startCmd c
      match s.command c ext with
      | (.error .wait, _) => s.setEngQueue e q (c :: rest)
      | (.error (.xlat kind code addr), t, n) =>
        (t.setEngQueue e q ({ c.awaiting s t with stopped := true, done := c.done + n } :: rest)).stopGen (.eng e q)
          (s.coord c.tr.site) c.tr.asp kind code addr
      | (.error (.bad cls code v), t, _) => t.ranHead s e q c rest (some (cls, code, v))
      | (.ok t, _) => t.ranHead s e q c rest none

/-- A write to another package is acknowledged there, or has failed. -/
def State.wrote (s : State) (id : Nat) (fail : Option (Nat × Nat × W64)) : State :=
  { s with
    hostAcks := s.hostAcks.filter (·.1 != id),
    engines := s.engines.map fun (k, l) => (k, l.map fun c =>
      if c.acks.contains id then
        { c with acks := c.acks.filter (· != id), failed := if c.failed.isNone then fail else c.failed } else c) }

/-- A command of a node that is in place completes (R137, R296). -/
def execEngineCommandComplete (e q : Nat) (ext : List ExtRead) (s : State) : Res :=
  .next (match s.engQueue e q with
    | c :: _ => if c.late then s else s.runHead e q ext
    | [] => s)

/-- A late command completes (R387). -/
def execLateCommandCompletion (e q : Nat) (ext : List ExtRead) (s : State) : Res :=
  .next (match s.engQueue e q with
    | c :: _ => if c.late then s.runHead e q ext else s
    | [] => s)

end Sys2Proof.Machine
end

