-- ==== Sys2Proof/Machine/Net.lean ====
section
/-!
DEFINITION. The network command queue and the shard queue at work: token claims, grants and sends (R281, R345 to R347,
R506, R523), end-of-stream tokens and configuration images (R286, R287, R400 to R404), what a delivering box hands to its
tile (R401, R507), shard operations (R290, R291, R351, R352), and what arrives from the fabric (R163, R408, R420).
-/

namespace Sys2Proof.Machine

/-! ### Token images (R281) -/

/-- The entry at the head of the network command queue, once its operands' stores are in SRAM. -/
def State.netHead (s : State) (site : Nat) : Option QEntry :=
  match (s.tile site).netQ with
  | e :: _ => if (s.tile site).netStopped || s.cyc < e.iss + 4 then none else some e
  | [] => none

/-- The head leaves the network command queue. -/
def State.popNet (s : State) (site : Nat) : State := s.modTile site fun t => { t with netQ := t.netQ.drop 1 }

/-- Where an image lies: its physical and local offsets and the bytes that it may have. -/
def State.imageAt (s : State) (site : Nat) (e : QEntry) : Nat × Nat × Nat :=
  let t := s.tile site
  let k := t.kernelOf e.tr.kern
  match e.bslot with
  | some (n, i) => (t.basketAt n i, (t.basket n).off i, (t.basket n).bytes)
  | none => (k.sbase + e.a.toNat, e.a.toNat, k.sram - e.a.toNat)

/-- Word j of a run of SRAM. -/
def Tile.word (t : Tile) (a j : Nat) : W64 := BitVec.ofNat 64 (loadNat t.sram (a + 8 * j) 8)

/-- Whether word 0 of an image, or its length, breaches R281. -/
def imageBad (w : W64) (limit : Nat) : Bool :=
  let len := fld w 0 32
  fld w 60 4 != 1 || len % 64 != 0 || len < 64 || 49152 < len || limit < len

/-- The tile that a send goes to, resolved as its command executes (R280, R523). -/
def State.sendDest (s : State) (site : Nat) (e : QEntry) (route : W64) : Nat :=
  let t := s.tile site
  let d := routeDest t (t.kernelOf e.tr.kern) route
  if routeOut route = 4 then t.relocated d else d

/-- The ring circuit of a pod-ring hop to another package, where one is bound (R407). -/
def State.hopCircuit (s : State) (e : QEntry) (route : W64) (dst : Nat) : Option Nat :=
  if routeOut route = 3 && coordPkg dst != s.pkg then s.bound 1 e.tr.owner (coordPkg dst) else none

/-- Whether a destination can be reached: by the circuit of the hop where one is bound, else by packets (R506). -/
def State.sendReach (s : State) (site : Nat) (e : QEntry) (route : W64) (dst : Nat) : Bool :=
  match s.hopCircuit e route dst with
  | some n => s.laneUp n
  | none => (s.wayTo site (.tile dst 0)).isSome

/-- The branches of a token send: the branch bit, and its route word. -/
def QEntry.branches (e : QEntry) : List (Option Bool × W64) :=
  match e.i with
  | .tfork .. => [(some false, e.b), (some true, e.d)]
  | _ => [(none, e.b)]

/-- The census of a launch with a token registered (R347). -/
def State.register (s : State) (tr : Trace) (tokid : Nat) : State :=
  if s.sched.census.any fun c => c.1.l == tr.l && c.2 == tokid then s
  else { s with sched := { s.sched with census := s.sched.census ++ [(⟨tr.l, tr.node, tr.wid⟩, tokid)] } }

/-- One branch makes its claim and steps aside. -/
def State.claimBranch (s : State) (site : Nat) (e : QEntry) (len : Nat) (tokid : Nat) (born new : Bool)
    (b : Option Bool × W64) : State :=
  let t := s.tile site
  let dst := s.sendDest site e b.2
  let c : Claim := { src := s.coord site, id := t.nextId, dst := dst, chan := routeChan b.2, len := len, tokid := tokid,
                     born := born || new, l := e.tr.l, asp := e.tr.asp, owner := e.tr.owner }
  (s.setTile site { t with
    nextId := t.nextId + 1,
    sends := t.sends ++ [{ id := t.nextId, e := e, dst := dst, chan := routeChan b.2, len := len, branch := b.1, born := new,
                           since := s.cyc }] }).departOn (s.hopCircuit e b.2 dst) (coordPkg dst) (.claim c)

/-- A token send executes: its header is read and checked, and its claims are requested (R261, R281, R345). -/
def State.startSend (s : State) (site : Nat) (e : QEntry) : State :=
  let t := s.tile site
  let (a, off, limit) := s.imageAt site e
  let s' := s.popNet site
  let w (j : Nat) : W64 := t.word a j
  if limit < 64 then s'.asyncFault e.tr 7 0x12 (w 0)
  else if anyPoison 3 t.sramPoison a 24 then s'.asyncFault e.tr 11 5 (BitVec.ofNat 64 off)
  else if imageBad (w 0) limit then s'.asyncFault e.tr 7 0x12 (w 0)
  else if e.branches.any fun b => !s.sendReach site e b.2 (s.sendDest site e b.2) then s'.countGw.asyncFault e.tr 12 7 0
  else
    let born := fld (w 2) 63 1 == 1
    let tokid := fld (w 1) 16 48
    let new := !born && fld (w 2) 32 22 == s.coord site && (match e.i with | .tsend .. => true | _ => false)
    if new && 65536 ≤ (s.sched.census.filter (·.1.l == e.tr.l)).length then s
    else
      let s' := if new then s'.register e.tr tokid else s'
      e.branches.foldl (fun s b => s.claimBranch site e (fld (w 0) 0 32) tokid born new b) s'

/-! ### End of stream (R286, R400) -/

/-- EOS at the head of the queue: it waits for the commands passed to the feeder queue before it. -/
def State.runEos (s : State) (site : Nat) (e : QEntry) : State :=
  let t := s.tile site
  match t.box.active.bind (·.feeder) with
  | some (q, eng, k) =>
    if k != e.a.toNat then (s.popNet site).complete e.tr
    else
      let eng := site / 256 * 16 + eng
      let before (c : ECmd) : Bool := c.tr.site == site && c.eng == eng && c.queue == q && decide (c.id < e.d.toNat)
      if t.engPort.any before || (s.engQueue eng q).any before then s
      else ((s.popNet site).feed 1024 site 5 [] (some false)).complete e.tr
  | none => (s.popNet site).complete e.tr

/-- The network command queue executes its head entry; a CFGLD comes to its end by itself. -/
def execNetworkCommandExecute (site : Nat) (s : State) : Res :=
  .next (match s.netHead site with
    | some e =>
      match e.i with
      | .tsend .. => s.startSend site e
      | .tfwd .. => s.startSend site e
      | .tfork .. => s.startSend site e
      | .eos .. => s.runEos site e
      | _ => s
    | none => s)

/-! ### Claims (R345, R346, R506) -/

/-- The code with which a claim is refused at its destination. While the basket of its channel is not valid it waits. -/
def State.refuseClaim (s : State) (via : Option Nat) (c : Claim) : Option Nat :=
  let t := s.tile (coordSite c.dst)
  if s.windowBad c.dst 0 then some 7
  else match s.refusal via c.src c.owner (.tile c.dst 0) with
    | some code => some code
    | none =>
      match t.entryFor c.chan with
      | none => some 9
      | some e =>
        let b := t.basket (hentBasket (t.hentOf e))
        if b.valid && decide (b.bytes < c.len) then some 0x0E else none

/-- A claim is refused: its package counts that, and its send is told, along the circuit that brought the claim (R506). -/
def State.turnClaim (s : State) (c : Claim) (code : Nat) : State :=
  s.countGw.postOn c.circ (coordPkg c.src) (.grant c.src c.dst c.id none code)

/-- A claim reaches its destination basket: it waits there, or is refused. -/
def execClaimRequest (n : Nat) (s : State) : Res :=
  .next (match s.taken n with
    | some (⟨_, via, .claim c⟩, t) =>
      if coordPkg c.dst != s.pkg then s
      else
        let c := { c with circ := t.circuitOf via }
        match t.refuseClaim via c with
        | some code => t.turnClaim c code
        | none => t.modTile (coordSite c.dst) fun x => { x with claims := x.claims ++ [c] }
    | _ => s)

/-- Whether the claim's send still stands, as far as its own package can tell. -/
def State.claimStands (s : State) (c : Claim) : Bool :=
  coordPkg c.src != s.pkg || (s.tile (coordSite c.src)).sends.any (·.id == c.id)

/-- The claims that wait for a basket, in the order in which they came. -/
def Tile.claimsAt (t : Tile) (n : Nat) : List Claim :=
  t.claims.filter fun c => (t.entryFor c.chan).any fun e => hentBasket (t.hentOf e) == n

/-- The claim that a basket grants now, with the slot: the first for an ordinary slot, else the first by the oldest token for
the reserved one (R345, R346). -/
def Tile.grantable (t : Tile) (n : Nat) : Option (Claim × Nat) :=
  let mine := t.claimsAt n
  match (t.basket n).pick false with
  | some i => mine.head?.map (·, i)
  | none =>
    match mine.find? fun c => c.born && (t.oldest.find? (·.1 == c.l)).any (·.2 == c.tokid) with
    | some c => ((t.basket n).pick true).map (c, ·)
    | none => none

/-- A basket grants a slot to a claim; one that a BKINIT since has made too long for the basket is refused (R506). -/
def execClaimGrant (site basket : Nat) (s : State) : Res :=
  .next (
    let s := s.modTile site fun t => { t with claims := t.claims.filter s.claimStands }
    let t := s.tile site
    match (t.claimsAt basket).find? fun c => (t.basket basket).valid && decide ((t.basket basket).bytes < c.len) with
    | some c => (s.setTile site { t with claims := t.claims.erase c }).turnClaim c 0x0E
    | none =>
      match t.grantable basket with
      | some (c, i) =>
        (s.setTile site ({ t with claims := t.claims.erase c, grants := t.grants ++ [(basket, i, c.src, c.id)] }.setBasket basket
          ((t.basket basket).claim i .filling))).postOn c.circ (coordPkg c.src) (.grant c.src c.dst c.id (some (basket, i)) 0)
      | none => s)

/-- A claim is withdrawn, or the slot granted to it is given back: it waits at the basket, is on its way there, or has been
granted. -/
def State.unclaim (s : State) (dst src id : Nat) : State :=
  let site := coordSite dst
  let mine (g : Nat × Nat × Nat × Nat) : Bool := g.2.2.1 == src && g.2.2.2 == id
  let s := { s with wire := s.wire.filter fun f => match f.m with
    | .claim c => !(c.src == src && c.id == id)
    | _ => true }
  s.modTile site fun t =>
    let t := (t.grants.filter mine).foldl (fun t g => t.freeSlot g.1 g.2.1) t
    { t with claims := t.claims.filter fun c => !(c.src == src && c.id == id), grants := t.grants.filter fun g => !mine g }

/-- The send of a claim, or of a grant, is no more. -/
def State.giveBack (s : State) (dst src id : Nat) : State :=
  if coordPkg dst = s.pkg then s.unclaim dst src id else s.post (coordPkg dst) (.unclaim dst src id)

/-! ### Sending the image -/

/-- A token image arrives in the slot that was claimed for it (R277). -/
def State.deliverToken (s : State) (site chan n i : Nat) (image : List PByte) : State :=
  let a := (s.tile site).basketAt n i
  let s := (s.putBytes site a image).stampSlot site n i
  s.modTile site fun t =>
    t.arrive 1 chan n (some i) (fld (t.word a 0) 0 32) ((List.range 7).map fun j => t.word a (j + 1)) (s.cyc + 3)

/-- Word j of an image replaced. -/
def setWord (j : Nat) (w : W64) (l : List PByte) : List PByte :=
  l.mapIdx fun i b => if i / 8 = j then (BitVec.ofNat 8 (w.toNat / 2 ^ (8 * (i % 8))), b.2) else b

/-- The branch word of one branch of a TFORK: DEPTH one more, and PATH bit (old DEPTH) the branch (R281). -/
def forkWord (w : W64) (branch : Bool) : W64 :=
  let d := branchDepth w
  let path := fld w 0 8
  let path := path - bitNat (bitOf path d) * 2 ^ d + (if branch then 2 ^ d else 0)
  word64 [(16, fld w 16 48), (12, d + 1), (8, fld w 8 4), (0, path)]

/-- The image as it is sent: CHAN in word 0, the branch in word 1, BORN in word 2 (R280, R281, R347). -/
def sentImage (x : Send) (w0 w1 w2 : W64) (l : List PByte) : List PByte :=
  let l := setWord 0 (word64 [(60, fld w0 60 4), (52, x.chan), (0, fld w0 0 52)]) l
  let l := match x.branch with
    | some b => setWord 1 (forkWord w1 b) l
    | none => l
  if x.born then setWord 2 (word64 [(63, 1), (0, fld w2 0 63)]) l else l

/-- A send is refused: the command fails, its other branch is withdrawn, and a token registered for it leaves the census
(R506). -/
def State.refuseSend (s : State) (site : Nat) (x : Send) (code : Nat) : State :=
  let a := (s.imageAt site x.e).1
  let s := if x.born then s.retireToken x.e.tr.l (fld ((s.tile site).word a 1) 16 48) else s
  let others := (s.tile site).sends.filter fun y => y.e == x.e && y.id != x.id
  let s := s.modTile site fun t => { t with sends := t.sends.filter (·.e != x.e) }
  (others.foldl (fun s y => s.giveBack y.dst (s.coord site) y.id) s).asyncFault x.e.tr 12 code 0

/-- The route word of a send. -/
def Send.route (x : Send) : W64 := match x.branch with | some true => x.e.d | _ => x.e.b

/-- The image of one branch leaves for the slot that is granted; after the last one the command is complete. -/
def State.sendImageTo (s : State) (site : Nat) (x : Send) (n i : Nat) : State :=
  let t := s.tile site
  let a := (s.imageAt site x.e).1
  let image := sentImage x (t.word a 0) (t.word a 1) (t.word a 2) (t.getBytes a x.len)
  let m : TokenMsg := { src := s.coord site, dst := x.dst, chan := x.chan, basket := n, slot := i, id := x.id, asp := x.e.tr.asp,
                        owner := x.e.tr.owner, image := image }
  let s := (s.modTile site fun t =>
    { t with sends := t.sends.filter (·.id != x.id), tokensOut := t.tokensOut ++ [({ x with since := s.cyc }, m)] }).departOn
      (s.hopCircuit x.e x.route x.dst) (coordPkg x.dst) (.token m)
  if (s.tile site).sends.any (·.e == x.e) then s
  else
    let s := match x.e.bslot with
      | some (n, i) => s.modTile site fun t => t.freeSlot n i
      | none => s
    s.complete x.e.tr

/-- The answer to a claim reaches the send that has stepped aside; a slot granted to a send that is no more is given back. -/
def State.answerClaim (s : State) (dst src id : Nat) (slot : Option (Nat × Nat)) (code : Nat) : State :=
  match (s.tile (coordSite dst)).sends.find? (·.id == id), slot with
  | some x, some (n, i) => s.sendImageTo (coordSite dst) x n i
  | some x, none => s.refuseSend (coordSite dst) x code
  | none, some _ => s.giveBack src dst id
  | none, none => s

/-- A token image reaches its tile: a gateway rejects it, it goes into its slot, or its slot has taken it already (R505). -/
def State.tokenArrives (s : State) (via : Option Nat) (t : TokenMsg) : State :=
  let site := coordSite t.dst
  let g : Nat × Nat × Nat × Nat := (t.basket, t.slot, t.src, t.id)
  match s.refusal via t.src t.owner (.tile t.dst 0) with
  | some code => (s.unclaim t.dst t.src t.id).turnBack via (.token t) 12 code 0
  | none =>
    let s := s.postOn (s.circuitOf via) (coordPkg t.src) (.ack t.src t.dst t.id [])
    if (s.tile site).grants.contains g then
      let s := s.modTile site fun x => { x with grants := x.grants.erase g }
      let a := (s.tile site).basketAt t.basket t.slot
      let s := s.deliverToken site t.chan t.basket t.slot t.image
      if via.isSome then s.received (.sram site a) t.image
      else if anyBad t.image then s.noteError false 0 (s.coord site) a else s
    else s

/-- A message comes to a tile: the grant, or the refusal, of a send that stepped aside there, or a token image for the slot claimed
for it. -/
def execTokenSendPerform (site n : Nat) (s : State) : Res :=
  .next (match s.taken n with
    | some (⟨_, _, .grant dst src id slot code⟩, t) =>
      if dst != s.coord site then s else t.answerClaim dst src id slot code
    | some (⟨_, via, .token m⟩, t) => if m.dst != s.coord site then s else t.tokenArrives via m
    | _ => s)

/-! ### Configuration images (R287, R402 to R404) -/

/-- The word j of entry k of an image. -/
def imageWord (b : List PByte) (k j : Nat) : W64 :=
  BitVec.ofNat 64 (leNat (((b.drop (64 * (k + 1) + 8 * j)).take 8).map (·.1)))

/-- A box entry, as far as its codes are allowed (R402, R403). -/
def boxEntry (w : Nat → W64) : Option (Nat × BoxCfg) :=
  let sel := (List.range 5).map fun o => fld (w 1) (4 * o) 4
  let fv := fld (w 2) 63 1 == 1
  let dv := fld (w 3) 63 1 == 1
  let cv := fld (w 4) 63 1 == 1
  let uns := fld (w 4) 7 1 == 1
  let bad := fld (w 0) 22 42 != 0 || fld (w 1) 20 44 != 0 || sel.any (5 < ·) ||
    fld (w 2) 4 4 != 0 || fld (w 2) 15 48 != 0 || fv != sel.contains 5 ||
    fld (w 3) 12 4 != 0 || fld (w 3) 32 31 != 0 || dv != (nth sel 4 0 != 0) ||
    (dv && (fld (w 3) 16 16 == 0 || decide (768 < fld (w 3) 16 16))) ||
    (!cv && w 4 != 0) || fld (w 4) 0 7 != 0 || fld (w 4) 15 1 != 0 || fld (w 4) 21 3 != 0 || fld (w 4) 29 31 != 0 ||
    (cv && (decide (4 < fld (w 4) 60 3) || !convPair (fld (w 4) 24 5) (fld (w 4) 16 5) ||
      !convWidthOk (fld (w 4) 24 5) (fld (w 4) 16 5) (fld (w 4) 8 4) uns)) ||
    w 5 != 0 || w 6 != 0 || w 7 != 0
  if bad then none
  else some (fld (w 0) 0 22,
    { sel := sel,
      feeder := if fv then some (fld (w 2) 12 3, fld (w 2) 8 4, fld (w 2) 0 4) else none,
      deliver := if dv then some (fld (w 3) 16 16, fld (w 3) 8 4, fld (w 3) 0 8) else none,
      conv := if cv then some (fld (w 4) 60 3, fld (w 4) 24 5, fld (w 4) 16 5, fld (w 4) 12 3, fld (w 4) 8 4, uns)
        else none })

/-- Whether an image's header is as R402 has it. -/
def headerOk (b : List PByte) (n : Nat) : Bool :=
  let h := (b.take 64).map (·.1)
  h.take 8 == [0x52, 0x4F, 0x55, 0x54, 0x45, 0x43, 0x46, 0x47] && (h.drop 8).take 2 == [1, 0] &&
    leNat ((h.drop 10).take 2) == n && (h.drop 12).all (· == 0)

/-- Whether a box uses a link to another die that the region does not span (R404). -/
def crossesOut (sites : List Nat) (site : Nat) (c : BoxCfg) : Bool :=
  (List.range 4).any fun o =>
    (nth c.sel o 0 != 0 || c.sel.contains (o + 1)) &&
      (match boxNext site o with
       | some (n, _) => n / 256 != site / 256 && !sites.contains n
       | none => false)

/-- Whether an output leads to a box of the image that does not select that input. -/
def leadsNowhere (l : List (Nat × BoxCfg)) (site : Nat) (c : BoxCfg) : Bool :=
  (List.range 4).any fun o => nth c.sel o 0 != 0 &&
    (match boxNext site o with
     | some (n, inp) => l.any fun (k, d) => k == n && !d.sel.contains inp
     | none => false)

/-- The boxes of an image: those of this package by site, and those of other packages by coordinate, where the issuing region
spans packages. None where CFGLD rejects the image. -/
def State.boxesOf (s : State) (tr : Trace) (b : List PByte) : Option (List (Nat × BoxCfg) × List (Nat × BoxCfg)) :=
  let n := b.length / 64 - 1
  let sites := (s.regionOn ⟨tr.l, tr.node, tr.wid⟩).map (·.1)
  let spans := s.spanning ((s.tile tr.site).kernelOf tr.kern)
  let es := (List.range n).map fun k => boxEntry (imageWord b k)
  if b.length != 64 + 64 * n || n = 0 || 960 < n || !headerOk b n || es.any (·.isNone) then none
  else
    let l := es.filterMap id
    let bad := l.any fun (c, _) =>
      if coordPkg c = s.pkg then !sites.contains (coordSite c) || s.siteAsp (coordSite c) != tr.asp else !spans
    let boxes := (l.filter fun e => coordPkg e.1 == s.pkg).map fun (c, x) => (coordSite c, x)
    if bad || !(l.map (·.1)).Nodup || boxes.any fun (n, c) => crossesOut sites n c || leadsNowhere boxes n c then none
    else some (boxes, l.filter fun e => coordPkg e.1 != s.pkg)

/-- The underpainting of a tile's box. -/
def State.underpaint (s : State) (site : Nat) (c : BoxCfg) : State :=
  s.modTile site fun t => { t with box := { t.box with under := some c, loaded := true } }

/-- The address by which the agenda names the box of a tile of another package (notes/assumptions/91.md). -/
def boxAddress (coord : Nat) : W64 := word64 [(60, 8), (38, coord)]

/-- What the other packages answer of the boxes of an image: whether all of them lie in the region and take their entries; none
while any has not answered (notes/assumptions/91.md). -/
def farBoxes (ext : List ExtRead) (l : List (Nat × BoxCfg)) : Option Bool :=
  if l.any fun (c, _) => !ext.any fun e => e.addr == boxAddress c then none
  else some (l.all fun (c, _) => ext.all fun e => e.addr != boxAddress c || e.fail.isNone)

/-- A CFGLD comes to its end: every named box holds its new underpainting, or the image is loaded into none. -/
def execCfgldComplete (site : Nat) (ext : List ExtRead) (s : State) : Res :=
  .next (match s.netHead site with
    | some e =>
      match e.i with
      | .cfgld .. =>
        let fail (s : State) (cls code : Nat) (v : W64) : State := (s.popNet site).asyncFault e.tr cls code v
        match s.locateAll (portEgress site) site e.tr .read (cutRange e.a e.b.toNat) with
        | (.error .wait, s) => s
        | (.error (.xlat kind code addr), s) =>
          (s.modTile site fun t => { t with netStopped := true }).stopGen (.net site) (s.coord site) e.tr.asp kind code addr
        | (.error (.bad cls code v), s) => fail s cls code v
        | (.ok src, s') =>
          match s'.readPieces e.tr.asp (ownSlots e.tr) ext src with
          | .error (.bad cls code v) => fail s' cls code v
          | .error _ => s
          | .ok (b, s') =>
            if anyBad b then fail s' 11 3 e.a
            else match s'.boxesOf e.tr b with
              | none => fail s' 7 0x10 e.a
              | some (l, far) =>
                match farBoxes ext far with
                | none => s
                | some false => fail s' 7 0x10 e.a
                | some true =>
                  let s := l.foldl (fun s (n, c) => s.underpaint n c) (s'.popNet site)
                  let s := far.foldl (fun s (c, x) =>
                    s.depart (coordPkg c) (.under c e.tr.l e.tr.node e.tr.owner x)) s
                  s.complete e.tr
      | _ => s
    | none => s)

/-! ### Delivery from a configured route (R401, R507) -/

/-- A fault against the CFGSWAP that made a plane active on a tile. -/
def State.swapFault (s : State) (site code : Nat) (waiting : Bool) : State :=
  match (s.tile site).box.swapTr with
  | some tr => s.recordFault { s.faultRec tr ⟨12, code, 0, 0⟩ true with swap := waiting }
  | none => s

/-- The box of a tile changed. -/
def State.modBox (s : State) (site : Nat) (f : Box → Box) : State := s.modTile site fun t => { t with box := f t.box }

/-- The 16-byte header of an operand packet (R399). -/
def operandHeader (coord task asp owner index len : Nat) : List W64 :=
  [word64 [(60, 2), (52, task), (48, asp), (26, coord), (4, coord)], word64 [(52, owner), (32, index), (0, len)]]

/-- n bytes of the local output become an operand packet; none where no basket slot is free. -/
def State.deliverPacket (s : State) (site task n : Nat) : Option State :=
  let t := s.tile site
  let x := t.box
  let drop (s : State) : State := s.modBox site fun b => { b with inbuf := b.inbuf.drop n, packets := b.packets + 1 }
  match t.entryFor task with
  | none => some ((drop s).swapFault site 9 false)
  | some e =>
    let k := hentBasket (t.hentOf e)
    let b := t.basket k
    if b.valid && b.bytes < n then some ((drop s).swapFault site 0x0E false)
    else
      match b.pick false with
      | none => none
      | some i =>
        let (asp, owner) := (x.swapTr.map fun tr => (tr.asp, tr.owner)).getD (0, 0)
        let hdr := operandHeader (s.coord site) task asp owner (x.packets % 2 ^ 16) n
        let s := s.putBytes site (t.basketAt k i) (x.inbuf.take n)
        let s := s.modTile site fun t =>
          (t.setBasket k ((t.basket k).claim i .filling)).arrive 2 task k (some i) n (hdr ++ [0, 0, 0, 0, 0]) (s.cyc + 3)
        some ((drop s).modBox site fun b => { b with payload := b.payload + n })

/-- A delivering box forms an operand packet of PKTLEN × 64 bytes. -/
def execOperandPacketDelivery (site route : Nat) (s : State) : Res :=
  .next (match (s.tile site).box.active.bind (·.deliver) with
    | some (len, rtno, task) =>
      if rtno != route || (s.tile site).box.inbuf.length < 64 * len then s
      else (s.deliverPacket site task (64 * len)).getD s
    | none => s)

/-- The end-of-stream token reaches the local output: a partial packet is delivered with its actual length, and then the
end-of-stream arrival. -/
def execEndOfStreamDelivery (site route : Nat) (s : State) : Res :=
  .next (
    let x := (s.tile site).box
    match x.active.bind (·.deliver), x.eos with
    | some (len, rtno, task), some drop =>
      if rtno != route || 64 * len ≤ x.inbuf.length then s
      else
        match (if x.inbuf.isEmpty then some s else s.deliverPacket site task x.inbuf.length) with
        | none => s
        | some s =>
          let s := s.modBox site fun b => { b with eos := none }
          let t := s.tile site
          match t.entryFor task with
          | none => s.swapFault site 9 false
          | some e =>
            s.setTile site (t.arrive 3 task (hentBasket (t.hentOf e)) none 0
              [word64 [(4, bitNat drop), (0, rtno)], BitVec.ofNat 64 t.box.payload, 0, 0, 0, 0, 0] (s.cyc + 3))
    | _, _ => s)

/-- A word that has come after the swap on an input that no output selects is discarded (R529). -/
def execStrayAfterSwap (site input : Nat) (s : State) : Res :=
  .next (
    let x := (s.tile site).box
    let selected := match x.active with | some c => c.sel.contains input | none => false
    if x.strays.contains input && !selected then
      (s.modBox site fun b => { b with strays := delSet input b.strays }).swapFault site 0x0D false
    else s)

/-! ### Shard operations (R291, R351, R352) -/

/-- The bucket of a key (R352). LOG2B outside 8 to 24 is used as it stands (notes/assumptions/111.md). DESIGN CHOICE -/
def shardBucket (log2b seq page layer head : Nat) : Nat :=
  (seq * 0x9E3779B1 + page * 0x85EBCA77 + layer * 0xC2B2AE3D + head * 0x27D4EB2F) % 2 ^ 32 / 2 ^ (32 - log2b)

/-- The HBM address of the bucket of a key, in a table in use whose bucket lies in HBM. A bucket beyond 512 GiB names no HBM
(R31): the table then reads as out of use (notes/assumptions/92.md). DESIGN CHOICE -/
def State.shardAt (s : State) (asp : Nat) (a b : W64) : Option Nat :=
  let cfg := getD 0 s.mg.shtcfg asp
  let base := 256 * fld cfg 8 31 + 256 * shardBucket (fld cfg 58 5) (fld a 32 32) (fld a 0 32) (fld b 8 8) (fld b 0 8)
  if fld cfg 63 1 == 1 && inHbm base 256 then some base else none

/-- The address of the entry with a key in a bucket, and of the lowest empty entry. -/
def State.shardFind (s : State) (base : Nat) (a b : W64) : Option Nat × Option Nat :=
  let w (k j : Nat) : W64 := BitVec.ofNat 64 (loadNat s.hbm (base + 32 * k + 8 * j) 8)
  let st (k : Nat) : Nat := fld (w k 2) 62 2
  let found := (List.range 8).find? fun k => st k != 0 && w k 0 == a && fld (w k 1) 0 16 == fld b 0 16
  let free := (List.range 8).find? fun k => st k == 0
  (found.map fun k => base + 32 * k, free.map fun k => base + 32 * k)

/-- Words written into the shard table. -/
def State.shardPut (s : State) (asp addr : Nat) (l : List W64) : State :=
  s.writeMem (.hbm addr) asp ((wordBytes l).map (·, false))

/-- A shard instruction on its entry, in the bucket that its key has: the location word that D receives, and the state
(R291). -/
def State.shardOp (s : State) (e : QEntry) (bucket : Option Nat) : W64 × State :=
  let asp := e.tr.asp
  let (found, free) := match bucket with | some base => s.shardFind base e.a e.b | none => (none, none)
  let word (p : Nat) : W64 := BitVec.ofNat 64 (loadNat s.hbm (p + 16) 8)
  let key : W64 := BitVec.ofNat 64 (fld e.b 0 16)
  match e.i with
  | .shmap _ _ _ _ new _ =>
    match found with
    | some p =>
      if new then (word p, s)
      else (word p, s.shardPut asp (p + 16)
        [word64 [(62, fld e.d 62 2), (45, fld (word p) 45 16), (0, fld e.d 0 45)]])
    | none =>
      match free with
      | some p => (0, s.shardPut asp p [e.a, key, word64 [(62, fld e.d 62 2), (45, 1), (0, fld e.d 0 45)], 0])
      | none => (word64 [(61, 1)], s)
  | .shunmap _ _ _ _ cond _ =>
    match found with
    | some p => (word p, if cond && fld (word p) 45 16 != 0 then s else s.shardPut asp p [0, 0, 0, 0])
    | none => (0, s)
  | .shref _ _ _ _ dec _ =>
    match found with
    | some p =>
      let r := fld (word p) 45 16
      let r := if dec then r - 1 else Nat.min (r + 1) 0xFFFF
      let w := word64 [(62, fld (word p) 62 2), (45, r), (0, fld (word p) 0 45)]
      (w, s.shardPut asp (p + 16) [w])
    | none => (0, s)
  | _ =>
    match found with
    | some p => (word p, s)
    | none => (0, s)

/-- The destination register of a shard instruction. -/
def shardDest : Instr → Nat
  | .shlk _ d _ _ _ => d.toNat
  | .shmap _ d _ _ _ _ => d.toNat
  | .shunmap _ d _ _ _ _ => d.toNat
  | .shref _ d _ _ _ _ => d.toNat
  | _ => 0

/-- The shard unit performs the head of a tile's shard queue: one atomic operation, and its location word (R43). It waits for a
slice that is being emptied (R128). An operation on a bucket that holds poison fails as an atomic does (R470;
notes/assumptions/92.md). DEDUCED -/
def execShardOperation (site : Nat) (s : State) : Res :=
  .next (match (s.tile site).shardQ with
    | e :: rest =>
      let bucket := s.shardAt e.tr.asp e.a e.b
      if s.cyc ≤ e.iss || bucket.any s.slicing then s
      else
        let popped (s : State) : State := s.modTile site fun t => { t with shardQ := rest }
        if bucket.any fun p => (granules 6 p 256).any (s.lineBad e.tr.asp) then
          let s := match bucket with
            | some p => (s.readMem (.hbm p) e.tr.asp 256 []).2
            | none => s
          (popped s).asyncFault e.tr 11 4 0
        else
          let (v, s) := s.shardOp e bucket
          let s := popped s
          let d := shardDest e.i
          let s := if d = 0 then s
            else s.modSlot site e.tr.slot fun x => { x with pend := x.pend ++ [⟨s.cyc, s.cyc, .s d v, false⟩] }
          s.complete e.tr
    | [] => s)

/-! ### What arrives from the fabric (R163, R408, R420) -/

/-- The package that a message is bound for. -/
def msgPkg (m : Msg) : Nat :=
  match m with
  | .packet p => destPackage (coordPkg p.src) p.dst
  | .ack dst _ _ _ => coordPkg dst
  | .claim c => coordPkg c.dst
  | .grant dst _ _ _ _ => coordPkg dst
  | .token t => coordPkg t.dst
  | .req r =>
    match r.phys with
    | some p => destPackage (coordPkg r.src) p
    | none =>
      if objectReq r then fld r.addr 42 12
      else match gaddr (reqAddr r) with | .tile c _ _ => coordPkg c | _ => coordPkg r.src
  | .resp dst _ _ _ _ _ => coordPkg dst
  | .write w => destPackage (coordPkg w.src) w.dst
  | .wrote dst _ _ => coordPkg dst
  | .part p => p.dst
  | .under coord _ _ _ _ => coordPkg coord
  | .unclaim dst _ _ => coordPkg dst

/-- The code with which the fabric interface rejects what a lane group brings: at a circuit for another owner's traffic, else
for an owner that is no valid partition of the package (R420). -/
def State.gateIn (s : State) (lane : Nat) (m : Msg) : Option Nat :=
  (msgOwner m).bind fun o => match s.gateCircuit lane o with
    | some c => some c
    | none => s.gatePkg o

/-- Whether a record of a collective is that of some launch, level, fields and index. -/
def Coll.isOf (c : Coll) (l level fields index : Nat) : Bool :=
  c.l == l && c.level == level && c.fields == fields && c.index == index

/-- The record of a collective. -/
def State.coll (s : State) (l level fields index : Nat) : Coll :=
  (s.sched.colls.find? fun c => c.isOf l level fields index).getD
    { l := l, level := level, fields := fields, index := index, broken := false, parts := [], result := none, sent := false }
def State.setColl (s : State) (c : Coll) : State :=
  let others := s.sched.colls.filter fun d => !d.isOf c.l c.level c.fields c.index
  { s with sched := { s.sched with colls := others ++ [c] } }

/-- A partial result, or a result, comes along an edge of the tree (R407). -/
def State.notePart (s : State) (p : Partial) : State :=
  let c := s.coll p.l p.level p.fields p.index
  s.setColl (if p.down then { c with result := some p }
    else { c with parts := c.parts.filter (·.pkg != p.pkg) ++ [p] })

/-- A packet reaches the package from the fabric by a lane group. One for another package is forwarded without involving the
tiles, past the same gateway (notes/assumptions/93.md); a hamper packet goes through the window of its source, and the rest to
its units. DEDUCED -/
def execFabricPacketArrival (x : Incoming) (s : State) : Res :=
  .next (
    let lane := x.lane
    let m := x.m
    if !s.laneUp lane then s
    else if msgPkg m != s.pkg then
      match s.gateIn lane m with
      | some c => s.turnBack (some lane) m 12 c 0
      | none => s.emitOn none (msgPkg m) m
    else match m with
      | .packet p => s.packetArrival lane p
      | .part p => if (s.gateIn lane m).isSome then s.countGw else s.notePart p
      | .under coord l node owner c =>
        if (s.gateIn lane m).isSome then s.countGw
        else if (s.tile (coordSite coord)).kernels.any (fun k => k.isOf l node) &&
            s.ownerOf (s.siteAsp (coordSite coord)) == owner then s.underpaint (coordSite coord) c
        else s
      | .unclaim dst src id => s.unclaim dst src id
      | _ => s.sendVia (some lane) m)

end Sys2Proof.Machine
end

