-- ==== Sys2Proof/Machine/Requests.lean ====
section
/-!
DEFINITION. Remote loads, fetching atomics and barrier requests after their issue (R136, R307, R315 to R318, R492, R536),
and the answers to stopped generators (R494, R495) and to work that is never acknowledged (R505).
-/

namespace Sys2Proof.Machine

/-! ### Requests on their way -/

/-- The kind of access that a request makes, and its bytes (R117, R318). -/
def ReqKind.access : ReqKind → AKind × Nat
  | .rld size => (.read, 2 ^ size)
  | .ratf _ size _ _ => (.fetch, 2 ^ size)
  | .bari _ => (.init, 16)
  | .arrive => (.fetch, 16)
  | .poll => (.read, 8)
  | .waitGen _ => (.read, 8)

/-- The place of a request: a failure, or the destination with an offset; wait: its page map lies in a slice that is being
emptied (R128). -/
inductive Spot where
  | fail (cls code : Nat)
  | xlat (code : Nat)
  | wait
  | at (p : PDest) (off : Nat)
  deriving DecidableEq, Repr

/-- A request's destination: its window, or its address as the hamper egress of its tile translates it (R421). -/
def State.spotOf (s : State) (r : Req) : Spot × State :=
  match r.phys with
  | some p => (.at p 0, s)
  | none =>
    match gaddr (reqAddr r) with
    | .reserved => (.fail 5 4, s)
    | .tile coord bank off => (if s.windowBad coord bank then .fail 5 8 else .at (.tile coord bank) off, s)
    | .virt va =>
      match s.translate (portEgress (coordSite r.src)) r.tr.asp va (ReqKind.access r.kind).1 with
      | (.fault c, s) => (.xlat c, s)
      | (.addr c, s) => (.fail 5 c, s)
      | (.wait, s) => (.wait, s)
      | (.ok p marked _, s) => (if marked then .fail 12 4 else .at p 0, s)

/-- The failure of a request at its destination in this package: no way, a gateway, or the place. -/
def State.spotFail (s : State) (via : Option Nat) (r : Req) (p : PDest) (off : Nat) : Option (Nat × Nat) :=
  match s.refusal via r.src r.tr.owner p with
  | some c => some (12, c)
  | none => (match p, r.kind with
      | .host _ _, .rld _ => none
      | _, _ => s.memFail (memAt p off) (ReqKind.access r.kind).2).map fun c => (12, c)

/-- Whether performing a request a second time would change what it acts on again. -/
def changing (r : Req) : Bool :=
  match r.kind with
  | .ratf .. => true
  | .bari _ => true
  | .arrive => true
  | .rld _ => false
  | .poll => false
  | .waitGen _ => false

/-- Whether a request has not come to its destination: a gateway has rejected it, or there is no way (R491, R503). -/
def turnedAway : Answer → Bool
  | .fail 12 c => gateCode c || c == 7
  | _ => false

/-- The answer to a request leaves, on behalf of the partition that asked (R399). That of a request that has not come to its
destination is told at the interface of its own tile: no gateway lies on its way. -/
def State.answer (s : State) (r : Req) (a : Answer) : State :=
  let src := if turnedAway a then r.src else s.coord ((s.destSite (s.reqDest r)).getD 0)
  s.post (coordPkg r.src) (.resp r.src src r.id r.tr.asp r.tr.owner a)

/-- An answer goes back to the tile that asked; what a request of another package has been answered is kept, so that a copy of
it is not performed (R505). -/
def State.reply (s : State) (via : Option Nat) (r : Req) (a : Answer) : State :=
  let s := match a with
    | .fail 12 c => if gateCode c then s.countGw else s
    | _ => s
  let s := if via.isSome && changing r then { s with answered := (r.src, r.id, a) :: s.answered } else s
  s.answer r a

/-- What a request of another package has been answered before. -/
def State.answerOf (s : State) (via : Option Nat) (r : Req) : Option Answer :=
  if via.isSome && changing r then (s.answered.find? fun x => x.1 == r.src && x.2.1 == r.id).map (·.2.2) else none

/-- Whether the stores before a request of this package are in SRAM. -/
def State.reqReady (s : State) (r : Req) : Bool :=
  coordPkg r.src != s.pkg ||
    ((s.tile (coordSite r.src)).remote.find? (·.id == r.id)).any fun q => decide (q.since + 4 ≤ s.cyc)

/-- An entry of the remote request queue, changed or removed. -/
def State.modReq (s : State) (site id : Nat) (f : RReq → RReq) : State :=
  s.modTile site fun t => { t with remote := t.remote.map fun q => if q.id == id then f q else q }
def State.dropReq (s : State) (site id : Nat) : State :=
  s.modTile site fun t => { t with remote := t.remote.filter (·.id != id) }

/-- A request leaves for another package, through this package's own gateway (R503); its tile keeps it from then on until it is
answered (R505). -/
def State.requestOut (s : State) (dest : Nat) (r : Req) (p : PDest) (off : Nat) : State :=
  let r : Req := { r with key := s.keyOf r.tr.asp }
  let r' : Req := match p with
    | .tile _ _ => r
    | .hbm k a => { r with phys := some (.hbm k (a + off)) }
    | .host _ _ => r
  (s.modReq (coordSite r.src) r.id fun q => { q with gone := some r', since := s.cyc }).depart dest (.req r')

/-- A request on the planes is taken to its place and served there, leaves for another package, or fails. One whose place waits
for a slice that is being emptied stays (R128). -/
def State.serve (s : State) (n : Nat) (want : Req → Bool) (act : State → Option Nat → Req → Mem → State) : State :=
  match s.taken n with
  | some (⟨_, via, .req r⟩, t) =>
    if !want r || (via.isNone && !s.reqReady r) then s
    else match s.answerOf via r with
      | some a => t.answer r a
      | none =>
        match t.spotOf r with
        | (.fail cls c, t) => t.reply via r (.fail cls c)
        | (.xlat c, t) => t.reply via r (.fail 10 c)
        | (.wait, _) => s
        | (.at p off, t) =>
          let dest := destPackage s.pkg p
          if dest != s.pkg then
            match t.wayTo (coordSite r.src) p with
            | none => t.reply via r (.fail 12 7)
            | some _ => t.requestOut dest r p off
          else if s.mustWait (memAt p off) (ReqKind.access r.kind).2 then s
          else
            match t.spotFail via r p off with
            | some (cls, c) => t.reply via r (.fail cls c)
            | none => act t via r (memAt p off)
  | _ => s

/-- The value that bytes spell, and whether any is poisoned. -/
def valueOf (l : List PByte) : W64 × Bool := (BitVec.ofNat 64 (leNat (l.map (·.1))), anyBad l)

/-- A write of an engine of another package is performed, or fails, and is acknowledged (R111, R137, R413, R420). Its line is from
then on under the keys that it came with. -/
def State.serveWrite (s t : State) (via : Option Nat) (w : EWrite) : State :=
  let m := memAt w.dst w.off
  let fail (t : State) (cls code : Nat) : State :=
    let v : W64 := match w.dst with
      | .tile coord bank => if cls = 5 then word64 [(60, 8), (38, coord), (36, bank), (0, w.off)] else 0
      | _ => 0
    t.turnBack via (.write w) cls code v
  if (match w.dst with | .tile coord bank => s.windowBad coord bank | _ => false) then fail t 5 8
  else match t.refusal via w.src w.owner w.dst with
    | some c => fail t 12 c
    | none =>
      match t.memFail m w.data.length with
      | some c => fail t 12 c
      | none =>
        if s.mustWait m w.data.length then s
        else ((t.writeWith m w.key w.data).received m w.data).post (coordPkg w.src) (.wrote w.src w.id none)

/-- A remote load or fetching atomic reaches the unit that owns its destination (R136, R142, R307), and so does a write of an
engine of another package. -/
def execRemoteRequestPerform (n : Nat) (s : State) : Res :=
  .next (match s.taken n with
    | some (⟨_, via, .write w⟩, t) => if destPackage (coordPkg w.src) w.dst != s.pkg then s else s.serveWrite t via w
    | _ =>
      s.serve n
        (fun r => match r.kind with | .rld _ => true | .ratf .. => true | .poll => true | _ => false)
        (fun s via r m =>
          let (_, n) := ReqKind.access r.kind
          let own := if (match m with | .sram site _ => site == coordSite r.src && coordPkg r.src == s.pkg | _ => false)
            then [r.tr.slot] else []
          let key := s.keysFor r.src r.tr.asp r.key
          match r.kind with
          | .ratf op size data swap =>
            match s.opFailWith m op n key with
            | some (cls, c) => (s.countRead m op n key).reply via r (.fail cls c)
            | none =>
              let (x, s) := s.performAt m key op size data swap
              s.reply via r (.data (BitVec.ofNat 64 x) false)
          | _ =>
            let (b, s) := s.readWith m key n own
            let (v, bad) := valueOf b
            s.reply via r (.data v bad)))

/-! ### Barriers at their home (R316 to R318) -/

/-- A hardware object's home, through the relocation pairs of the tile that asks (R523), and its number. -/
def State.objectOf (s : State) (r : Req) : Nat × Nat :=
  (coordSite ((s.tile (coordSite r.src)).relocated (fld r.addr 32 22)), fld r.addr 0 5)

def Tile.bobj (t : Tile) (n : Nat) : BObj := getD BObj.reset t.bobjs n
def Tile.setBobj (t : Tile) (n : Nat) (b : BObj) : Tile := { t with bobjs := putD BObj.reset n b t.bobjs }

/-- A request to a hardware object: refused where its home is no enabled site or at the home's gateway, or served (R16, R503). -/
def State.atObject (s : State) (n : Nat) (want : Req → Bool) (act : State → Req → Nat → Nat → State) : State :=
  match s.taken n with
  | some (⟨_, via, .req r⟩, t) =>
    if !want r || r.mem || (via.isNone && !s.reqReady r) then s
    else
      let (site, k) := s.objectOf r
      if t.windowBad (s.coord site) 0 then t.reply via r (.fail 5 8)
      else match t.spotFail via r (.tile (s.coord site) 0) 0 with
        | some (cls, c) => t.reply via r (.fail cls c)
        | none => act t r site k
  | _ => s

/-- The pair of a memory-backed barrier: COUNT, ARRIVED and GEN. -/
def State.pairAt (s : State) (m : Mem) : Nat × Nat × Nat :=
  let x := s.valueAt m 16
  (bitsOf x 32 32, bitsOf x 0 32, bitsOf x 64 64)

/-- The failure of an access to a pair: in host memory, at a fenced path, or poisoned. -/
def State.pairFail (s : State) (m : Mem) (key : List Byte) : Option (Nat × Nat) := s.opFailWith m .add 16 key

def State.writePair (s : State) (m : Mem) (key : List Byte) (word0 gen : Nat) : State :=
  s.writeWith m key ((leBytes 8 word0 ++ leBytes 8 gen).map (·, false))

/-- The keys of the partition of a request. -/
def State.reqKey (s : State) (r : Req) : List Byte := s.keysFor r.src r.tr.asp r.key

/-- Whether a message is a request of a memory-backed barrier. -/
def State.memRequest (s : State) (n : Nat) : Bool :=
  match s.flight n with
  | some ⟨_, _, .req r⟩ => r.mem
  | _ => false

def isBari (r : Req) : Option Nat := match r.kind with | .bari c => some c | _ => none

/-- A BARI at its object (R317): one with arrivals is left as it is. -/
def State.initObject (s : State) (r : Req) (site n : Nat) : State :=
  let b := (s.tile site).bobj n
  if 0 < b.arrived then s.reply none r (.fail 7 0x14)
  else
    (s.modTile site fun t => t.setBobj n
      { b with valid := true, count := (isBari r).getD 0, arrived := 0, init := some ⟨r.tr.l, r.tr.node, r.tr.wid⟩,
               maker := coordSite r.src }).reply none r .done

/-- A BARI at its pair: one atomic event (R318). -/
def State.initPair (s : State) (via : Option Nat) (r : Req) (m : Mem) : State :=
  let key := s.reqKey r
  match s.pairFail m key with
  | some (cls, c) => (s.countRead m .add 16 key).reply via r (.fail cls c)
  | none =>
    let s := s.exposed m 16
    let (_, arrived, gen) := s.pairAt m
    if 0 < arrived then s.reply via r (.fail 7 0x14)
    else (s.writePair m key ((isBari r).getD 0 * 2 ^ 32) gen).reply via r .done

/-- A BARI reaches its object or pair. -/
def execBarrierInitAtHome (n : Nat) (s : State) : Res :=
  .next (if s.memRequest n then s.serve n (fun r => r.mem && (isBari r).isSome) State.initPair
    else s.atObject n (fun r => (isBari r).isSome) State.initObject)

/-- Everyone who waits for a generation of an object is answered. -/
def State.release (s : State) (site n gen : Nat) : State :=
  let done := (s.tile site).bwaits.filter fun w => w.obj == n && w.gen == gen
  let s := s.modTile site fun t => { t with bwaits := t.bwaits.filter fun w => !(w.obj == n && w.gen == gen) }
  done.foldl (fun s w => s.post (coordPkg w.src) (.resp w.src (s.coord site) w.id w.asp w.owner (.joined (BitVec.ofNat 64 gen) true))) s

/-- An arrival, or a wait request, at a hardware object. -/
def State.joinObject (s : State) (r : Req) (site n : Nat) : State :=
  let b := (s.tile site).bobj n
  let wait (s : State) (gen : Nat) : State :=
    s.modTile site fun t => { t with bwaits := t.bwaits ++ [⟨n, gen, r.src, r.id, r.tr.asp, r.tr.owner⟩] }
  match r.kind with
  | .waitGen g => if b.gen != g then s.reply none r (.joined (BitVec.ofNat 64 g) true) else wait s g
  | _ =>
    if !b.valid then s.reply none r (.fail 7 0x15)
    else if b.arrived + 1 = b.count then
      let s := s.modTile site fun t => t.setBobj n { b with arrived := 0, gen := (b.gen + 1) % 2 ^ 16 }
      let s := ((s.tile site).kernels.filter fun k => b.init.any k.inRegion).foldl (fun s k => s.noteProgress site k.owner) s
      (s.reply none r (.joined (BitVec.ofNat 64 b.gen) true)).release site n b.gen
    else
      let s := s.modTile site fun t => t.setBobj n { b with arrived := b.arrived + 1 }
      wait (s.reply none r (.joined (BitVec.ofNat 64 b.gen) false)) b.gen

/-- An arrival at a pair: one atomic event (R318). -/
def State.joinPair (s : State) (via : Option Nat) (r : Req) (m : Mem) : State :=
  let key := s.reqKey r
  match s.pairFail m key with
  | some (cls, c) => (s.countRead m .add 16 key).reply via r (.fail cls c)
  | none =>
    let s := s.exposed m 16
    let (count, arrived, gen) := s.pairAt m
    if count = 0 then s.reply via r (.fail 7 0x15)
    else if arrived + 1 = count then
      (s.writePair m key (count * 2 ^ 32) ((gen + 1) % 2 ^ 64)).reply via r (.joined (BitVec.ofNat 64 gen) true)
    else (s.writePair m key (count * 2 ^ 32 + (arrived + 1) % 2 ^ 32) gen).reply via r (.joined (BitVec.ofNat 64 gen) false)

/-- A BARA or BARW arrival, or a wait request, reaches the home object or pair. -/
def execBarrierArrivalAtHome (n : Nat) (s : State) : Res :=
  let want (r : Req) : Bool := match r.kind with | .arrive => true | .waitGen _ => true | _ => false
  .next (if s.memRequest n then s.serve n want State.joinPair else s.atObject n want State.joinObject)

/-! ### Answers at the issuing tile -/

/-- The barrier that a slot sleeps on: its generation, or that it is complete. -/
def Slot.joined (x : Slot) (gen : W64) (complete : Bool) : Slot :=
  match x.wake with
  | some (.bar h mem _ met) => { x with wake := some (.bar h mem (some gen) (met || complete)) }
  | _ => x

/-- A request completes. -/
def State.finishReq (s : State) (site : Nat) (q : RReq) : State := (s.dropReq site q.id).complete q.req.tr

/-- A request fails: nothing is written, and its fault is recorded; VALUE is its address in classes 5, 10 and 11. A wide FENCE
covers it where it is an RLD or RATF, and a BARW where it is its own arrival (R310, R458). -/
def State.failReq (s : State) (site : Nat) (q : RReq) (cls code : Nat) : State :=
  let value : W64 := if cls = 5 || cls = 10 || cls = 11 then reqAddr q.req else if cls = 7 then q.req.addr else 0
  (s.dropReq site q.id).recordFault
    { s.faultRec q.req.tr ⟨cls, code, value, 0⟩ true with
        fence := (match q.req.kind with | .rld _ => true | .ratf .. => true | _ => false), barw := q.barw }

/-- The request that an entry has sent last: its own, or a poll of the pair that it waits on. -/
def RReq.present (q : RReq) : Req := if q.gen.isSome && q.req.mem then { q.req with kind := .poll } else q.req

/-- A request meets a translation fault: it stops alone (R492). -/
def State.stopReq (s : State) (site : Nat) (q : RReq) (code : Nat) : State :=
  (s.modReq site q.id fun q => { q with stopped := true, gone := none }).stopGen (.req site q.id) (s.coord site) q.req.tr.asp
    (ReqKind.access q.present.kind).1.code code (reqAddr q.present)

/-- The barrier arrival of an entry has joined a generation; one that is complete completes the entry. -/
def State.joinReq (s : State) (site : Nat) (q : RReq) (gen : W64) (complete : Bool) : State :=
  let s := if q.barw then s.modSlot site q.req.tr.slot fun x => x.joined gen complete else s
  if complete then s.finishReq site q else s.modReq site q.id fun q => { q with gen := some gen, since := s.cyc, gone := none }

/-- The answer to an entry of the remote request queue. Poison that comes from another package with it is counted (R498). -/
def State.takeAnswer (s : State) (via : Option Nat) (site : Nat) (q : RReq) (a : Answer) : State :=
  match a with
  | .data v bad =>
    match q.gen with
    | some g => if v = g then s.modReq site q.id fun q => { q with gone := none } else s.joinReq site q g true
    | none =>
      let b := (leBytes (ReqKind.access q.req.kind).2 v.toNat).map (·, bad)
      let s := s.putBytes site q.dst b
      (if via.isSome then s.received (.sram site q.dst) b else s).finishReq site q
  | .done => s.finishReq site q
  | .joined gen complete => s.joinReq site q gen complete
  | .fail cls code => if cls = 10 then s.stopReq site q code else s.failReq site q cls code

/-- The answer to a request reaches its tile, through the gateways on its way; one that nobody waits for is discarded (R505). The
acknowledgement of a write to another package reaches its engine command. -/
def execRemoteRequestResponse (n : Nat) (s : State) : Res :=
  .next (match s.taken n with
    | some (⟨_, via, .resp dst src id _ owner a⟩, t) =>
      if coordPkg dst != s.pkg then s
      else match t.refusal via src owner (.tile dst 0) with
        | some c => if gateCode c then t.countGw else t
        | none =>
          match (t.tile (coordSite dst)).remote.find? (·.id == id) with
          | none => t
          | some q => t.takeAnswer via (coordSite dst) q a
    | some (⟨_, _, .wrote dst id fail⟩, t) => if coordPkg dst != s.pkg then s else t.wrote id fail
    | _ => s)

/-- A waiter on a memory-backed barrier reads GEN again, 256 cycles after the time before (R318). -/
def execBarrierPoll (site id : Nat) (s : State) : Res :=
  .next (match (s.tile site).remote.find? (·.id == id) with
    | some q =>
      if q.gen.isNone || !q.req.mem || q.stopped || s.cyc < q.since + 256 then s
      else (s.modReq site id fun q => { q with since := s.cyc }).send (.req q.present)
    | none => s)

/-- A resumed wait sends its wait request, which makes no arrival; a memory-backed one polls (R536). -/
def execBarrierWaitRequest (site id : Nat) (s : State) : Res :=
  .next (match (s.tile site).remote.find? (·.id == id) with
    | some q =>
      match q.gen with
      | some g =>
        if q.sent then s
        else
          let s := s.modReq site id fun q => { q with sent := true }
          if q.req.mem then s else s.send (.req { q.req with kind := .waitGen g.toNat })
      | none => s
    | none => s)

/-! ### Work that is never acknowledged (R505) -/

/-- The timeout of work bound for a package (R504). -/
def State.timeout (s : State) (pkg : Nat) : Nat :=
  1024 * (if pkg = s.pkg then fld s.mg.fltcfg 32 16 else fld s.mg.fltcfg 48 16)

/-- Whether the answer to work of a tile comes in this same cycle: it is then taken (R513). -/
def State.answerDue (s : State) (site id : Nat) : Bool :=
  let hit (n : Nat) : Bool := match s.flight n with
    | some ⟨_, _, .ack dst _ i _⟩ => dst == s.coord site && i == id
    | some ⟨_, _, .resp dst _ i _ _ _⟩ => dst == s.coord site && i == id
    | _ => false
  s.agenda.any fun (c, i) => decide (c ≤ s.cyc) &&
    (match i with
     | .hamperAcknowledgement n => hit n
     | .remoteRequestResponse n => hit n
     | _ => false)

/-- The package for which an entry of the remote request queue is bound. -/
def State.reqPkg (s : State) (q : RReq) : Nat := destPackage s.pkg (s.reqDest (q.gone.getD q.req))

/-- The numbers of the held packets, requests and token images of a tile whose time has run out (R504, R505). -/
def State.expired (s : State) (t : Tile) : List Nat :=
  ((t.unacked.filter fun u => decide (u.since + s.timeout (destPackage s.pkg u.pkt.dst) ≤ s.cyc)).map (·.id)) ++
    ((t.remote.filter fun q => q.gen.isNone && !q.stopped && decide (q.since + s.timeout (s.reqPkg q) ≤ s.cyc)).map (·.id)) ++
    ((t.tokensOut.filter fun x => decide (x.1.since + s.timeout (coordPkg x.2.dst) ≤ s.cyc)).map (·.1.id))

/-- A held packet, a remote request or a token image whose time has run out is declared indeterminate. -/
def State.declare (s : State) (site id : Nat) : State :=
  let t := s.tile site
  if s.answerDue site id || !(s.expired t).contains id then s
  else match t.unacked.find? (·.id == id), t.remote.find? (·.id == id), t.tokensOut.find? (·.1.id == id) with
    | some u, _, _ =>
      (s.modTile site fun t => { t with unacked := t.unacked.filter (·.id != id) }).failAll site u.pkt.hdst u.pkt.seq
        u.pkt.elems 12 8 true
    | none, some q, _ => s.failReq site q 12 8
    | none, none, some x =>
      (s.modTile site fun t => { t with tokensOut := t.tokensOut.filter (·.1.id != id) }).sendFault x.1.e.tr 8
    | none, none, none => s

/-- The timeout of a held packet, a remote request or a token image runs out: the work is indeterminate. -/
def execIndeterminateDeclaration (site id : Nat) (s : State) : Res := .next (s.declare site id)

/-- At the end of a cycle everything whose time has run out is declared: what a slot sees of it, it sees from the next cycle on
(R166, R298, R458). -/
def State.declareAll (s : State) : State :=
  (s.tiles.flatMap fun (n, (t : Tile)) => (s.expired t).map (n, ·)).foldl (fun s (n, id) => s.declare n id) s

/-! ### Answers to translation records (R494, R495) -/

/-- A record with V cleared; the entry keeps the rest. -/
def XRec.cleared (r : XRec) : XRec := { r with words := word64 [(0, fld (nth r.words 0 0) 0 63)] :: r.words.drop 1 }

def clearEntry (n : Nat) (l : Sparse XRec) : Sparse XRec := l.map fun (k, r) => (k, if k = n then r.cleared else r)

/-- A generator that waits for an entry files its record (R493). -/
def State.fileWaiting (s : State) : State :=
  match s.mg.xfWait with
  | r :: rest => { s with mg := { s.mg with xfWait := rest } }.fileRecord r
  | [] => s

/-- A record is answered: its V clears, and a generator that waits for an entry files its record. -/
def State.clearRecord (s : State) (n : Nat) : State :=
  { s with mg := { s.mg with xfrec := clearEntry n s.mg.xfrec } }.fileWaiting

/-- RETRY: the faulting access is made again. -/
def State.retryGen (s : State) (g : Gen) : State :=
  match g with
  | .eng e q =>
    match s.engQueue e q with
    | c :: rest => s.setEngQueue e q ({ c with stopped := false } :: rest)
    | [] => s
  | .hamper site h =>
    s.modTile site fun t => { t with hampers := t.hampers.map fun (k, x) => (k, if k == h then { x with stopped := false } else x) }
  | .req site id =>
    match (s.tile site).remote.find? (·.id == id) with
    | some q =>
      let s := s.modReq site id fun q => { q with stopped := false, since := s.cyc }
      if q.gen.isSome then s else s.send (.req q.req)
    | none => s
  | .net site => s.modTile site fun t => { t with netStopped := false }

/-- DECLINE: the work fails with class 10, and its generator goes on without it. -/
def State.declineGen (s : State) (g : Gen) (code : Nat) (addr : W64) : State :=
  match g with
  | .eng e q =>
    match s.engQueue e q with
    | c :: rest => (s.setEngQueue e q rest).commandFault c 10 code addr
    | [] => s
  | .hamper site h =>
    match (s.tile site).hampers.find? (·.1 == h) with
    | some (_, x) => (s.modTile site (·.freeHamper h)).failAll site x.dst none x.elems 10 code false
    | none => s
  | .req site id =>
    match (s.tile site).remote.find? (·.id == id) with
    | some q => s.failReq site q 10 code
    | none => s
  | .net site =>
    match (s.tile site).netQ with
    | e :: _ => ((s.popNet site).modTile site fun t => { t with netStopped := false }).asyncFault e.tr 10 code addr
    | [] => s

/-- XFCMD with ACT = 1: one that names an entry with V = 0 is ignored. -/
def execXfcmdRetry (n : Nat) (s : State) : Res :=
  .next (match s.mg.xfrec.find? (·.1 == n) with
    | some (_, r) => if r.valid then (s.clearRecord n).retryGen r.gen else s
    | none => s)

/-- XFCMD with ACT = 2. -/
def execXfcmdDecline (n : Nat) (s : State) : Res :=
  .next (match s.mg.xfrec.find? (·.1 == n) with
    | some (_, r) =>
      if r.valid then (s.clearRecord n).declineGen r.gen (fld (nth r.words 0 0) 32 8) (nth r.words 2 0) else s
    | none => s)

end Sys2Proof.Machine
end

