-- ==== Sys2Proof/Machine/Recovery.lean ====
section
/-!
DEFINITION. What the management controller takes out of service: palette bits, vault atomic paths, tiles, vaults and their
cache slices (R19, R22, R128, R519); and the release of what a kernel instance held (R65).
-/

namespace Sys2Proof.Machine

/-! ### Clears (R19, R22, R128, R374, R519) -/

/-- The scheduler runs a selection round (R374). -/
def State.askRound (s : State) : State :=
  if s.todo.contains .selectionRound then s else { s with todo := s.todo ++ [.selectionRound] }

/-- The cache slices of a site become bypassed while the memory-side cache is in use. -/
def State.bypass (s : State) (site : Nat) : State :=
  if s.mg.msEn && s.mg.slices.any (·.1 == site) && !s.mg.bypassed.contains site then
    { s with mg := { s.mg with bypassed := insSet site s.mg.bypassed, emptying := insSet site s.mg.emptying } }
  else s

/-- A site's SVCEN bit clears. -/
def State.clearSvc (s : State) (site : Nat) : State :=
  { s with mg := { s.mg with svc := delSet site s.mg.svc } }.askRound

/-- A vault fails: the SVCEN and VLTSVC bits of its site clear, and its slices are bypassed. -/
def State.clearVault (s : State) (site : Nat) : State :=
  { s.clearSvc site with mg := { (s.clearSvc site).mg with vltsvc := delSet site s.mg.vltsvc } }.bypass site

/-- A vault atomic path fails: bit 0 the integer path, bit 1 the FP path. -/
def State.clearPath (s : State) (site bit : Nat) : State :=
  let v := getD 0 s.mg.vapal site
  if bitOf v bit then { s with mg := { s.mg with vapal := put site (v - 2 ^ bit) s.mg.vapal } } else s

/-- A class fails on a tile: its PALETTE bit clears, or for classes 0 to 2 the site's SVCEN bit. -/
def State.clearClass (s : State) (site c : Nat) : State :=
  if c ≤ 2 then s.clearSvc site
  else (s.modTile site fun t => { t with palette := t.palette &&& ~~~(BitVec.ofNat 64 (2 ^ c)) }).askRound

/-- Every failure of a test of a site. -/
def State.applyTest (s : State) (site : Nat) (r : TestResult) : State :=
  let s := r.classes.foldl (fun s c => if c < 45 then s.clearClass site c else s) s
  let s := if r.vault then s.clearVault site else s
  let s := if r.intPath then s.clearPath site 0 else s
  if r.fpPath then s.clearPath site 1 else s

/-- An HBM line becomes poisoned and is counted. -/
def State.poisonHbm (s : State) (line : Nat) : State :=
  { s with hbmPoison := insSet line s.hbmPoison }.noteError true 4 0 (64 * line)

/-- Whether an HBM line is homed in a slice of a site. -/
def State.homedAt (s : State) (site line : Nat) : Bool := (nth s.mg.slices (s.homeSlice (64 * line)) (0, 0)).1 == site

/-- The bypassed slices of a site whose vault failed have been emptied: the dirty lines that could not be read are
poisoned (R128). The lines of a site whose router failed wait for the routing tables (R510). -/
def execBypassedSliceEmptied (site : Nat) (lost : List Nat) (s : State) : Res :=
  .next (
    if !s.mg.emptying.contains site || !s.mg.rtsvc.contains site then s
    else
      let t := (lost.filter fun k => inSet k s.hbmDirty && s.homedAt site k).foldl State.poisonHbm s
      { t with mg := { t.mg with emptying := delSet site t.mg.emptying }, hbmDirty := t.hbmDirty.filter fun k => !s.homedAt site k })

/-! ### Regions -/

/-- Whether an instruction was issued by a region. -/
def ofRegion (r : RegionId) (tr : Trace) : Bool := tr.l == r.l && tr.node == r.node && tr.wid == r.wid

/-- Whether a tile holds a local store, an element, an engine command or a queued instruction of some instructions that has not
been performed and acknowledged (R139, R159, R264). -/
def Tile.phaseOpen (t : Tile) (p : Trace → Bool) : Bool :=
  t.accesses.any (fun a => p a.tr) || t.elemsOpen (fun e => p e.tr || e.merged.any p) || t.engPort.any (fun c => p c.tr) ||
    t.arrayQ.any (fun e => p e.tr) || t.netQ.any (fun e => p e.tr) || t.sends.any (fun x => p x.e.tr) ||
    t.shardQ.any (fun e => p e.tr)

/-- Whether a tile holds any work of some instructions. A barrier arrival that has joined a generation counts as done (R536). -/
def Tile.workOpen (t : Tile) (p : Trace → Bool) : Bool :=
  t.phaseOpen p || t.insQ.any (fun (_, i) => match i with | .flush _ _ tr => p tr | _ => false) ||
    t.flushes.any (fun f => p f.tr) || t.tokensOut.any (fun x => p x.1.e.tr) ||
    t.remote.any (fun q => q.gen.isNone && p q.req.tr) || t.collQ.any (fun c => p c.tr)

/-- Whether any engine command of some instructions is not complete. -/
def State.commandsOpen (s : State) (p : Trace → Bool) : Bool := s.engines.any fun (_, q) => q.any fun c => p c.tr

/-- Whether nothing of a region that its PHASE waits for is still under way (R139, R159, R264, R311). -/
def State.regionQuiet (s : State) (r : RegionId) : Bool :=
  (s.regionOn r).all (fun (n, _) => !(s.tile n).phaseOpen (ofRegion r)) && !s.commandsOpen (ofRegion r)

/-- No issued write of a slot of a kernel has still to land (R41). -/
def Tile.landed (t : Tile) (k : Kernel) : Bool := k.slots.all fun (n, _) => (t.slot n).pend.isEmpty

/-- Whether nothing at all of a region is still under way: what its kernel instance waits for before it completes (R64, R140,
R264), its other requests among it, and the writes of its instructions landed (R41; notes/assumptions/94.md). DEDUCED -/
def State.regionIdle (s : State) (r : RegionId) : Bool :=
  (s.regionOn r).all (fun (n, k) => !(s.tile n).workOpen (ofRegion r) && (s.tile n).landed k) && !s.commandsOpen (ofRegion r)

/-- No fault of a kernel on its tile is undelivered. -/
def Tile.faultless (t : Tile) (k : Kernel) : Bool :=
  k.slots.all fun (n, _) => (t.slot n).faults.isEmpty && (t.slot n).deferred.isEmpty

/-- No handler of a kernel runs. -/
def Tile.handlersIdle (t : Tile) (k : Kernel) : Bool := k.slots.all fun (n, _) => (t.slot n).hnd.isNone

/-! ### Release (R65) -/

/-- The wheel without the positions of some slots. -/
def unbindWheel (w : W64) (slots : List Nat) : W64 :=
  word64 ((List.range 16).map fun p => (4 * p, if slots.contains (fld w (4 * p) 4) then 0xF else fld w (4 * p) 4))

/-- A tile with everything released that a kernel held on it. Claims that wait on its channels stay until they are
refused. -/
def Tile.release (t : Tile) (k : Kernel) : Tile :=
  let slots := k.slots.map (·.1)
  let chans := (t.hent.filter fun (_, w) => hentValid w && hentOwner w == k.owner).map fun (_, w) => hentChan w
  let mine := (t.hent.filter fun (_, w) => hentValid w && hentOwner w == k.owner).map (·.1)
  let bks := (t.baskets.filter fun (_, b) => b.owner == k.owner).map (·.1)
  { t with
    wheel := unbindWheel t.wheel slots,
    slots := t.slots.filter fun (n, _) => !slots.contains n,
    kernels := t.kernels.filter (·.owner != k.owner),
    hent := t.hent.map fun (n, w) => (n, if mine.contains n then BitVec.ofNat 64 (w.toNat % 2 ^ 63) else w),
    hste := t.hste.filter fun (n, _) => !mine.contains n,
    arrivals := t.arrivals.filter fun a => !chans.contains a.chan && !a.entry.any mine.contains,
    baskets := t.baskets.map fun (n, b) => (n, if b.owner == k.owner then { b with valid := false, st := [] } else b),
    grants := t.grants.filter fun g => !bks.contains g.1,
    mons := t.mons.filter fun (_, m) => !slots.contains m.slot,
    joins := t.joins.filter fun (_, j) => j.kern != k.owner,
    shadow := (t.performWhere (·.kern == k.owner)).shadow,
    progress := t.progress.filter fun (n, _) => n != k.owner,
    reloc := if t.kernels.all fun q => q.owner == k.owner then [] else t.reloc }

/-- A barrier object that its kernel has left: GEN is kept. -/
def BObj.cleared (b : BObj) : BObj := { b with valid := false, count := 0, arrived := 0, init := none }

/-- The barrier objects of a tile that a region initialised are cleared, those that a BARI at some site did where one is named. -/
def Tile.clearObjects (t : Tile) (r : RegionId) (maker : Option Nat) : Tile :=
  { t with bobjs := t.bobjs.map fun (n, b) =>
      (n, if b.init == some r && (maker.isNone || maker == some b.maker) then b.cleared else b) }

/-- The tiles on which a BARI of a kernel's tile may have initialised an object while the region holds no kernel there. -/
def State.farObjects (s : State) (r : RegionId) : List Nat :=
  (s.tiles.filter fun (_, (t : Tile)) => !t.kernels.any (·.inRegion r)).map (·.1)

/-- Claims that wait on a channel that no valid entry binds any longer are refused (R60, R506). -/
def State.refuseUnbound (s : State) (site : Nat) : State :=
  let t := s.tile site
  let gone := t.claims.filter fun c => (t.entryFor c.chan).isNone
  let s := s.modTile site fun t => { t with claims := t.claims.filter fun c => (t.entryFor c.chan).isSome }
  gone.foldl (fun s c => s.turnClaim c 9) s

/-- A kernel's part on a tile is released. -/
def State.releaseKernel (s : State) (site : Nat) (k : Kernel) : State :=
  let s := (s.farObjects k.region).foldl (fun s n => s.modTile n fun t => t.clearObjects k.region (some site)) s
  (s.modTile site fun t => (t.release k).clearObjects k.region none).refuseUnbound site

end Sys2Proof.Machine
end

