-- ==== Sys2Proof/Machine/Group.lean ====
section
/-!
DEFINITION. The plane array at the end of an entry (R275, R515), monitors (R319), and what the tiles of a region bring
about together: collectives (R324, R409, R509), PHASE (R66, R139, R311) and configuration swaps (R288, R529).
-/

namespace Sys2Proof.Machine

/-! ### The plane array (R264, R275, R515) -/


/-- The head entry of the array queue has written its results and its tag is counted 8 cycles after its busy cycles. Each
accumulator element of residue, by its key, received a sum that failed the residue check; ADDR of ERRLAST is its byte offset
among the accumulators (R498). -/
def execArrayEntryComplete (site : Nat) (residue : List Nat) (s : State) : Res :=
  .next (match (s.tile site).arrayQ with
    | e :: rest =>
      if s.cyc < e.iss + busyOf e + 8 then s
      else
        let old := s
        let s := s.arrayEffect e residue
        let mine := old.mismatches s e residue
        let s := s.modTile site fun t => { t with arrayQ := rest }
        if mine.isEmpty then s.complete e.tr
        else
          let s := { s with mg := { s.mg with katResid := Nat.min (s.mg.katResid + mine.length) 255 } }
          ((mine.foldl (fun s k => s.noteError false 2 (s.coord site) (4 * k)) s).clearClass site (klassOf e.tr.iw.toNat)).complete e.tr
    | [] => s)

/-! ### Monitors (R319) -/

/-- A write has touched the word of a monitor: the word is read again. -/
def execMonitorReread (site mon : Nat) (s : State) : Res :=
  .next (match (s.tile site).mons.find? (·.1 == mon) with
    | some (_, m) => if m.armed then s.modTile site fun t => t.monRead mon else s
    | none => s)

/-! ### Collectives (R104, R323, R324, R409) -/

/-- The contributions of this package to the collective of a number at a level, in ascending tile coordinate. -/
def State.contributions (s : State) (r : RegionId) (level index : Nat) : List (Nat × CEntry) :=
  s.tiles.flatMap fun (n, (t : Tile)) =>
    ((t.collQ.filter fun c =>
      let b := (t.kernelOf c.tr.kern).boundary level
      c.tr.l == r.l && c.level == level && c.index == index && decide (c.tr.wid.toNat / 2 ^ b = r.wid.toNat / 2 ^ b) &&
        decide (c.iss + 4 ≤ s.cyc))).map (n, ·)

/-- The elements of a contribution, with their poison. -/
def State.contributed (s : State) (site : Nat) (c : CEntry) : List (Nat × Bool) :=
  let b := (s.tile site).getBytes c.a (c.n * 2 ^ c.size)
  (chunks (2 ^ c.size) b.length b).map fun x => (leNat (x.map (·.1)), anyBad x)

/-- Two elements combined by the operation of a reduction. -/
def combine2 (op : AOp) (size : Nat) (x y : Nat × Bool) : Nat × Bool :=
  (performOp op size (BitVec.ofNat 64 y.1) 0 x.1, x.2 || y.2)

/-- A run of contributions combined in order, the first as child 0 (R104). -/
def combineRun (op : AOp) (size : Nat) : List (List (Nat × Bool)) → List (Nat × Bool)
  | [] => []
  | x :: t => t.foldl (List.zipWith (combine2 op size)) x

/-- GROUP8 of R409: runs of 8 combined until one value is left. -/
def group8 (op : AOp) (size : Nat) : Nat → List (List (Nat × Bool)) → List (Nat × Bool)
  | 0, l => combineRun op size l
  | fuel + 1, l =>
    if l.length ≤ 1 then l.headD [] else group8 op size fuel ((chunks 8 l.length l).map (combineRun op size))

/-- Elements as bytes with their poison. -/
def bytesOfElems (size : Nat) (x : List (Nat × Bool)) : List PByte := x.flatMap fun e => (leBytes (2 ^ size) e.1).map (·, e.2)

/-- The result written over the destination of a contribution, and its instruction complete; came tells whether poison in it may
have come from other packages (R498). -/
def State.takeResult (s : State) (site : Nat) (c : CEntry) (came : Bool) (x : List (Nat × Bool)) : State :=
  let b := bytesOfElems c.size x
  let s := (s.putBytes site c.d b).modTile site fun t => { t with collQ := t.collQ.erase c }
  (if came then s.received (.sram site c.d) b else s).complete c.tr

/-- Every contribution of some fails with a class and code. -/
def State.failColl (s : State) (l : List (Nat × CEntry)) (cls code : Nat) (value : CEntry → W64) : State :=
  l.foldl (fun s (n, c) => (s.modTile n fun t => { t with collQ := t.collQ.erase c }).asyncFault c.tr cls code (value c)) s

/-- Whether contributions agree in operation, size, number of elements and count. -/
def agreeing (l : List (Nat × CEntry)) : Bool :=
  match l with
  | [] => true
  | (_, c) :: t => t.all fun (_, d) => d.op == c.op && d.size == c.size && d.n == c.n && d.count == c.count

/-- Bytes of another package as elements. -/
def elemsOfBytes (size : Nat) (b : List PByte) : List (Nat × Bool) :=
  (chunks (2 ^ size) b.length b).map fun x => (leNat (x.map (·.1)), anyBad x)

/-- What a package, or a subtree of packages, contributes: what its contributions agree in (empty where they differ), and the
elements: of a broadcast none where no root lies there. -/
abbrev Share := List Nat × Option (List (Nat × Bool))

/-- The share of this package's own contributions, in ascending tile coordinate (R409). -/
def State.ownShare (s : State) (l : List (Nat × CEntry)) : Share :=
  match l with
  | [] => ([], none)
  | (_, c) :: _ =>
    let shape := [match c.op with | some op => op.code + 1 | none => 0, c.size, c.n, c.count]
    match agreeing l, c.op with
    | false, _ => ([], none)
    | true, some op => (shape, some (group8 op c.size 5 (l.map fun (n, c) => s.contributed n c)))
    | true, none =>
      match l.filter (·.2.root) with
      | [] => (shape, none)
      | [(n, d)] => (shape, some (s.contributed n d))
      | _ => ([], none)

/-- The shares of a run of packages combined, the first as child 0 (R104); of a broadcast, the elements of its one root. -/
def joinShares (op : Option AOp) (size : Nat) (l : List Share) : Share :=
  match l with
  | [] => ([], none)
  | (shape, _) :: t =>
    let data := l.filterMap (·.2)
    if t.any (·.1 != shape) then ([], none)
    else match op, data with
      | some op, _ => (shape, some (combineRun op size data))
      | none, [] => (shape, none)
      | none, [x] => (shape, some x)
      | none, _ => ([], none)

/-- The share that member i of n packages has once it has combined what the first members of the runs below it send, level by
level with fan-in 8; none while any of those has not come (R409). -/
def climb (join : List Share → Share) (get : Nat → Option Share) (n i : Nat) : Nat → Nat → Share → Option Share
  | 0, _, v => some v
  | fuel + 1, w, v =>
    if n ≤ w || i % (8 * w) != 0 then some v
    else match ((List.range 7).map fun k => i + (k + 1) * w).filter (· < n) |>.mapM get with
      | none => none
      | some l => climb join get n i fuel (8 * w) (join (v :: l))

/-- The member to which member i of a tree sends its share: the first of its run on the level where it is not the first. -/
def parentOf (i : Nat) : Option Nat := ([8, 64, 512, 4096].find? fun w => i % w != 0).map fun w => i - i % w

/-- The packages of a group in ascending number, this one among them. -/
def membersOf (own : Nat) (ext : List (Nat × Nat × Option (List PByte))) : List Nat :=
  (List.range 4096).filter fun p => p == own || ext.any (·.1 == p)

/-- The share of another package, as an edge of the tree has brought it or the agenda gives it. -/
def Coll.shareOf (x : Coll) (c : CEntry) (shape : List Nat) (ext : List (Nat × Nat × Option (List PByte))) (pkg : Nat) : Option Share :=
  match x.parts.find? (·.pkg == pkg), ext.find? (·.1 == pkg) with
  | some p, _ => some (p.shape, p.data.map (elemsOfBytes c.size))
  | none, some (_, _, some b) => some (shape, some (elemsOfBytes c.size b))
  | none, _ => if c.op.isNone then some (shape, none) else none

/-- A share or a result on the edge of the tree to another package: by the reduction edge bound for it, else by the packet pool
(R407). -/
def State.partTo (s : State) (x : Coll) (c : CEntry) (down : Bool) (dst : Nat) (v : Share) : State :=
  let p : Partial := { l := x.l, level := x.level, fields := x.fields, index := x.index, pkg := s.pkg, dst := dst, down := down,
                       shape := v.1, data := v.2.map (bytesOfElems c.size), owner := c.tr.owner }
  s.departOn (s.bound 2 c.tr.owner dst) dst (.part p)

/-- The result of a collective reaches this package: every contributor receives it, or the fault of R324, and it travels on down
the tree. -/
def State.shareOut (s : State) (x : Coll) (l : List (Nat × CEntry)) (c : CEntry) (members : List Nat) (i : Nat) (v : Share) : State :=
  let kids := (List.range members.length).filter fun j => parentOf j == some i
  let s := kids.foldl (fun s j => s.partTo x c true (nth members j 0) v) s
  let s := { s with sched := { s.sched with colls := s.sched.colls.filter fun d => !d.isOf x.l x.level x.fields x.index } }
  match v.2 with
  | some r => l.foldl (fun s (n, c) => s.takeResult n c (decide (1 < members.length)) r) s
  | none => s.failColl l 7 0x13 (·.group)

/-- The fields above a level, of a group whose contributions are l. -/
def State.fieldsOf (s : State) (r : RegionId) (level : Nat) (l : List (Nat × CEntry)) : Nat :=
  (l.head?.map fun (n, c) => r.wid.toNat / 2 ^ ((s.tile n).kernelOf c.tr.kern).boundary level).getD 0

/-- A collective with every contribution present moves on (R324, R407, R409): this package's share goes up the tree once the
shares below it are there, and the result is written and goes on down. ext lists the other packages of the group with their
counts of contributions; the share of one that its edge has not brought comes with it (of a broadcast none where no root lies
there; notes/assumptions/1.md). With an explicit count smaller than the number of tiles that contribute R324 does not say which
contributions form the collective: it is those present when the event comes (notes/assumptions/110.md). DESIGN CHOICE -/
def execCollectiveComplete (r : RegionId) (level index : Nat) (ext : List (Nat × Nat × Option (List PByte))) (s : State) :
    Res :=
  .next (
    let l := s.contributions r level index
    match l with
    | [] => s
    | (_, c) :: _ =>
      let present := l.length + (ext.map fun e => e.2.1).foldl (· + ·) 0
      let x := s.coll r.l level (s.fieldsOf r level l) index
      let members := membersOf s.pkg ext
      let i := members.findIdx (· == s.pkg)
      if present < c.count || x.broken then s
      else match x.result with
        | some p => s.shareOut x l c members i (p.shape, p.data.map (elemsOfBytes c.size))
        | none =>
          let mine := s.ownShare l
          match climb (joinShares c.op c.size) (fun j => x.shareOf c mine.1 ext (nth members j 0)) members.length i 4 1 mine with
          | none => s
          | some v =>
            match parentOf i with
            | none => s.shareOut x l c members i v
            | some j => if x.sent then s else (s.setColl { x with sent := true }).partTo x c false (nth members j 0) v)

/-- The tiles placed for the instances of a group. -/
def State.groupTiles (s : State) (r : RegionId) (level : Nat) : List (Nat × Kernel) :=
  s.tiles.flatMap fun (n, (t : Tile)) => (t.kernels.filter fun k =>
    k.l == r.l && decide (k.wid.toNat / 2 ^ k.boundary level = r.wid.toNat / 2 ^ k.boundary level)).map (n, ·)

/-- Whether a node of a launch has ended with status 3, or is ending so (R466). -/
def State.nodeLost (s : State) (l node : Nat) : Bool :=
  (s.sched.preempts.any fun p => p.l == l && p.node == node && p.ending) ||
    s.sched.launches.any fun a => a.l == l && a.nodes.any fun (n, x) => n == node && x.st == .done 3

/-- Whether a collective has a cause to be broken (R509): a tile of the group has left service, or its node ends with status 3,
before it has contributed; the explicit count cannot be met; members cannot reach each other; or the group spans other packages,
whose tiles and edges the event speaks for (notes/assumptions/1.md). -/
def State.collBroken (s : State) (r : RegionId) (level : Nat) (l : List (Nat × CEntry)) : Bool :=
  let g := s.groupTiles r level
  let given (n : Nat) (k : Kernel) : Bool := l.any fun (m, c) => m == n && c.tr.kern == k.owner
  g.any (fun (n, k) => s.spanning k || (!given n k && (!s.mg.svc.contains n || s.nodeLost k.l k.node))) ||
    (s.nodeLost r.l r.node && (s.regionOn r).isEmpty) ||
    l.any (fun (_, c) => fld c.group 31 1 == 1 && decide (g.length < c.count)) ||
    l.any (fun (n, _) => l.any fun (m, _) => (s.path n m).isNone)

/-- A broken collective: its contributors fail, and so do those that come later. -/
def execCollectiveBroken (r : RegionId) (level index : Nat) (s : State) : Res :=
  .next (
    let l := s.contributions r level index
    let x := s.coll r.l level (s.fieldsOf r level l) index
    if l.isEmpty then s
    else if x.broken || s.collBroken r level l then
      (s.failColl l 12 0x0A (fun _ => 0)).setColl { x with broken := true, parts := [], result := none }
    else s)

/-- The contributions to a broken collective that have come after the break. -/
def State.lateShares (s : State) (x : Coll) : List (Nat × CEntry) :=
  s.tiles.flatMap fun (n, (t : Tile)) => (t.collQ.filter fun c =>
    let k := t.kernelOf c.tr.kern
    x.isOf c.tr.l c.level (k.wid.toNat / 2 ^ k.boundary c.level) c.index && decide (c.iss + 4 ≤ s.cyc)).map (n, ·)

/-- They fail at once (R509). -/
def State.failLate (s : State) : State :=
  (s.sched.colls.filter (·.broken)).foldl (fun s x => s.failColl (s.lateShares x) 12 0x0A fun _ => 0) s

/-! ### PHASE (R66, R139, R311) -/

/-- Whether a slot sleeps in PHASE, not yet complete. -/
def Slot.inPhase (x : Slot) : Bool := x.state == .asleep && x.wake == some (.phase false)

/-- Whether a main slot of a kernel sleeps in PHASE. -/
def Tile.inPhase (t : Tile) (k : Kernel) : Bool := k.mains.any fun m => (t.slot m).inPhase

/-- Whether the PHASE of a region completes, as far as this package's tiles show: every main slot has arrived or is DONE, no handler
runs, and everything issued before has been performed. -/
def State.phaseReady (s : State) (r : RegionId) : Bool :=
  let l := s.regionOn r
  l.any (fun (n, k) => (s.tile n).inPhase k) && l.all (fun (n, k) =>
    k.mains.all (fun m => ((s.tile n).slot m).inPhase || ((s.tile n).slot m).state == .done) &&
      (s.tile n).handlersIdle k && (s.tile n).faultless k) && s.regionQuiet r

/-- The region's PHASE completes: PHNO counts it, each slot that waits may wake, and the stores of the region are performed at every
scope. -/
def State.phaseDone (s : State) (r : RegionId) : State :=
  (s.regionOn r).foldl (fun s (n, k) => s.modTile n fun t =>
    let t := k.mains.foldl (fun t m => t.modSlot m fun x =>
      if x.inPhase then { x with wake := some (.phase true) } else x) t
    (t.modKernel k.owner fun k => { k with phno := (k.phno + 1) % 2 ^ 32 }).performWhere (·.kern == k.owner)) s

/-- The PHASE of a region completes where it may. Of a region that spans packages the event speaks for the tiles of the others
(notes/assumptions/1.md); that of another completes at the end of the first cycle in which it may. -/
def execPhaseComplete (r : RegionId) (s : State) : Res := .next (if s.phaseReady r then s.phaseDone r else s)

/-- The regions of this package with a main slot that sleeps in PHASE, and that span no other package. -/
def State.phaseRegions (s : State) : List RegionId :=
  (s.tiles.flatMap fun (_, (t : Tile)) => (t.kernels.filter fun k => t.inPhase k && !s.spanning k).map (·.region)).eraseDups

/-- Every PHASE completes whose conditions all hold (R311). -/
def State.completePhases (s : State) : State :=
  s.phaseRegions.foldl (fun s r => if s.phaseReady r then s.phaseDone r else s) s

/-! ### Configuration swap (R288, R529) -/

/-- The box after the swap. -/
def Box.swapped (b : Box) : Box :=
  { b with active := b.under, under := b.active, loaded := false, inbuf := [], eos := none, eosn := 0, packets := 0,
           payload := 0, rest := [], eosIn := [], strays := [], swapWait := false, localAt := none }

/-- A slot whose CFGSWAP has taken place. -/
def Slot.swapDone (x : Slot) : Slot := if x.wake == some (.swap false) then { x with wake := some (.swap true) } else x

/-- Whether a generator of a tile that holds work of some instructions is stopped by a translation fault (R118, R492). -/
def Tile.genStopped (t : Tile) (p : Trace → Bool) : Bool :=
  t.hampers.any (fun (_, h) => h.stopped && h.elems.any fun e => p e.tr || e.merged.any p) ||
    t.remote.any (fun q => q.stopped && p q.req.tr) || (t.netStopped && (t.netQ.head?.any fun e => p e.tr))

/-- Whether an entry at the head of the insertion queue waits for a stopped hamper (R492). -/
def Tile.insBlocked (t : Tile) : Bool :=
  match t.insQ with
  | (_, .elem _ dst _) :: _ => t.hampers.any fun (_, h) => h.stopped && h.dst == dst
  | _ => false

/-- Whether a generator of a tile beside its engine port holds work of some instructions that it can perform. -/
def Tile.genWorks (t : Tile) (p : Trace → Bool) : Bool :=
  t.accesses.any (fun a => p a.tr) || t.arrayQ.any (fun e => p e.tr) ||
    t.shardQ.any (fun e => p e.tr) || (!t.netStopped && t.netQ.any fun e => p e.tr) ||
    t.hampers.any (fun (_, h) => !h.stopped && h.elems.any fun e => p e.tr || e.merged.any p) ||
    (!t.insBlocked && t.insQ.any fun (_, i) => match i with | .elem _ _ e => p e.tr | .flush _ _ tr => p tr | .fence _ => false) ||
    t.remote.any (fun q => !q.stopped && q.gen.isNone && p q.req.tr)

/-- Whether the head of an engine queue is stopped. -/
def headStopped (q : List ECmd) : Bool := q.head?.any (·.stopped)

/-- Whether a region has met a translation fault that is not resolved (R118). -/
def State.regionFaulted (s : State) (r : RegionId) : Bool :=
  (s.regionOn r).any (fun (n, _) => (s.tile n).genStopped (ofRegion r)) ||
    s.engines.any fun (_, q) => headStopped q && q.head?.any fun c => ofRegion r c.tr

/-- Whether the head of an engine queue is a QFENCE that awaits one of some commands. -/
def headAwaits (ids : List Nat) (q : List ECmd) : Bool :=
  q.head?.any fun c => match c.op with | .qfence _ await => await.any ids.contains | _ => false

/-- The engine queues that cannot go on: their heads are stopped, or are QFENCEs that await a command of such a queue. -/
def State.stuckQueues (s : State) : Nat → List Nat
  | 0 => (s.engines.filter fun (_, q) => headStopped q).map (·.1)
  | n + 1 =>
    let l := s.stuckQueues n
    let ids := (s.engines.filter fun (k, _) => l.contains k).flatMap fun (_, q) => q.map (·.id)
    (s.engines.filter fun (k, q) => l.contains k || headAwaits ids q).map (·.1)

/-- The engine queues of the package that cannot go on: a chain of QFENCEs passes each of an engine's 8 queues once at most. -/
def State.stuck (s : State) : List Nat := s.stuckQueues 8

/-- Whether the head of a tile's engine port waits for a queue that is full and cannot go on. -/
def State.portStuck (s : State) (site : Nat) : Bool :=
  (s.tile site).engPort.head?.any fun c =>
    decide (16 ≤ (s.engQueue c.eng c.queue).length) && s.stuck.contains (8 * c.eng + c.queue)

/-- Whether a collective of a region has every contribution present that it counts. -/
def State.collWorks (s : State) (r : RegionId) (t : Tile) : Bool :=
  t.collQ.any fun c => ofRegion r c.tr && decide (c.count ≤ (s.contributions r c.level c.index).length)

/-- Whether a slot in BACKED waits for room in a queue that is full and cannot go on. -/
def State.backedStuck (s : State) (site slot : Nat) : Bool :=
  let t := s.tile site
  let x := t.slot slot
  let port := decide (8 ≤ t.engPort.length) && s.portStuck site
  let elems := decide (4 ≤ t.insQ.length) && t.insBlocked
  let reqs := decide (16 ≤ t.remote.length) && t.remote.all fun q => q.stopped || q.gen.isSome
  let net := decide (8 ≤ t.netUsed) && t.netStopped
  let colls := decide (4 ≤ t.collQ.length)
  x.state == .backed &&
    match decode (BitVec.ofNat 64 (loadNat t.sram ((t.kernelOf x.kern).sbase + 8 * x.pc) 8)) with
    | .encodingFault _ => false
    | .ok i =>
      match i with
      | .cpy .. | .cpy2 .. | .cpyl .. | .cpyc .. | .fill .. | .qfence .. => port
      | .rst .. | .rat .. | .hflush .. | .fence .. | .phase .. => elems
      | .ratf .. | .rld .. | .bari .. | .bara .. | .barw .. => reqs
      | .tsend .. | .tfwd .. | .tfork .. | .eos .. | .cfgld .. => net
      | .nred .. | .nbcast .. => colls
      | .waitm .. => t.freeMon.isNone
      | _ => false

/-- A quiescent point of a region: no slot issues, and no generator holds work that it can perform (R118). -/
def State.quiescent (s : State) (r : RegionId) : Bool :=
  (s.regionOn r).all (fun (n, k) =>
    (k.slots.all fun (m, _) =>
      let x := (s.tile n).slot m
      (x.state == .asleep || x.state == .stopped || x.state == .done || (x.hslot && x.hnd.isNone) || s.backedStuck n m)) &&
    !(s.tile n).genWorks (ofRegion r) && !s.collWorks r (s.tile n) &&
    ((s.tile n).engPort.all (fun c => !ofRegion r c.tr) || s.portStuck n)) &&
  s.engines.all fun (k, q) => s.stuck.contains k || !q.any fun c => ofRegion r c.tr

/-- The swap cycle: once every tile of the region has issued CFGSWAP and shows LOCAL and LOADED, every box exchanges its
planes; held strays are discarded, with a fault against the CFGSWAP of their tile. A region that has faulted swaps at a quiescent
point only (R118). Of a region that spans packages the event speaks for the tiles of the others (notes/assumptions/1.md). -/
def execConfigurationSwap (r : RegionId) (s : State) : Res :=
  .next (
    let l := s.regionOn r
    let ready := l.all fun (n, _) => (s.tile n).box.swapWait && (s.tile n).box.isLocal && (s.tile n).box.loaded
    if !l.isEmpty && ready && (!s.regionFaulted r || s.quiescent r) then
      l.foldl (fun s (n, k) =>
        let stray := !(s.tile n).box.strays.isEmpty
        let s := s.modTile n fun t => { t with box := t.box.swapped }
        if stray then s.swapFault n 0x0D true
        else s.modTile n fun t => k.mains.foldl (fun t m => t.modSlot m Slot.swapDone) t) s
    else s)

end Sys2Proof.Machine
end

