-- ==== Sys2Proof/Machine/Place.lean ====
section
/-!
DEFINITION. Graph images and kernel headers as the scheduler reads them from its memory (R359 to R367, R478), and the binding
of a kernel to a tile (R375 to R377).
-/

namespace Sys2Proof.Machine

/-! ### Graph images (R359 to R365) -/

/-- The end of what graph images may use of scheduler memory. -/
def smEnd : Nat := 0xFC0000

/-- n bytes of scheduler memory. -/
def State.sm (s : State) (a n : Nat) : Nat := loadNat s.sched.mem a n

structure GraphHdr where
  base : Nat
  nnode : Nat
  nedge : Nat
  npkg : Nat
  edgeOff : Nat
  pkgOff : Nat
  paOff : Nat
  paLen : Nat
  recBase : Nat
  recN : Nat
  port : Nat
  vec : Nat
  deriving DecidableEq, Repr

/-- The header of graph g. -/
def State.graphHdr (s : State) (g : Nat) : GraphHdr :=
  let b := 4096 * fld (getD 0 s.sched.schgr g) 0 12
  { base := b, nnode := s.sm b 2, nedge := s.sm (b + 2) 2, npkg := s.sm (b + 4) 2, edgeOff := s.sm (b + 8) 4,
    pkgOff := s.sm (b + 0xC) 4, paOff := s.sm (b + 0x10) 4, paLen := s.sm (b + 0x14) 4, recBase := s.sm (b + 0x18) 8,
    recN := s.sm (b + 0x20) 4, port := s.sm (b + 0x24) 1, vec := s.sm (b + 0x26) 2 }

/-- The edges of a graph: predecessor and successor. -/
def State.edges (s : State) (h : GraphHdr) : List (Nat × Nat) :=
  (List.range h.nedge).map fun k => (s.sm (h.base + h.edgeOff + 4 * k) 2, s.sm (h.base + h.edgeOff + 4 * k + 2) 2)

/-- The package list of a graph. -/
def State.packages (s : State) (h : GraphHdr) : List Nat :=
  (List.range h.npkg).map fun k => s.sm (h.base + h.pkgOff + 2 * k) 2 % 4096

structure NodeRec where
  kimg : Nat
  klen : Nat
  queue : Nat
  nfld : Nat
  affLvl : Nat
  affSc : Nat
  pagepol : Nat
  rect : Bool
  stay : Bool
  note : Bool
  pkgs : Nat
  w : Nat
  h : Nat
  tiles : Nat
  widths : List Nat
  exts : List Nat
  /-- EXT_k for every k -/
  allExts : List Nat
  psrc : Nat
  plen : Nat
  pdst : Nat
  deriving DecidableEq, Repr

/-- The launch header of node i (R364). -/
def State.nodeRec (s : State) (g : GraphHdr) (i : Nat) : NodeRec :=
  let b := g.base + 0x40 + 128 * i
  let q := s.sm (b + 8) 8
  let n := bitsOf q 8 3
  let ws := s.sm (b + 0x18) 8
  let es := (List.range 6).map fun k => s.sm (b + 0x20 + 8 * k) 8
  { kimg := s.sm b 4, klen := s.sm (b + 4) 4, queue := bitsOf q 0 6, nfld := n, affLvl := bitsOf q 12 3,
    affSc := bitsOf q 16 2, pagepol := bitsOf q 20 2, rect := bitOf q 24, stay := bitOf q 25, note := bitOf q 26,
    pkgs := bitsOf q 32 10, w := s.sm (b + 0x10) 1, h := s.sm (b + 0x11) 1, tiles := s.sm (b + 0x12) 2,
    widths := (List.range n).map fun k => bitsOf ws (6 * k) 6, exts := es.take n, allExts := es, psrc := s.sm (b + 0x50) 4,
    plen := s.sm (b + 0x54) 2, pdst := s.sm (b + 0x58) 4 }

/-- Whether a node record is beyond the limits of R364 or R67. -/
def nodeBad (g : GraphHdr) (r : NodeRec) : Bool :=
  r.kimg % 64 != 0 || r.nfld == 0 || decide (6 < r.nfld) || decide (r.nfld < r.affLvl) || r.affSc == 3 || r.pkgs == 0 ||
    decide (g.npkg < r.pkgs) ||
    (if r.rect then r.w == 0 || decide (16 < r.w) || r.h == 0 || decide (16 < r.h)
     else r.tiles == 0 || decide (960 < r.tiles)) ||
    r.widths.any (fun w => w == 0 || decide (56 < w)) || decide (56 < r.widths.foldl (· + ·) 0) ||
    (r.exts.zip r.widths).any (fun (e, w) => e == 0 || decide (2 ^ w < e)) || (r.allExts.drop r.nfld).any (· != 1) ||
    decide (4096 < r.plen) || decide (g.paLen < r.psrc + r.plen) || r.pdst % 64 != 0

/-- The refusals without a record (R370): the record ring is unusable, or this package is not the lead. -/
def State.graphSilent (s : State) (g : Nat) : Bool :=
  let h := s.graphHdr g
  fld (getD 0 s.sched.schgr g) 63 1 == 0 || decide (smEnd < h.base + 64) ||
    h.recBase % 32 != 0 || !((List.range 21).any fun k => h.recN == 2 ^ k) || decide (1 < h.port) || decide (63 < h.vec) ||
    (decide (1 ≤ h.npkg) && decide (h.base + h.pkgOff + 2 * h.npkg ≤ smEnd) &&
      (s.packages h).head? != some s.pkg)

/-- Whether a byte or a bit that R362 does not name is set in the header at b. -/
def State.hdrUnnamed (s : State) (b : Nat) : Bool :=
  s.sm (b + 6) 2 != 0 || s.sm (b + 0x25) 1 != 0 || s.sm (b + 0x28) 24 != 0

/-- Whether a byte or a bit that R364 does not name is set in node record i: of WIDTHS the fields of k at and above N too. -/
def State.nodeUnnamed (s : State) (g : GraphHdr) (i : Nat) : Bool :=
  let b := g.base + 0x40 + 128 * i
  let q := s.sm (b + 8) 8
  bitsOf q 6 2 != 0 || bitOf q 11 || bitOf q 15 || bitsOf q 18 2 != 0 || bitsOf q 22 2 != 0 || bitsOf q 27 5 != 0 ||
    bitsOf q 42 22 != 0 || s.sm (b + 0x14) 4 != 0 || s.sm (b + 0x18) 8 / 2 ^ (6 * bitsOf q 8 3) != 0 || s.sm (b + 0x56) 2 != 0 ||
    s.sm (b + 0x5C) 36 != 0

/-- The refusals with a launch record (R362 to R364, R370, R489). -/
def State.graphBad (s : State) (g : Nat) : Bool :=
  let h := s.graphHdr g
  h.nnode == 0 || decide (256 < h.nnode) || h.npkg == 0 || decide (512 < h.npkg) || h.paOff % 64 != 0 ||
    decide (4096 < h.paLen) || decide (smEnd < h.base + 64 + 128 * h.nnode) ||
    decide (smEnd < h.base + h.edgeOff + 4 * h.nedge) || decide (smEnd < h.base + h.pkgOff + 2 * h.npkg) ||
    decide (smEnd < h.base + h.paOff + h.paLen) ||
    (s.edges h).any (fun (a, b) => decide (b ≤ a) || decide (h.nnode ≤ b)) || !(s.packages h).Nodup ||
    s.hdrUnnamed h.base || (List.range h.npkg).any (fun k => 4096 ≤ s.sm (h.base + h.pkgOff + 2 * k) 2) ||
    (List.range h.nnode).any fun i => nodeBad h (s.nodeRec h i) || s.nodeUnnamed h i

/-- The patch entries of a trigger: offset, log2 size, value (R371). Of a list that runs into the scheduler's own area the entries
there read as zeros, as that area does (R359), and are applied so (notes/assumptions/96.md). DESIGN CHOICE -/
def State.patches (s : State) (w : W64) : List (Nat × Nat × W64) :=
  (List.range (fld w 0 12)).map fun k =>
    let a := 16 * fld w 32 20 + 16 * k
    (s.sm a 4, bitsOf (s.sm (a + 4) 4) 0 2, BitVec.ofNat 64 (s.sm (a + 8) 8))

/-- Whether a patch is misaligned or reaches past the parameter area. -/
def patchBad (paLen : Nat) (p : Nat × Nat × W64) : Bool := p.1 % 2 ^ p.2.1 != 0 || decide (paLen < p.1 + 2 ^ p.2.1)

/-- Bytes with a run replaced. -/
def setRun (l : List Byte) (a : Nat) (b : List Byte) : List Byte := l.take a ++ b ++ l.drop (a + b.length)

/-- The patched copy of a graph's parameter area. -/
def State.patched (s : State) (h : GraphHdr) (l : List (Nat × Nat × W64)) : List Byte :=
  l.foldl (fun p (off, sz, v) => setRun p off (leBytes (2 ^ sz) v.toNat)) (bytesAt s.sched.mem (h.base + h.paOff) h.paLen)

/-! ### Instances (R67, R68, R365) -/

/-- The instances of a node as values of the fields, ascending. -/
def fieldValues (r : NodeRec) : List Nat :=
  (List.range r.nfld).reverse.foldl (fun l k =>
    l.flatMap fun x => (List.range (nth r.exts k 1)).map fun i => x + i * 2 ^ (r.widths.take k).foldl (· + ·) 0) [0]

/-- The number of instances, and of tiles of each on a package. -/
def NodeRec.instances (r : NodeRec) : Nat := r.exts.foldl (· * ·) 1
def NodeRec.perPkg (r : NodeRec) : Nat := if r.rect then r.w * r.h else r.tiles

/-- The size of a node (R365). -/
def NodeRec.size (r : NodeRec) : Nat := r.instances * r.perPkg * r.pkgs

/-- The work identifier with field values x (R67, R368). -/
def NodeRec.wid (r : NodeRec) (sigma x : Nat) : W64 := BitVec.ofNat 64 (sigma * 2 ^ r.widths.foldl (· + ·) 0 + x)

/-! ### Kernel headers (R192, R366, R367, R478) -/

/-- A kernel slot of a header. -/
structure KSlot where
  num : Nat
  hslot : Bool
  pos : Nat
  shape : Nat
  count : Nat
  entry : Nat
  deriving DecidableEq, Repr

structure KHdr where
  useMask : W64
  sram : Nat
  planes : Nat
  accs : Nat
  routes : Nat
  budget : Nat
  slots : List KSlot
  chans : List W64
  keeps : List (Nat × Nat)
  discs : List (Nat × Nat)
  image : List Byte
  deriving DecidableEq, Repr

/-- The bytes of a kernel image file before its image bytes. -/
def imageStart : Nat := 16 + 0x260

/-- Word n of the kernel slots of a header at b, and what it says. -/
def State.slotWord (s : State) (b n : Nat) : Nat := s.sm (b + 0x20 + 8 * n) 8
def kslot (n w : Nat) : KSlot :=
  { num := n, hslot := bitOf w 62, pos := bitsOf w 56 5, shape := bitsOf w 32 16, count := bitsOf w 24 5,
    entry := bitsOf w 0 18 }

/-- Start and length of a keep or discard range. -/
def State.rangeAt (s : State) (a : Nat) : Nat × Nat := (s.sm a 4, s.sm (a + 4) 4)

/-- The kernel header of a node's image file. -/
def State.kernelHdr (s : State) (r : NodeRec) : KHdr :=
  let b := r.kimg + 16
  { useMask := BitVec.ofNat 64 (s.sm b 8), sram := s.sm (b + 8) 4, planes := s.sm (b + 0xC) 4, accs := s.sm (b + 0x10) 1,
    routes := s.sm (b + 0x14) 4, budget := s.sm (b + 0x18) 2,
    slots := ((List.range 8).filter fun n => bitOf (s.slotWord b n) 63).map fun n => kslot n (s.slotWord b n),
    chans := (List.range (s.sm (b + 0x11) 1)).map fun i => BitVec.ofNat 64 (s.sm (b + 0x60 + 8 * i) 8),
    keeps := (List.range (s.sm (b + 0x12) 1)).map fun i => s.rangeAt (b + 0x160 + 8 * i),
    discs := (List.range (s.sm (b + 0x13) 1)).map fun i => s.rangeAt (b + 0x1E0 + 8 * i),
    image := bytesAt s.sched.mem (r.kimg + imageStart) (r.klen - imageStart) }

/-- Rings that a header declares: bit L for level L. -/
def KHdr.rings (h : KHdr) : Nat := maskOf 4 fun l => bitsOf h.routes (4 * l) 4 != 0

/-- The number of set bits below n. -/
def onesIn (n x : Nat) : Nat := ((List.range n).filter (bitOf x)).length

/-- A slot word that R367 refuses. -/
def slotWordBad (w : Nat) : Bool :=
  if bitOf w 63 then
    let k := kslot 0 w
    k.pos == 0 || decide (16 < k.pos) || !([0, 1, 2, 4, 8, 16].contains k.count) ||
      (k.shape != 0 && onesIn 16 k.shape != k.pos) || (k.hslot && k.entry != 0) || bitOf w 61 || bitsOf w 48 8 != 0 ||
      bitsOf w 29 3 != 0 || bitsOf w 18 6 != 0
  else w != 0

/-- Whether the scheduler refuses a node's kernel header. A file too short for its preamble and header is refused too
(notes/assumptions/95.md). DESIGN CHOICE -/
def State.headerBad (s : State) (r : NodeRec) : Bool :=
  let b := r.kimg + 16
  if smEnd < r.kimg + r.klen || r.klen < imageStart then true
  else
    let h := s.kernelHdr r
    let nchan := s.sm (b + 0x11) 1
    let nkeep := s.sm (b + 0x12) 1
    let ndisc := s.sm (b + 0x13) 1
    let outside (x : Nat × Nat) : Bool := decide (h.sram < x.1 + x.2)
    decide (16 < (h.slots.map (·.pos)).foldl (· + ·) 0) || h.slots.all (·.hslot) ||
      decide (16 < (h.slots.map (·.count)).foldl (· + ·) 0) || !((h.chans.map hentChan).Nodup) ||
      (decide (0 < nchan) && !h.slots.any (·.hslot)) ||
      h.keeps.any (fun x => outside x || h.discs.any fun y => overlaps x.1 x.2 y.1 y.2) || h.discs.any outside ||
      fld h.useMask 45 19 != 0 || decide (h.sram < h.image.length) || decide (0x200000 < h.sram) ||
      decide (0x80000 < h.planes) || decide (4 < h.accs) || decide (32 < nchan) || decide (16 < nkeep) ||
      decide (16 < ndisc) || (h.rings != 0 && decide (h.sram < h.image.length + 256)) ||
      decide (h.sram < r.pdst + r.plen) || bitsOf h.routes 21 11 != 0 || decide (16 < bitsOf h.routes 16 5) ||
      s.sm (b + 0x1A) 6 != 0 ||
      (List.range 8).any (fun n => slotWordBad (s.slotWord b n)) ||
      (List.range 32).any (fun i =>
        let w : W64 := BitVec.ofNat 64 (s.sm (b + 0x60 + 8 * i) 8)
        if i < nchan then hentMask w || hentOwner w != 0 || fld w 18 24 != 0 || decide (h.sram / 8 ≤ hentPc w) else w != 0) ||
      (List.range 16).any (fun i => (decide (nkeep ≤ i) && s.sm (b + 0x160 + 8 * i) 8 != 0) ||
        (decide (ndisc ≤ i) && s.sm (b + 0x1E0 + 8 * i) 8 != 0)) ||
      h.slots.any fun k => !k.hslot && decide (h.sram / 8 ≤ k.entry)

/-! ### Binding to a tile (R375, R377) -/

/-- A multiple of 4,096 at least n. -/
def up4k (n : Nat) : Nat := (n + 4095) / 4096 * 4096

/-- The lowest free run of n bytes, aligned to 4 KiB, beside the taken ones. -/
def lowestRun (taken : List (Nat × Nat)) (n limit : Nat) : Option Nat :=
  ((List.range (limit / 4096 + 1)).map (4096 * ·)).find? fun a =>
    decide (a + up4k n ≤ limit) && taken.all fun (b, m) => !overlaps a (up4k n) b (up4k m)

/-- Slots of a tile to which no kernel is bound. -/
def Tile.freeSlots (t : Tile) : List Nat :=
  (List.range 8).filter fun n => !t.kernels.any fun k => k.slots.any (·.1 == n)

/-- Unbound positions of a wheel. -/
def unbound (w : W64) : List Nat := (List.range 16).filter fun p => 8 ≤ fld w (4 * p) 4

/-- The positions that a kernel slot takes: its shape at the least rotation, or the lowest unbound ones. -/
def positionsFor (w : W64) (k : KSlot) : Option (List Nat) :=
  let free := unbound w
  if k.shape = 0 then (if k.pos ≤ free.length then some (free.take k.pos) else none)
  else
    ((List.range 16).find? fun r => (List.range 16).all fun b => !bitOf k.shape b || free.contains ((b + r) % 16)).map
      fun r => ((List.range 16).filter (bitOf k.shape)).map fun b => (b + r) % 16

/-- The wheel with positions bound to a slot. -/
def bindWheel (w : W64) (slot : Nat) (ps : List Nat) : W64 :=
  word64 ((List.range 16).map fun p => (4 * p, if ps.contains p then slot else fld w (4 * p) 4))

/-- Lane slices that grants take. -/
def Tile.lanesTaken (t : Tile) : List (Nat × Nat) := t.slots.map fun (_, x) => (x.base, x.count)

/-- The lowest free base of a grant. -/
def laneBase (taken : List (Nat × Nat)) (count : Nat) : Option Nat :=
  if count = 0 then some 0
  else ((List.range 16).filter fun b => b % count == 0 && decide (b + count ≤ 16)).find? fun b =>
    taken.all fun (a, n) => !overlaps b count a n

/-- The kernel slots of a header bound one after the other. -/
def bindSlots (budget : Nat) : List KSlot → List Nat → Tile → Option (List (Nat × Nat) × Tile)
  | [], _, t => some ([], t)
  | k :: ks, free, t =>
    match free, positionsFor t.wheel k, laneBase t.lanesTaken k.count with
    | n :: rest, some ps, some b =>
      let x : Slot := { Slot.reset with hslot := k.hslot, base := b, count := k.count, pc := k.entry,
                                        budget := if k.hslot then budget else 0 }
      (bindSlots budget ks rest { t.setSlot n x with wheel := bindWheel t.wheel n ps }).map fun (l, t) =>
        ((n, k.num) :: l, t)
    | _, _, _ => none

/-- Whether an entry of the handler table is free: it is not valid, and no HSET that has issued is still to land in it. -/
def Tile.entryFree (t : Tile) (n : Nat) : Bool :=
  !hentValid (t.hentOf n) && !t.tableEffects.any fun (_, e) => match e with | .hset m _ => m == n | _ => false

/-- Whether the handler table and baskets as they stand admit a channel entry of a kernel to be placed: no valid entry binds its channel
or names its basket, and no kernel owns that basket. -/
def Tile.admitsEntry (t : Tile) (c : W64) : Bool :=
  (t.entryFor (hentChan c)).isNone && !(t.basket (hentBasket c)).valid &&
    !(t.hent.any fun (_, w) => hentValid w && hentBasket w == hentBasket c)

/-- Whether the tile's handler table and baskets admit the channels of a kernel, as they stand and as they stand once what has issued
has landed, so that R51 holds of the table at all times (notes/assumptions/83.md). -/
def Tile.admits (t : Tile) (chans : List W64) : Bool :=
  decide (chans.length ≤ ((List.range 32).filter t.entryFree).length) &&
    chans.all fun c => t.admitsEntry c && t.coming.admitsEntry c

/-- The channel entries of a kernel written into the lowest free entries, with OWNER set and their state reset. -/
def Tile.addEntries (t : Tile) (owner : Nat) (chans : List W64) : Tile :=
  chans.foldl (fun t c =>
    match (List.range 32).find? t.entryFree with
    | some n => { t with hent := put n (c ||| BitVec.ofNat 64 (owner * 2 ^ 42)) t.hent, hste := erase n t.hste }
    | none => t) t

/-- SRAM that the kernels of a tile hold. -/
def Tile.sramTaken (t : Tile) : List (Nat × Nat) := t.kernels.map fun k => (k.sbase, k.sram)
def Tile.planesTaken (t : Tile) : List (Nat × Nat) := t.kernels.map fun k => (k.pbase, k.planes)

/-- The lowest-numbered slot of a binding. -/
def lowestSlot (l : List (Nat × Nat)) : Nat := (l.map (·.1)).foldl Nat.min 7

/-- A kernel bound to a tile: k gives its identity, resv the SRAM that saved kernels keep there. -/
def Tile.bind (t : Tile) (h : KHdr) (k : Kernel) (resv : List (Nat × Nat)) : Option Tile :=
  let accs := (List.range 4).filter fun a => !t.kernels.any fun q => q.accs.contains a
  if accs.length < h.accs || !t.admits h.chans then none
  else
    match lowestRun (t.sramTaken ++ resv) h.sram 0x200000, lowestRun t.planesTaken h.planes 0x80000,
        bindSlots h.budget h.slots t.freeSlots t with
    | some sb, some pb, some (l, t) =>
      let owner := lowestSlot l
      let k := { k with owner := owner, slots := l, useMask := h.useMask, sbase := sb, sram := h.sram, pbase := pb,
                        planes := h.planes, accs := accs.take h.accs, rings := h.rings, cfgOuts := bitsOf h.routes 16 5,
                        mains := (l.filter fun x => h.slots.any fun q => q.num == x.2 && !q.hslot).map (·.1) }
      let t := { t with kernels := t.kernels ++ [k], progress := erase owner t.progress }
      some ((l.foldl (fun t x => t.modSlot x.1 fun y => { y with kern := owner }) t).addEntries owner h.chans)
    | _, _, _ => none

/-- Whether a site is eligible apart from the tile's free resources (R375); temporary grounds do not count on an emptied
package: an ordered host test (R517), routing tables to be written anew (R510), a partition in reset. -/
def State.siteOk (s : State) (asp : Nat) (useMask : W64) (empty : Bool) (site : Nat) : Bool :=
  s.mg.svc.contains site && (useMask &&& ~~~(s.tile site).palette == 0) && s.siteAsp site == asp &&
    (empty || (s.mg.htest != some site && s.mg.prst != some asp &&
      !((s.mg.tables.filter fun n => !s.mg.rtsvc.contains n).any fun n => n / 256 == site / 256)))

/-- SRAM that saved kernels keep at a site while late commands of theirs are still to complete (R390). -/
def State.sramKept (s : State) (site : Nat) : List (Nat × Nat) :=
  (s.sched.rucks.filter fun r => r.site == site && decide (0 < r.late)).map fun r => (r.kern.sbase, r.kern.sram)

/-! ### Placement of a node's part (R376) -/

/-- The sites that an instance takes; die restricts it. -/
def chooseSites (r : NodeRec) (ok : Nat → Bool) (die : Option Nat) : Option (List Nat) :=
  let ok := fun n => ok n && die.all (· == n / 256)
  if r.rect then
    ((List.range 1024).map fun n =>
      if n % 16 + r.w ≤ 16 && n / 16 % 16 + r.h ≤ 16 then
        (List.range r.h).flatMap fun y => (List.range r.w).map fun x => n + 16 * y + x
      else []).find? fun l => !l.isEmpty && l.all ok
  else
    let l := ((List.range 1024).filter ok).take r.tiles
    if l.length = r.tiles then some l else none

/-- The identity of a kernel of a node. -/
def Kernel.ofNode (a : Launch) (node : Nat) (asp : Nat) (r : NodeRec) (x : Nat) (rank : Nat) : Kernel :=
  { Kernel.unbound with l := a.l, node := node, graph := a.graph, wid := r.wid a.sigma x, widths := r.widths,
                        exts := r.exts, rankIndex := rank, rankSize := r.perPkg * r.pkgs, pagepol := r.pagepol,
                        plen := r.plen, asp := asp }

/-- The instances of a node's part placed one after the other; aff keeps the die of each group placed. -/
def State.placeInstances (s : State) (a : Launch) (node : Nat) (r : NodeRec) (h : KHdr) (asp rank0 : Nat) (empty : Bool) :
    List (Nat × Nat) → List Nat → Option State
  | _, [] => some s
  | aff, x :: xs =>
    let group := x / 2 ^ (r.widths.take r.affLvl).foldl (· + ·) 0
    let die := if r.affSc = 1 then (aff.find? (·.1 == group)).map (·.2) else none
    let k := Kernel.ofNode a node asp r x
    let fits := fun n => s.siteOk asp h.useMask empty n && ((s.tile n).bind h (k 0) (s.sramKept n)).isSome
    match chooseSites r fits die with
    | none => none
    | some sites =>
      let s' := (sites.mapIdx fun i n => (i, n)).foldl (fun s (i, n) =>
        match (s.tile n).bind h (k (rank0 + i)) (s.sramKept n) with
        | some t => s.setTile n t
        | none => s) s
      State.placeInstances s' a node r h asp rank0 empty (aff ++ [(group, sites.headD 0 / 256)]) xs

/-- The package with no kernel placed. -/
def State.emptied (s : State) : State :=
  { s with tiles := s.tiles.map (fun (n, (t : Tile)) => (n, { Tile.reset with palette := t.palette })),
           sched := { s.sched with rucks := [] } }

/-- The packages that a node spans. -/
def State.spanned (s : State) (a : Launch) (r : NodeRec) : List Nat := (s.packages (s.graphHdr a.graph)).take r.pkgs

/-- The part of a node on this package placed, without being started; none where it fails. -/
def State.placePart (s : State) (a : Launch) (node : Nat) (empty : Bool) : Option State :=
  let r := s.nodeRec (s.graphHdr a.graph) node
  let asp := fld (getD 0 s.sched.schgr a.graph) 56 4
  let rank0 := r.perPkg * ((s.spanned a r).filter (· < s.pkg)).length
  if 7680 < r.instances * r.perPkg then none
  else State.placeInstances s a node r (s.kernelHdr r) asp rank0 empty [] (fieldValues r)

end Sys2Proof.Machine
end

