-- ==== Sys2Proof/Machine/Start.lean ====
section
/-!
DEFINITION. Rings and ring descriptors (R335, R336), custodians of vacated sites (R522), endpoints of circuits (R406), and the
start of a node's part (R378).
-/

namespace Sys2Proof.Machine

/-! ### Rings (R335, R336) -/

/-- The folded order: even places ascending, then odd places descending. -/
def folded (l : List Nat) : List Nat :=
  let rows := l.mapIdx fun i c => (i, c)
  (rows.filter (·.1 % 2 == 0)).map (·.2) ++ ((rows.filter (·.1 % 2 == 1)).map (·.2)).reverse

/-- The member after c on a ring, which returns to its first. -/
def nextOn (l : List Nat) (c : Nat) : Option Nat :=
  match l.findIdx? (· == c) with
  | some i => l[(i + 1) % l.length]?
  | none => none

/-- The least of some coordinates with equal c / d, for each such group, ascending. -/
def leasts (d : Nat) (l : List Nat) : List Nat :=
  l.filter fun c => l.all fun e => e / d != c / d || decide (c ≤ e)

/-- Dies in ring order. -/
def dieOrder : List Nat := [0, 1, 3, 2]

/-- The members of the package ring: the junctions of the die rings, dies in ring order. -/
def packageRing (coords : List Nat) : List Nat :=
  dieOrder.filterMap fun d => (leasts 256 coords).find? fun c => c / 256 % 4 == d

/-- The ring of level n (0 row, 1 die, 2 package, 3 pod) to which a tile of a region belongs; coords are the region's tiles on
this package, pods its pod ring members. -/
def ringOf (coords pods : List Nat) (n c : Nat) : List Nat :=
  match n with
  | 0 => folded (coords.filter fun e => e / 16 == c / 16)
  | 1 => folded ((leasts 16 coords).filter fun e => e / 256 == c / 256)
  | 2 => packageRing coords
  | _ => folded pods

/-- The words of a ring descriptor. -/
def ringWords (rings : Nat) (coords pods custs : List Nat) (c : Nat) : List W64 :=
  let next (n : Nat) : Option Nat := if bitOf rings n then nextOn (ringOf coords pods n c) c else none
  word64 [(8, rings), (0, maskOf 4 fun n => (next n).isSome)] ::
    ((List.range 4).map fun n => match next n with | some e => word64 [(63, 1), (0, e)] | none => 0) ++
    [BitVec.ofNat 64 (if bitOf rings 3 then pods.length else 1), 0, 0] ++
    (List.range 8).map fun k => match custs[k]? with | some e => word64 [(63, 1), (0, e)] | none => 0

/-- The tiles on this package of the region of a kernel, as ascending coordinates. -/
def State.regionCoords (s : State) (r : RegionId) : List Nat := (s.regionOn r).map fun (n, _) => s.coord n

/-- The pod ring of a region: its member on this package, and those that other packages have reported, ascending by
package. -/
def State.podRing (s : State) (k : Kernel) (pods : List (W64 × Nat)) : List Nat :=
  let own := (packageRing (s.regionCoords k.region)).head?.toList
  let all := own ++ ((pods.filter (·.1 == k.wid)).map (·.2)).filter fun c => coordPkg c != s.pkg
  all.foldl (fun l c => insSet c l) []

/-! ### Custodians (R522) -/

/-- The order of preference of a tile as the custodian of a vacated site of this package. -/
def custodianKey (v n : Nat) : Nat :=
  let dx := apart (n % 16) (v % 16)
  let dy := apart (n / 16 % 16) (v / 16 % 16)
  if n / 16 = v / 16 then 16 * dx + n % 16
  else if n / 256 = v / 256 then 0x1000 + 0x1000 * dy + 256 * dx + n % 256
  else 0x100000 + n

/-- The best of some tiles by a key. -/
def leastBy (key : Nat → Nat) : List Nat → Option Nat
  | [] => none
  | n :: l => some (l.foldl (fun m k => if key k < key m then k else m) n)

/-- The custodian of each vacated site: pairs of the tile and the site. -/
def custodians (tiles vacated : List Nat) : List (Nat × Nat) :=
  vacated.foldl (fun l v =>
    match leastBy (custodianKey v) (tiles.filter fun n => (l.filter (·.1 == n)).length < 8) with
    | some n => l ++ [(n, v)]
    | none => l) []

/-! ### Circuits (R406, R407) -/

/-- The lane groups whose local endpoint is a tile at its placement: the ring circuits to the neighbours in the folded order of the
packages that a node spans, where its kernel holds the pod ring, and the reduction edges to any of them. Which tile a reduction
edge ends at the spec does not say (notes/assumptions/97.md). DESIGN CHOICE -/
def State.endsAt (s : State) (pkgs : List Nat) (k : Kernel) : List Nat :=
  let ring := folded (pkgs.foldl (fun l p => insSet p l) [])
  let nbrs := (nextOn ring s.pkg).toList ++ (nextOn ring.reverse s.pkg).toList
  (List.range 144).filter fun n =>
    let w := s.lane n
    fld w 63 1 == 1 && fld w 28 12 == s.ownerOf k.asp && fld w 48 12 != s.pkg &&
      ((fld w 61 2 == 1 && bitOf k.rings 3 && nbrs.contains (fld w 48 12)) || (fld w 61 2 == 2 && pkgs.contains (fld w 48 12)))

/-- The circuits of a kernel on the tile that is its region's member of the pod ring end there. -/
def State.bindCircuits (s : State) (pkgs : List Nat) (site : Nat) (k : Kernel) : State :=
  if (packageRing (s.regionCoords k.region)).head? = some (s.coord site) then
    { s with mg := { s.mg with lgb := (s.endsAt pkgs k).foldl (fun l n =>
        put n (word64 [(22, fld (s.lane n) 22 42), (0, s.coord site)]) l) s.mg.lgb } }
  else s

/-- No circuit ends any longer at a tile of a region that is released. -/
def State.freeCircuits (s : State) (c : Nat) (k : Kernel) : State :=
  { s with mg := { s.mg with lgb := s.mg.lgb.map fun (n, w) =>
      (n, if fld w 61 2 != 0 && fld w 0 22 == c && fld w 28 12 == s.ownerOf k.asp then word64 [(22, fld w 22 42)] else w) } }

/-! ### Start (R378) -/

/-- Bytes written over a part of an allocation as the scheduler loads it. -/
def Tile.load (t : Tile) (a : Nat) (b : List Byte) : Tile :=
  { t with sram := setBytes t.sram a b, sramPoison := clearPoison 3 t.sramPoison a b.length }

/-- The SRAM and plane-store allocations of a kernel zero, and no older code word left to fetch. -/
def Tile.zeroAlloc (t : Tile) (k : Kernel) : Tile :=
  { t with sram := zeroRange t.sram k.sbase k.sram, sramPoison := clearPoison 3 t.sramPoison k.sbase k.sram,
           plane := zeroRange t.plane k.pbase k.planes, planePoison := clearPoison 3 t.planePoison k.pbase k.planes,
           fetch := t.fetch.filter fun (n, _) => decide (8 * n < k.sbase) || decide (k.sbase + k.sram ≤ 8 * n) }

/-- Granule marks from the keep and discard ranges (R322, R378). -/
def marksOf (h : KHdr) : Sparse Nat :=
  let l := h.keeps.foldl (fun l (a, n) => if n = 0 then l else (granules 6 a n).foldl (fun l g => put g 1 l) l) []
  h.discs.foldl (fun l (a, n) =>
    ((List.range ((a + n) / 64 - (a + 63) / 64)).map (· + (a + 63) / 64)).foldl (fun l g => put g 2 l) l) l

/-- The parameter bytes of a node. -/
def paramBytes (a : Launch) (r : NodeRec) : List Byte := (a.params.drop r.psrc).take r.plen

/-- The ring descriptor written at the end of an allocation. -/
def Tile.putRing (t : Tile) (k : Kernel) (l : List W64) : Tile :=
  if k.rings = 0 then t
  else t.load (k.sbase + k.sram - 256) (wordBytes l ++ List.replicate (256 - 8 * l.length) 0)

/-- A kernel loaded and started on its tile. -/
def Tile.startKernel (t : Tile) (cyc : Nat) (h : KHdr) (r : NodeRec) (params : List Byte) (k : Kernel) (ring : List W64) :
    Tile :=
  let t := ((t.zeroAlloc k).load k.sbase h.image).load (k.sbase + r.pdst) params
  let t := t.putRing k ring
  let t := k.slots.foldl (fun t (n, _) => t.modSlot n fun x => { x with state := .run }) t
  { t.modKernel k.owner fun k => { k with marks := marksOf h, started := true } with progress := put k.owner cyc t.progress }

/-- The kernels of a node on this package that have not started, with their sites. -/
def State.partOf (s : State) (l node : Nat) : List (Nat × Kernel) :=
  s.tiles.flatMap fun (n, (t : Tile)) => (t.kernels.filter (·.isOf l node)).map (n, ·)

/-- The ring descriptor of a kernel on a tile. -/
def State.descriptor (s : State) (site : Nat) (k : Kernel) (pods custs : List Nat) : List W64 :=
  ringWords k.rings (s.regionCoords k.region) pods custs (s.coord site)

/-- The circuits of a part that has just been placed (R406). -/
def State.bindPart (s : State) (a : Launch) (node : Nat) : State :=
  let pkgs := s.spanned a (s.nodeRec (s.graphHdr a.graph) node)
  (s.partOf a.l node).foldl (fun s (n, k) => s.bindCircuits pkgs n k) s

/-- The part of a node on this package starts; pods are the pod ring members of other packages, by instance. -/
def State.startPart (s : State) (a : Launch) (node : Nat) (pods : List (W64 × Nat)) : State :=
  let r := s.nodeRec (s.graphHdr a.graph) node
  let h := s.kernelHdr r
  let s0 := s
  (s.partOf a.l node).foldl (fun s (n, k) =>
    s.modTile n fun t => t.startKernel s.cyc h r (paramBytes a r) k (s0.descriptor n k (s0.podRing k pods) [])) s

end Sys2Proof.Machine
end

