-- ==== Sys2Proof/Machine/Rebind.lean ====
section
/-!
DEFINITION. Placing a saved node again (R391, R523): each tile at its saved site where that is eligible, else elsewhere, with
its slots, positions, grants and allocations as they were.
-/

namespace Sys2Proof.Machine

/-- The positions that the saved slots of a tile own. -/
def Ruck.positions (r : Ruck) (slot : Nat) : List Nat := (List.range 16).filter fun p => fld r.wheel (4 * p) 4 == slot

/-- Whether a tile has what a saved tile needs free. -/
def Tile.accommodates (t : Tile) (r : Ruck) (resv : List (Nat × Nat)) : Bool :=
  let free := t.freeSlots
  let open' := unbound t.wheel
  let chans := (r.hent.filter fun (_, w) => hentValid w).map (·.2)
  r.slots.all (fun (n, x) => free.contains n && (r.positions n).all open'.contains &&
    t.lanesTaken.all fun (b, c) => !overlaps x.base x.count b c) &&
    (t.sramTaken ++ resv).all (fun (b, m) => !overlaps r.kern.sbase (up4k r.kern.sram) b (up4k m)) &&
    t.planesTaken.all (fun (b, m) => !overlaps r.kern.pbase (up4k r.kern.planes) b (up4k m)) &&
    r.kern.accs.all (fun a => !t.kernels.any fun k => k.accs.contains a) &&
    r.hent.all (fun (n, _) => t.entryFree n) &&
    chans.all (fun w => t.admitsEntry w && t.coming.admitsEntry w) &&
    r.baskets.all (fun (n, _) => !(t.basket n).valid && !(t.coming.basket n).valid) && r.bobjs.all (fun (n, _) => !(getD BObj.reset t.bobjs n).valid) &&
    r.latches.all (fun (n, _) => !t.latchBusy n) &&
    decide (r.mons.length + t.mons.length ≤ 16) && decide (r.joins.length + t.joins.length ≤ 16) &&
    !t.kernels.any (·.inRegion r.kern.region)

/-- A saved tile bound again; its contents come with the restoration. -/
def Tile.rebind (t : Tile) (r : Ruck) : Tile :=
  let t := r.slots.foldl (fun t (n, x) =>
    { t.setSlot n { Slot.reset with hslot := x.hslot, base := x.base, count := x.count, budget := x.budget, kern := r.kern.owner }
      with wheel := bindWheel t.wheel n (r.positions n) }) t
  { t with kernels := t.kernels ++ [{ r.kern with started := false }],
           hent := r.hent.foldl (fun l (n, w) => put n w l) t.hent,
           hste := r.hent.foldl (fun l (n, _) => erase n l) t.hste,
           progress := erase r.kern.owner t.progress }

/-- SRAM kept at a site for saved kernels other than one. -/
def State.sramKeptBut (s : State) (site : Nat) (r : Ruck) : List (Nat × Nat) :=
  (s.sched.rucks.filter fun q => q.site == site && decide (0 < q.late) && !(q.l == r.l && q.node == r.node &&
    q.kern.wid == r.kern.wid && q.site == r.site)).map fun q => (q.kern.sbase, q.kern.sram)

/-- Whether a saved tile can be placed at a site. -/
def State.fitsRuck (s : State) (r : Ruck) (empty : Bool) (site : Nat) : Bool :=
  s.siteOk r.kern.asp r.kern.useMask empty site && (s.tile site).accommodates r (s.sramKeptBut site r)

/-- The rucksack with the place of its tile. -/
def Ruck.same (r q : Ruck) : Bool := r.l == q.l && r.node == q.node && r.site == q.site && r.kern.wid == q.kern.wid

def State.putRuck (s : State) (r : Ruck) (site : Nat) : State :=
  let s := s.modTile site (·.rebind r)
  let rucks := s.sched.rucks.map fun q => if q.same r then { q with dest := some site } else q
  { s with sched := { s.sched with rucks := rucks } }

/-- The site at which a rucksack's tile has been placed. -/
def Ruck.place (r : Ruck) : Nat := r.dest.getD r.site

/-- The rucksacks of a node. -/
def State.rucksOf (s : State) (l node : Nat) : List Ruck := s.sched.rucks.filter fun r => r.l == l && r.node == node

/-- The remaining tiles of a saved node placed at the lowest sites that allow them. -/
def State.moveRucks (s : State) (stay empty : Bool) : List Ruck → Option State
  | [] => some s
  | r :: rest =>
    if stay then none
    else
      match (List.range 1024).find? (s.fitsRuck r empty) with
      | some n => (s.putRuck r n).moveRucks stay empty rest
      | none => none

/-- The tiles of a node that have been placed away from the site where they were saved: saved and new coordinate (R523). -/
def State.movesOf (s : State) (l node : Nat) : List (Nat × Nat) :=
  ((s.rucksOf l node).filter fun r => r.place != r.site).map fun r => (s.coord r.site, s.coord r.place)

/-- A saved node's part placed again; none where it cannot be, or would move more than 64 tiles (R523). -/
def State.replacePart (s : State) (a : Launch) (node : Nat) (empty : Bool) : Option State :=
  let stay := (s.nodeRec (s.graphHdr a.graph) node).stay
  let (s, rest) := (s.rucksOf a.l node).foldl (fun (s, rest) r =>
    if s.fitsRuck r empty r.site then (s.putRuck r r.site, rest) else (s, rest ++ [r])) (s, ([] : List Ruck))
  if !empty && decide (64 < rest.length) then none else s.moveRucks stay empty rest

/-- The package emptied, with the rucksacks of one node kept. -/
def State.emptiedFor (s : State) (l node : Nat) : State :=
  { s.emptied with sched := { s.emptied.sched with rucks := s.rucksOf l node } }

end Sys2Proof.Machine
end

