-- ==== Sys2Proof/Machine/Launch.lean ====
section
/-!
DEFINITION. Triggers, launches, launch queues, selection rounds, completion (R64, R368 to R374, R380 to R382, R527), and the
notices between the packages of a spanned graph (R369).
-/

namespace Sys2Proof.Machine

/-- A node of a new launch. -/
def Node.fresh : Node :=
  { st := .waiting, insts := 0, faults := 0, ftile := 0, parts := [], vacated := [], pods := [], swept := 0,
    verdict := [] }

/-! ### Notices between schedulers (R369, R435) -/

/-- A scheduler's notice to another package leaves by the packet pool; one that has no way out is lost
(notes/assumptions/119.md). DESIGN CHOICE -/
def State.tell (s : State) (pkg : Nat) (o : Out) : State := if s.wayOut pkg then { s with outbox := s.outbox ++ [o] } else s

/-- A notice to each of some packages. -/
def State.tellAll (s : State) (pkgs : List Nat) (f : Nat → Out) : State := pkgs.foldl (fun s p => s.tell p (f p)) s

/-- Whether a notice of another package can come in: some lane group of the packet pool passes traffic (R435, R438). -/
def State.hears (s : State) : Bool := (List.range 144).any s.poolLive

/-! ### Completion records (R380, R381) -/

def State.launchOf (s : State) (l : Nat) : Option Launch := s.sched.launches.find? (·.l == l)

def State.modLaunch (s : State) (l : Nat) (f : Launch → Launch) : State :=
  { s with sched := { s.sched with launches := s.sched.launches.map fun a => if a.l == l then f a else a } }

def Launch.node (a : Launch) (n : Nat) : Option Node := (a.nodes.find? (·.1 == n)).map (·.2)

/-- A posted write of the scheduler through a host port, translated in an address space; none where it waits for a slice that is
being emptied (R128). One that cannot be made is lost and counted in ERRSTAT.HPF (notes/assumptions/19.md); one to another package
leaves as a write does (R413). -/
def State.postedWrite (s : State) (port asp va : Nat) (b : List Byte) : Option State :=
  let lost (s : State) : State := { s with mg := { s.mg with errHPF := (s.mg.errHPF + 1) % 2 ^ 16 } }
  match s.translate (portHost port) asp va .write with
  | (.wait, _) => none
  | (.ok p _ false, s) =>
    if destPackage s.pkg p != s.pkg then
      let w : EWrite := { src := s.coord 0, id := s.nextMsg, dst := p, off := 0, data := b.map (·, false), owner := s.ownerOf asp,
                          asp := asp, key := s.keyOf asp }
      some ({ s with nextMsg := s.nextMsg + 1, hostAcks := s.hostAcks ++ [(s.nextMsg, asp)] }.depart (destPackage s.pkg p) (.write w))
    else if s.mustWait (memAt p 0) b.length then none
    else if (s.memFail (memAt p 0) b.length).isSome then some (lost s)
    else some (s.writeMem (memAt p 0) asp (b.map (·, false)))
  | (_, s) => some (lost s)

/-- A posted write with the interrupt that follows it; none where it waits. -/
def State.tryPosted (s : State) (p : Posted) : Option State :=
  (s.postedWrite p.port p.asp p.va p.data).map fun s => s.msix p.port p.vec

/-- A record leaves, after those that still wait. -/
def State.postRecord (s : State) (p : Posted) : State :=
  let later : State := { s with sched := { s.sched with posted := s.sched.posted ++ [p] } }
  if s.sched.posted.isEmpty then (s.tryPosted p).getD later else later

/-- Records that have waited leave, up to the first that waits on. -/
def State.flushPosted (s : State) : List Posted → State
  | [] => s
  | p :: t =>
    match s.tryPosted p with
    | some u => u.flushPosted t
    | none => { s with sched := { s.sched with posted := p :: t } }

/-- A completion, save or launch record, written by the lead package with its interrupt. -/
def State.writeRecord (s : State) (a : Launch) (status node : Nat) (lrec : Bool) (faults inst ftile : Nat) : State :=
  if a.lead != s.pkg then s
  else
    let h := s.graphHdr a.graph
    let k := getD 0 s.sched.schgc a.graph
    let words := [word64 [(56, a.graph), (48, status), (40, node), (39, bitNat lrec), (0, a.l % 2 ^ 32)],
      BitVec.ofNat 64 (4 * s.cyc / 5), word64 [(32, faults), (0, inst)], BitVec.ofNat 64 (if faults = 0 then 0 else ftile)]
    let s := s.postRecord { port := h.port, asp := fld (getD 0 s.sched.schgr a.graph) 56 4, va := h.recBase + 32 * (k % h.recN),
                            data := wordBytes words, vec := h.vec }
    { s with sched := { s.sched with schgc := put a.graph ((k + 1) % 2 ^ 32) s.sched.schgc } }

/-- The record of a node. -/
def State.nodeRecord (s : State) (l node status : Nat) : State :=
  match s.launchOf l with
  | some a =>
    match a.node node with
    | some n => s.writeRecord a status node false n.faults n.insts n.ftile
    | none => s
  | none => s

/-! ### Queues (R361, R372, R373) -/

/-- Queue n with its nodes, whose first has become the head now. -/
def State.setQueue (s : State) (n : Nat) (l : List QNode) : State :=
  { s with sched := { s.sched with queues := putD [] n l s.sched.queues } }

/-- A ready node enters the tail of its queue. -/
def State.enqueue (s : State) (a : Launch) (node : Nat) : State :=
  let q := (s.nodeRec (s.graphHdr a.graph) node).queue
  ((s.setQueue q (getD [] s.sched.queues q ++ [⟨a.l, node, s.cyc⟩])).modNode a.l node fun n => { n with st := .ready }).askRound

/-- A node leaves its queue; the next one becomes the head. -/
def State.dequeue (s : State) (l node : Nat) : State :=
  let other (g : QNode) : Bool := !(g.l == l && g.node == node)
  let leave (q : List QNode) : List QNode :=
    match q with
    | h :: rest =>
      if other h then h :: rest.filter other
      else
        match rest with
        | g :: more => { g with headSince := s.cyc } :: more
        | [] => []
    | [] => []
  let queues := (s.sched.queues.map fun (k, q) => (k, leave q)).filter fun (_, q) => !q.isEmpty
  { s with sched := { s.sched with queues := queues } }

/-- The effective priority of a head (R373). -/
def State.effective (s : State) (q : Nat) (h : QNode) : Nat :=
  let c := getD QCfg.reset s.sched.qcfg q
  if c.age = 0 then c.prio else Nat.min 7 (c.prio + (s.cyc - h.headSince) / (1024 * c.age))

/-! ### The course of a launch (R372, R380 to R382) -/

/-- Whether every predecessor of a node has completed. -/
def State.depsMet (s : State) (a : Launch) (node : Nat) : Bool :=
  (s.edges (s.graphHdr a.graph)).all fun (p, c) => c != node || (a.node p).any (·.st == .done 0)

/-- Every node that is ready enters its queue, in ascending node index. -/
def State.wakeReady (s : State) (l : Nat) : State :=
  match s.launchOf l with
  | some a =>
    if a.lead != s.pkg || !a.await.isEmpty then s
    else a.nodes.foldl (fun s (n, x) => if x.st == .waiting && s.depsMet a n then s.enqueue a n else s) s
  | none => s

/-- Nodes that depend on one that did not complete receive status 5. -/
def State.failDependents (s : State) (l : Nat) : State :=
  match s.launchOf l with
  | some a =>
    let es := s.edges (s.graphHdr a.graph)
    (a.nodes.map (·.1)).foldl (fun s n =>
      match s.launchOf l with
      | some b =>
        let lost := es.any fun (p, c) => c == n && (b.node p).any fun x => match x.st with | .done k => k != 0 | _ => false
        if lost && (b.node n).any (·.st == .waiting) then
          (s.modNode l n fun x => { x with st := .done 5 }).nodeRecord l n 5
        else s
      | none => s) s
  | none => s

/-- The status of a node that has ended. -/
def NState.ended : NState → Option Nat
  | .done k => some k
  | _ => none

/-- Nothing of a launch that is no longer live is kept: its census, its collectives and their numbering, and what its tiles were
told of OLDEST. -/
def State.forget (s : State) (l : Nat) : State :=
  { s with
    sched := { s.sched with launches := s.sched.launches.filter (·.l != l), census := s.sched.census.filter (·.1.l != l),
                            colls := s.sched.colls.filter (·.l != l) },
    tiles := s.tiles.map fun (n, (t : Tile)) => (n, { t with oldest := erase l t.oldest, collSeq := erase l t.collSeq }) }

/-- A launch whose nodes have all ended gets its record and is no longer live. -/
def State.finishLaunch (s : State) (l : Nat) : State :=
  match s.launchOf l with
  | some a =>
    if a.nodes.all fun (_, n) => n.st.ended.isSome then
      let status := (a.nodes.filterMap fun (_, n) => n.st.ended).foldl Nat.max 0
      let faults := (a.nodes.map fun (_, n) => n.faults).foldl (· + ·) 0
      let s := s.writeRecord a status 0 true faults ((a.nodes.filter fun (_, n) => n.st == .done 0).length) (a.ftile.getD 0)
      let others := (s.packages (s.graphHdr a.graph)).filter (· != s.pkg)
      (s.forget l).tellAll (if a.lead = s.pkg then others else []) fun p => .release p l 256
    else s
  | none => s

def State.dropPreempt (s : State) (l node : Nat) : State :=
  let rest := s.sched.preempts.filter fun p => !(p.l == l && p.node == node)
  { s with sched := { s.sched with preempts := rest } }

/-- A pre-emption has come to an end; a request of the host has its result. -/
def State.endPreempt (s : State) (l node res : Nat) : State :=
  match s.preemptOf l node with
  | some p => if p.host then (s.dropPreempt l node).setResult l node res else s.dropPreempt l node
  | none => s

/-- A node has ended with a status: its record, and its successors. On a package that is not the lead, the lead is told. A request
that stands for it finds it not running (R394). -/
def State.nodeEnd (s : State) (l node status : Nat) : State :=
  match s.launchOf l with
  | none => s
  | some a =>
    let s := ((s.modNode l node fun n => { n with st := .done status }).dequeue l node).endPreempt l node 3
    if a.lead != s.pkg then
      match a.node node with
      | some n =>
        let r : PartReport := { l := l, node := node, pkg := s.pkg, ended := some status, instances := n.insts,
                                faults := n.faults, ftile := n.ftile, pods := [] }
        s.tell a.lead (.report a.lead r)
      | none => s
    else
      let note := (s.nodeRec (s.graphHdr a.graph) node).note
      let s := if note || status != 0 then s.nodeRecord l node status else s
      if status = 0 then s.wakeReady l else s.failDependents l

/-- A node has ended with a status, and with it the launch where it was the last. -/
def State.nodeDone (s : State) (l node status : Nat) : State :=
  let t := s.nodeEnd l node status
  if (s.launchOf l).any (·.lead == s.pkg) then (t.finishLaunch l).askRound else t

/-! ### Saved nodes (R383, R390, R468, R521) -/


/-- Once every part of a node is saved: its record, the result of a host request, and after a palette clear its queue. -/
def State.saveDone (s : State) (l node : Nat) : State :=
  match s.launchOf l, s.preemptOf l node with
  | some a, some p =>
    if (a.node node).any fun n => n.st == .saved && n.parts.isEmpty then
      if a.lead != s.pkg then
        let n := (a.node node).getD Node.fresh
        let r : PartReport := { l := l, node := node, pkg := s.pkg, ended := some 4, instances := n.insts,
                                faults := n.faults, ftile := n.ftile, pods := [] }
        ((s.dropPreempt l node).modNode l node fun n => { n with faults := 0, ftile := 0 }).tell a.lead (.report a.lead r)
      else
        let s := (s.nodeRecord l node 4).endPreempt l node (if p.compact then 2 else 1)
        (if p.palette then s.enqueue a node else s).askRound
    else s
  | _, _ => s

/-- A slot that was stopped goes on. -/
def Slot.unstop (x : Slot) : Slot := if x.state == .stopped then { x with state := x.resume } else x

/-- A node that was stopped in a cycle runs on; the cycles since then do not count as idle (R525). -/
def State.unstopNode (s : State) (l node since : Nat) : State :=
  let go (t : Tile) : Tile :=
    let ks := t.kernels.filter (·.isOf l node)
    let t := (ks.flatMap fun k => k.slots.map (·.1)).foldl (fun t n => t.modSlot n Slot.unstop) t
    { t with progress := t.progress.map fun (n, c) =>
        (n, if ks.any (·.owner == n) then Nat.max c (c + s.cyc - since) else c) }
  { s with tiles := s.tiles.map fun (n, t) => (n, go t) }

/-- The store of a spanned package has no room: the node runs on everywhere, or ends where the scheduler itself has asked (R384,
R520). -/
def State.noRoom (s : State) (l node : Nat) : State :=
  match s.preemptOf l node with
  | some p =>
    if p.ending then s
    else if p.palette then s.endNode l node
    else
      match s.launchOf l with
      | some a =>
        let others := (s.spanned a (s.nodeRec (s.graphHdr a.graph) node)).filter (· != s.pkg)
        let s := (if p.stopped then s.unstopNode l node p.since else s).endPreempt l node 6
        let w := word64 [(62, 3), (40, node), (0, l % 2 ^ 32)]
        s.tellAll others fun q => .preempt q a.lead w
      | none => s
  | none => s

/-! ### Hang records (R526, R527) -/

def State.hangRecord (s : State) (kind coord : Nat) (k : Kernel) (obj want have' : Nat) (detail : W64) : State :=
  { s with mg := { s.mg with
      hangLog := put (s.mg.hangRecs % 2048)
        [word64 [(56, kind), (48, k.node), (40, k.graph), (18, coord)], word64 [(32, k.l % 2 ^ 32), (0, obj)],
         word64 [(32, want), (0, have')], detail] s.mg.hangLog,
      hangRecs := (s.mg.hangRecs + 1) % 2 ^ 32 } }

/-- What is left over of a kernel on a tile at its completion. -/
def State.leftovers (s : State) (site : Nat) (k : Kernel) : State :=
  let t := s.tile site
  let s := (t.hent.filter fun (n, w) => hentValid w && hentOwner w == k.owner && decide (0 < (t.hsteOf n).pend)).foldl
    (fun s (n, w) => s.hangRecord 7 (s.coord site) k (hentChan w) 0 (t.hsteOf n).pend 0) s
  (t.joins.filter fun (_, j) => j.kern == k.owner).foldl (fun s (n, j) => s.hangRecord 8 (s.coord site) k n 2 1 j.word1) s

/-! ### Kernel completion (R64, R140, R459) -/


/-- Every fault of a kernel still undelivered, with the tile's slots. -/
def State.undelivered (s : State) (r : RegionId) : List FaultRec :=
  (s.regionOn r).flatMap fun (n, k) => k.slots.flatMap fun (m, _) => (s.slot n m).faults

/-- A recorded fault goes to the scheduler at kernel end. -/
def State.faultAtEnd (s : State) (f : FaultRec) : State :=
  let x := s.slot f.tr.site f.tr.slot
  ((s.modSlot f.tr.site f.tr.slot fun x => { x with faults := x.faults.erase f }).modTile f.tr.site fun t =>
    t.tagWithdraw f.tr.tag).schedFault f (fld x.tcause 63 1 == 1)

/-- No deferred fault waits for its trap (R460). -/
def Tile.undeferred (t : Tile) (k : Kernel) : Bool := k.slots.all fun (n, _) => (t.slot n).deferred.isEmpty

/-- Everything that a region holds on this package is released. -/
def State.releaseRegion (s : State) (r : RegionId) : State :=
  (s.regionOn r).foldl (fun s (n, k) => (s.freeCircuits (s.coord n) k).releaseKernel n k) s

/-- A kernel instance completes on this package: what is left over is recorded, its tokens are retired, and everything it
held is released; with the last instance the node's part is complete. A deferred fault that waits for its trap holds it up, and a
recorded one goes to the scheduler (R459, R460). Of a region that spans packages each package completes its own part, and the lead
counts them (R369). -/
def execKernelCompletion (r : RegionId) (s : State) : Res :=
  .next (
    let l := s.regionOn r
    let ready := l.all fun (n, k) => k.started && (s.tile n).mainsDone k && (s.tile n).handlersIdle k &&
      (s.tile n).undeferred k
    if l.isEmpty || !ready || !s.regionIdle r || s.nodeStopped r.l r.node then s
    else if !(s.undelivered r).isEmpty then (s.undelivered r).foldl State.faultAtEnd s
    else
      let s := l.foldl (fun s (n, k) => s.leftovers n k) s
      let s := s.releaseRegion r
      let s := { s with sched := { s.sched with census := s.sched.census.filter (·.1 != r) } }
      let s := s.modNode r.l r.node fun n => { n with insts := n.insts + 1 }
      match s.launchOf r.l with
      | some a =>
        match a.node r.node with
        | some n =>
          if n.insts = (s.nodeRec (s.graphHdr a.graph) r.node).instances && n.parts.isEmpty then s.nodeDone r.l r.node 0
          else s.askRound
        | none => s
      | none => s)

/-! ### Triggers and launches (R368 to R371) -/

/-- A write to SCHTRIG. -/
def execSchtrig (w : W64) (s : State) : Res :=
  .next (
    if s.mg.stage < 7 then s
    else if 32 ≤ s.sched.trigs.length then { s with sched := { s.sched with ovf := true } }
    else { s with sched := { s.sched with trigs := s.sched.trigs ++ [w], trigL := s.sched.trigL ++ [s.sched.trigCount],
                                          trigCount := (s.sched.trigCount + 1) % 2 ^ 32 } })

/-- The launch serial: the first from L mod 256 that no live launch holds, here or among the serials held that the other packages
of the graph's list report. -/
def State.serial (s : State) (l held : Nat) : Option Nat :=
  ((List.range 256).map fun k => (l + k) % 256).find? fun v => !s.sched.launches.any (·.sigma == v) && !bitOf held v

/-- The key of a launch: its number on its lead package, with that package. -/
def launchKey (lead l : Nat) : Nat := l % 2 ^ 32 + 2 ^ 32 * (1 + lead)

/-- The live launches beside the one at the head of the trigger queue: each counts from the acceptance of its trigger (R368;
notes/assumptions/98.md). DEDUCED -/
def State.liveBeside (s : State) : Nat := s.sched.launches.length + (s.sched.trigs.length - 1)

/-- The pending trigger at the head becomes a launch, waits, or is refused. Of a graph that lists other packages the event gives
the serials that live launches hold there, as bits, once each of them has fewer than 64 (notes/assumptions/1.md). -/
def execLaunch (held : Option Nat) (s : State) : Res :=
  .next (match s.sched.trigs, s.sched.trigL with
    | w :: ws, l :: ls =>
      let g := fld w 56 8
      let popped := { s with sched := { s.sched with trigs := ws, trigL := ls } }
      if s.graphSilent g then { popped with sched := { popped.sched with ref := true, badg := g } }
      else
        let h := s.graphHdr g
        let many := 1 < h.npkg && h.npkg ≤ 512
        match (if s.liveBeside < 64 then (if many then held else some 0).bind (s.serial l) else none) with
        | none => s
        | some v =>
          let ps := s.patches w
          let a : Launch := { l := launchKey s.pkg l, sigma := v, graph := g, lead := s.pkg, params := s.patched h ps,
                              nodes := (List.range h.nnode).map (·, Node.fresh), ftile := none, await := [] }
          if s.graphBad g || ps.any (patchBad h.paLen) then popped.writeRecord { a with nodes := [] } 1 0 true 0 0 0
          else
            let others := (s.packages h).filter (· != s.pkg)
            let n : Notice := { graph := g, l := l, serial := v, lead := s.pkg, shape := (h.nnode, h.nedge, h.npkg),
                                patches := ps }
            let s := { popped with sched := { popped.sched with launches := popped.sched.launches ++ [{ a with await := others }] } }
            (s.tellAll others fun p => .notice p n).wakeReady a.l
    | _, _ => s)

/-! ### Placing a head (R369, R374, R391) -/

/-- What comes of placing the head of a queue. -/
inductive Placed where
  | started (s : State)
  | asking (s : State)
  | blocked
  | never
  | refused

/-- The part of a node on this package placed, fresh or saved, with its circuits. -/
def State.placeOwn (s : State) (a : Launch) (node : Nat) (empty : Bool) : Option State :=
  (if (s.rucksOf a.l node).isEmpty then s.placePart a node empty else s.replacePart a node empty).map (·.bindPart a node)

/-- Whether the part could be placed on an emptied package. -/
def State.placeable (s : State) (a : Launch) (node : Nat) : Bool :=
  ((if (s.rucksOf a.l node).isEmpty then s.emptied else s.emptiedFor a.l node).placeOwn a node true).isSome

/-- The part on this package starts; one that was saved waits for its restoration. -/
def State.startOwn (s : State) (a : Launch) (node : Nat) (x : Peers) : State :=
  let s := s.modNode a.l node fun n => { n with st := .placed, pods := x.pods, moves := x.moves }
  if (s.rucksOf a.l node).isEmpty then s.startPart a node x.pods else s

/-- The other packages that a node spans. -/
def State.othersOf (s : State) (a : Launch) (node : Nat) : List Nat :=
  (s.spanned a (s.nodeRec (s.graphHdr a.graph) node)).filter (· != s.pkg)

/-- The other packages are asked to place their parts; one whose own part is blocked asks too, since no part may ever fit
elsewhere (R374). -/
def State.askParts (s : State) (a : Launch) (node : Nat) (verdict : List Nat) : State :=
  let others := s.othersOf a node
  (s.modNode a.l node fun n => { n with st := .placing, parts := others, pods := [], moves := [], verdict := verdict }).tellAll others
    fun p => .placePart p a.l node

def State.placeHead (s : State) (a : Launch) (node : Nat) : Placed :=
  if (s.rucksOf a.l node).isEmpty && s.headerBad (s.nodeRec (s.graphHdr a.graph) node) then .refused
  else
    let alone := (s.othersOf a node).isEmpty
    match s.placeOwn a node false with
    | none =>
      if !s.placeable a node then .never
      else if alone then .blocked
      else .asking (s.askParts a node [0])
    | some t =>
      if alone then
        .started (((t.modNode a.l node fun n => { n with parts := [] }).startOwn a node ⟨[], t.movesOf a.l node⟩).dequeue a.l node)
      else .asking (t.askParts a node [])

/-- The size of a queued node (R365). -/
def State.sizeOf (s : State) (h : QNode) : Nat :=
  match s.launchOf h.l with
  | some a => (s.nodeRec (s.graphHdr a.graph) h.node).size
  | none => 0

def State.head (s : State) (q : Nat) : Option QNode := (getD [] s.sched.queues q).head?

/-- LASTQ of an effective priority takes a queue. -/
def State.setLastq (s : State) (e q : Nat) : State := { s with sched := { s.sched with lastq := put e q s.sched.lastq } }

/-- Whether a further round has been asked for while one waits. -/
def State.again (s : State) : Bool := s.sched.round.any (·.again)

/-- A round comes to its end; one asked for meanwhile follows. -/
def State.endRound (s : State) : State :=
  let t := { s with sched := { s.sched with round := none } }
  if s.again then t.askRound else t

/-- The heads still to come of a round, with the size limit that a blocked head sets, under the queue registers as they stood when
it began (R361). -/
def State.runRound (s : State) (cfg : Sparse QCfg) (limit : Option Nat) : List (Nat × Nat) → State
  | [] => s.endRound
  | (q, e) :: rest =>
    match s.head q with
    | none => s.runRound cfg limit rest
    | some h =>
      if limit.any (· ≤ s.sizeOf h) then s.runRound cfg limit rest
      else
        match s.launchOf h.l with
        | none => (s.dequeue h.l h.node).runRound cfg limit rest
        | some a =>
          match s.placeHead a h.node with
          | .started t => (t.setLastq e q).runRound cfg limit rest
          | .asking t => { t with sched := { t.sched with round := some ⟨(q, e) :: rest, limit, cfg, t.again⟩ } }
          | .never => (s.nodeDone h.l h.node 2).runRound cfg limit rest
          | .refused => (s.nodeDone h.l h.node 1).runRound cfg limit rest
          | .blocked =>
            if (getD QCfg.reset cfg q).nobf then s.endRound
            else s.runRound cfg (if limit.isNone then some (s.sizeOf h) else limit) rest

/-- Whether a round waits for the parts of a node, the head of its queue. -/
def State.awaitsHead (s : State) (l node : Nat) : Bool :=
  match s.sched.round with
  | some ⟨(q, _) :: _, _, _, _⟩ => (s.head q).any fun h => h.l == l && h.node == node
  | _ => false

/-- A round that waits goes on with the heads behind the one that it waited for. -/
def State.skipHead (s : State) : State :=
  match s.sched.round with
  | some ⟨_ :: rest, limit, cfg, _⟩ => s.runRound cfg limit rest
  | _ => s

/-- A node ends; a round that waited for its parts goes on. -/
def State.endAwaited (s : State) (l node : Nat) (f : State → State) : State :=
  if s.awaitsHead l node then (f s).skipHead else f s

/-- The heads of the non-empty queues in the order of the round (R374). -/
def State.roundOrder (s : State) : List (Nat × Nat) :=
  let l := (List.range 64).filterMap fun q => (s.head q).map fun h => (q, s.effective q h)
  let key (x : Nat × Nat) : Nat := 64 * (7 - x.2) + (x.1 + 63 - getD 63 s.sched.lastq x.2) % 64
  l.mergeSort fun x y => decide (key x ≤ key y)

/-! ### Between packages (R369) -/

/-- A launch notice of another package. -/
def execLaunchNotice (n : Notice) (s : State) : Res :=
  .next (
    let h := s.graphHdr n.graph
    let ok := fld (getD 0 s.sched.schgr n.graph) 63 1 == 1 && (h.nnode, h.nedge, h.npkg) == n.shape
    let l := launchKey n.lead n.l
    let report : PartReport := { l := l, node := 256, pkg := s.pkg, ended := if ok then none else some 1, instances := 0,
                                 faults := 0, ftile := 0, pods := [] }
    let t := s.tell n.lead (.report n.lead report)
    if !s.hears then s
    else if ok && (s.launchOf l).isNone then
      { t with sched := { t.sched with launches := t.sched.launches ++
          [{ l := l, sigma := n.serial, graph := n.graph, lead := n.lead, params := s.patched h n.patches,
             nodes := (List.range h.nnode).map (·, Node.fresh), ftile := none, await := [] }] } }
    else t)

/-- The pod ring members of a node's instances on this package. -/
def State.ownPods (s : State) (l node : Nat) : List (W64 × Nat) :=
  ((s.partOf l node).map fun (_, k) => k).filterMap fun k =>
    (packageRing (s.regionCoords k.region)).head?.map fun c => (k.wid, c)

/-- The lead asks for the part of a node on this package. -/
def execPlacePartRequest (l node : Nat) (s : State) : Res :=
  .next (if !s.hears then s else match s.launchOf l with
    | none => s
    | some a =>
      let answer (s : State) (e : Option Nat) : State :=
        let r : PartReport := { l := l, node := node, pkg := s.pkg, ended := e, instances := 0, faults := 0, ftile := 0,
                                pods := s.ownPods l node, moves := s.movesOf l node }
        s.tell a.lead (.report a.lead r)
      if (s.rucksOf l node).isEmpty && s.headerBad (s.nodeRec (s.graphHdr a.graph) node) then answer s (some 1)
      else
        match s.placeOwn a node false with
        | none => answer s (some (if s.placeable a node then 0 else 2))
        | some t => answer (t.modNode l node fun n => { n with st := .placing }) none)

/-- A start notice: the part on this package starts. -/
def execStartNotice (l node : Nat) (peers : Peers) (s : State) : Res :=
  .next (if !s.hears then s else match s.launchOf l with
    | none => s
    | some a => if (a.node node).any (·.st == .placing) then s.startOwn a node peers else s)

/-- A part that has been placed and not started is released; a saved one stays saved. -/
def State.unplace (s : State) (l node : Nat) : State :=
  let s := (s.partOf l node).foldl (fun s (n, k) => (s.freeCircuits (s.coord n) k).releaseKernel n k) s
  let saved := !(s.rucksOf l node).isEmpty
  let s := s.modNode l node fun n => { n with st := if saved then .saved else .waiting }
  let rucks := s.sched.rucks.map fun r => if r.l == l && r.node == node then { r with dest := none } else r
  { s with sched := { s.sched with rucks := rucks } }

/-- A release notice: a part not started is released, a running one ends; node 256 tells that the launch is over. -/
def execReleaseNotice (l node : Nat) (s : State) : Res :=
  .next (
    if !s.hears then s
    else if node = 256 then s.forget l
    else match (s.launchOf l).bind (·.node node) with
      | some n =>
        match n.st with
        | .placing => s.unplace l node
        | .placed => s.endNode l node
        | _ => s
      | none => s)

/-- The lead ends a launch that a listed package has refused: status 1 for every node. -/
def State.refuseLaunch (s : State) (l : Nat) : State :=
  match s.launchOf l with
  | some a =>
    let s := s.modLaunch l fun a => { a with nodes := a.nodes.map fun (k, n) => (k, { n with st := .done 1 }) }
    (a.nodes.foldl (fun s (k, _) => s.nodeRecord l k 1) s).finishLaunch l
  | none => s

/-- What becomes of the round that waits, with the head whose parts have been answered for. -/
def State.resumeRound (s : State) (f : Round → Nat → Nat → List (Nat × Nat) → State) : State :=
  match s.sched.round with
  | some r =>
    match r.rest with
    | (q, e) :: rest => f r q e rest
    | [] => s
  | none => s

/-- Every spanned package has answered for its part of a head: it starts, or every part is released and it leaves its queue, or it
is blocked; and the round goes on. A part that can never be placed decides over one that is blocked (R369, R374), and one that a
partition reset has ended over both (R512). One that would move more than 64 tiles is blocked (R523). -/
def State.settleHead (s : State) (a : Launch) (node : Nat) (verdict : List Nat) (peers : Peers) : State :=
  let others := s.othersOf a node
  let all : Peers := ⟨peers.pods ++ s.ownPods a.l node, peers.moves ++ s.movesOf a.l node⟩
  if verdict.isEmpty && decide (all.moves.length ≤ 64) then
    let s := (s.modNode a.l node fun n => { n with parts := others }).startOwn a node all
    let s := (s.dequeue a.l node).tellAll others fun p => .start p a.l node all
    s.resumeRound fun r q e rest => (s.setLastq e q).runRound r.cfg r.limit rest
  else
    let s := (s.unplace a.l node).modNode a.l node fun n => { n with st := .ready, parts := [], verdict := [] }
    let s := s.tellAll others fun p => .release p a.l node
    s.resumeRound fun r q _ rest =>
      if verdict.contains 3 then (s.nodeDone a.l node 3).runRound r.cfg r.limit rest
      else if verdict.contains 1 then (s.nodeDone a.l node 1).runRound r.cfg r.limit rest
      else if verdict.contains 2 then (s.nodeDone a.l node 2).runRound r.cfg r.limit rest
      else if (getD QCfg.reset r.cfg q).nobf then s.endRound
      else s.runRound r.cfg (if r.limit.isNone then some (s.nodeRec (s.graphHdr a.graph) node).size else r.limit) rest

/-- The faults of a spanned package's part join those of the node (R369). -/
def State.addFaults (s : State) (r : PartReport) (left : List Nat) : State :=
  let s := s.modNode r.l r.node fun n =>
    { n with parts := left, faults := n.faults + r.faults, ftile := if n.faults = 0 then r.ftile else n.ftile }
  if 0 < r.faults then s.modLaunch r.l fun a => { a with ftile := some (a.ftile.getD r.ftile) } else s

/-- A report of a spanned package reaches the lead: the answer to its notice or its place request, or the end of its
part. -/
def execPartCompletionReport (r : PartReport) (s : State) : Res :=
  .next (if !s.hears then s else match s.launchOf r.l with
    | none => s
    | some a =>
      if a.lead != s.pkg then s
      else if r.node = 256 then
        match r.ended with
        | none => (s.modLaunch r.l fun a => { a with await := a.await.filter (· != r.pkg) }).wakeReady r.l
        | some _ => s.refuseLaunch r.l
      else
        match a.node r.node with
        | none => s
        | some n =>
          if !n.parts.contains r.pkg && !(n.st == .placing && r.ended == some 3) then s
          else
            let left := n.parts.filter (· != r.pkg)
            match n.st, r.ended with
            | .placing, e =>
              let verdict := n.verdict ++ e.toList
              let peers : Peers := if e.isNone then ⟨n.pods ++ r.pods, n.moves ++ r.moves⟩ else ⟨n.pods, n.moves⟩
              let s := s.modNode r.l r.node fun n =>
                { n with parts := left, pods := peers.pods, moves := peers.moves, verdict := verdict }
              if left.isEmpty then s.settleHead a r.node verdict peers else s
            | _, some 4 => (s.addFaults r left).saveDone r.l r.node
            | _, some 6 => s.noRoom r.l r.node
            | _, some c =>
              let s := s.addFaults r left
              if c = 3 then
                let s := if (s.partOf r.l r.node).isEmpty then s else s.endNode r.l r.node
                let s := s.tellAll left fun p => .release p r.l r.node
                if left.isEmpty && (s.partOf r.l r.node).isEmpty then s.nodeDone r.l r.node 3 else s
              else if c = 0 && left.isEmpty && (s.partOf r.l r.node).isEmpty &&
                  n.insts == (s.nodeRec (s.graphHdr a.graph) r.node).instances then s.nodeDone r.l r.node 0
              else s
            | _, none => s)

end Sys2Proof.Machine
end

