-- ==== Sys2Proof/Machine/Preempt.lean ====
section
/-!
DEFINITION. Selection rounds (R374, R520), pre-emption requests and the stop of a node (R383 to R385), and the save of its
tiles (R386, R388 to R390, R466, R468, R496).
-/

namespace Sys2Proof.Machine

/-! ### The rucksack store (R384, R388, R389) -/

/-- A multiple of 64 at least n. -/
def up64 (n : Nat) : Nat := (n + 63) / 64 * 64

/-- The bytes of a slot record. -/
def recordBytes (x : Slot) : Nat := 0x300 + 128 * x.vlen

/-- The most that tile state takes: 16 baskets, 16 join-table entries, 32 barrier objects, 16 monitors, 32 handler-table
entries and 4 latches. -/
def tileStateMax : Nat := 16 * (24 + 64) + 16 * 32 + 32 * 16 + 16 * 24 + 32 * 24 + 4 * 72

/-- The space that R384 reserves for a kernel's tile: header, slot records, accumulators, allocations, tile state, and 32 bytes
for each of 8 port entries, 128 queues of 16, 8 network commands, 4 collectives and 32 barrier waits. -/
def Tile.reserve (t : Tile) (k : Kernel) : Nat :=
  256 + (k.slots.map fun (n, _) => recordBytes (t.slot n)).foldl (· + ·) 0 + 16384 * k.accs.length + up64 k.sram + up64 k.planes +
    tileStateMax + 32 * (8 + 128 * 16 + 8 + 4 + 32)

/-- Runs of the rucksack store that are taken: address and length. -/
def State.storeTaken (s : State) : List (Nat × Nat) :=
  (s.sched.rucks.map fun r => (r.addr, nth r.offs 8 0)) ++ s.sched.preempts.flatMap fun p => p.resv.map fun (_, a, n) => (a, n)

/-- The lowest free run of n bytes of the store, as far as it lies in HBM (R31). -/
def State.storeRun (s : State) (taken : List (Nat × Nat)) (n : Nat) : Option Nat :=
  let base := 4096 * fld s.sched.rkb 12 27
  let top := Nat.min (base + 4096 * fld s.sched.rkl 0 32) (2 ^ 39)
  let ok (a : Nat) : Bool := decide (base ≤ a) && decide (a + n ≤ top) && taken.all fun (b, m) => !overlaps a n b m
  leastBy id ((base :: taken.map fun (b, m) => up64 (b + m)).filter ok)

/-- Space for some tiles, one after the other. -/
def State.reserveAll (s : State) : List (Nat × Kernel) → List (Nat × Nat × Nat) → Option (List (Nat × Nat × Nat))
  | [], done => some done
  | (site, k) :: rest, done =>
    let n := (s.tile site).reserve k
    match s.storeRun (s.storeTaken ++ done.map fun (_, a, m) => (a, m)) n with
    | some a => s.reserveAll rest (done ++ [(site, a, n)])
    | none => none

/-! ### Requests (R383, R384, R520) -/

/-- SCHPST while a request is in progress. -/
def State.setBusy (s : State) (l node : Nat) : State :=
  let w := word64 [(63, 1), (62, fld s.sched.schpst 62 1), (40, node), (0, l % 2 ^ 32)]
  { s with sched := { s.sched with schpst := w } }

/-- The pre-emption of a node changed. -/
def State.modPreempt (s : State) (l node : Nat) (f : Preempt → Preempt) : State :=
  let l := s.sched.preempts.map fun p => if p.l == l && p.node == node then f p else p
  { s with sched := { s.sched with preempts := l } }

/-- The lead passes a request on to the other packages that a node spans, and another package tells the lead. -/
def State.passOn (s : State) (a : Launch) (node : Nat) (w : W64) : State :=
  let others := if a.lead = s.pkg then (s.spanned a (s.nodeRec (s.graphHdr a.graph) node)).filter (· != s.pkg) else []
  s.tellAll others fun p => .preempt p a.lead w

/-- Whether a write of the host is discarded because another request is in progress: a full request replaces a compact one
that stands for the same node, and a withdrawal of it is taken (R383, R384; notes/assumptions/21.md). -/
def State.discards (s : State) (l node op : Nat) : Bool :=
  fld s.sched.schpst 63 1 == 1 &&
    !((op == 1 && (s.preemptOf l node).any fun p => p.compact && !p.stopped) ||
      (op == 3 && fld s.sched.schpst 40 8 == node && fld s.sched.schpst 0 32 == l % 2 ^ 32))

def State.overflowPre (s : State) : State :=
  { s with sched := { s.sched with schpst := s.sched.schpst ||| BitVec.ofNat 64 (2 ^ 62) } }

/-- A pre-emption that stands, met by a further request for its node: a full one makes it full; it has the marks of both (R384,
R520; notes/assumptions/21.md). -/
def Preempt.joined (p : Preempt) (compact own host : Bool) : Preempt :=
  let c := p.compact && (compact || p.stopped)
  { p with compact := c, due := if c then p.due else none, palette := p.palette || (own && !p.stopped), host := p.host || host }

/-- A request for a placed node: space is reserved and the pre-emption stands; without room RESULT is 6. own tells
that the scheduler made the request itself. -/
def State.request1 (s : State) (a : Launch) (node : Nat) (w : W64) (compact own : Bool) : State :=
  let lead := a.lead == s.pkg
  let host := !own && lead
  match s.preemptOf a.l node with
  | some p =>
    if p.ending then (if host then s.setResult a.l node 3 else s)
    else
      let s := s.modPreempt a.l node (·.joined compact own host)
      let s := if host then s.setBusy a.l node else s
      if p.compact && !compact then s.passOn a node w else s
  | none =>
    match s.reserveAll (s.partOf a.l node) [] with
    | none =>
      if own then s.endNode a.l node
      else if lead then s.setResult a.l node 6
      else
        let r : PartReport := { l := a.l, node := node, pkg := s.pkg, ended := some 6, instances := 0, faults := 0, ftile := 0,
                                pods := [] }
        s.tell a.lead (.report a.lead r)
    | some resv =>
      let tmo := fld w 48 13
      let p : Preempt := { l := a.l, node := node, compact := compact, conv := compact && fld w 61 1 == 1,
                           due := if compact && tmo != 0 then some (s.cyc + 1024 * tmo) else none, palette := own,
                           stopped := false, ending := false, host := host, resv := resv }
      let s := { s with sched := { s.sched with preempts := s.sched.preempts ++ [p] } }
      (if host then s.setBusy a.l node else s).passOn a node w

/-- The launch that a request names: a write of the host (lead none) one that this package leads, a request passed on by another
package one of the lead that comes with it. -/
def State.preKey (s : State) (lead : Option Nat) (w : W64) : Nat := launchKey (lead.getD s.pkg) (fld w 0 32)

/-- A write to SCHPRE with OP 1 or 2, or a request passed on by another package; OP 0 in a word that is passed on marks
a request that a scheduler made itself. -/
def State.schpre (s : State) (lead : Option Nat) (w : W64) (compact : Bool) : State :=
  let l := s.preKey lead w
  let node := fld w 40 8
  let host := lead.isNone
  if s.mg.stage < 7 || (!host && !s.hears) then s
  else if host && s.discards l node (if compact then 2 else 1) then s.overflowPre
  else
    match s.launchOf l with
    | none => if host then s.setResult l node 3 else s
    | some a =>
      if (a.node node).any (·.st == .placed) then s.request1 a node w compact (!host && fld w 62 2 == 0)
      else if host then s.setResult l node 3
      else s

def execSchpreFull (w : PreWord) (s : State) : Res := .next (s.schpre w.lead w.w false)
def execSchpreCompact (w : PreWord) (s : State) : Res := .next (s.schpre w.lead w.w true)

/-- A withdrawal takes effect until the markers are injected; a request of the scheduler itself goes on. One that the host writes
while a request for another node is in progress is discarded (R383). -/
def execSchpreWithdraw (x : PreWord) (s : State) : Res :=
  .next (
    let w := x.w
    let l := s.preKey x.lead w
    let node := fld w 40 8
    if s.mg.stage < 7 || (x.lead.isSome && !s.hears) then s
    else if x.lead.isNone && s.discards l node 3 then s.overflowPre
    else match s.launchOf l, s.preemptOf l node with
      | some a, some p =>
        if p.stopped || p.ending then s
        else if p.palette then
          (if p.host then (s.modPreempt l node fun p => { p with host := false }).setResult l node 4 else s)
        else (s.endPreempt l node 4).passOn a node w
      | _, _ => s)

/-- A write to SCHPRE with OP 0 asks for nothing; while a request is in progress it is discarded as any write is (R383). -/
def State.schpreNone (s : State) : State := if 7 ≤ s.mg.stage && fld s.sched.schpst 63 1 == 1 then s.overflowPre else s

/-- TMO of a standing compact request runs out (R384). -/
def execCompactTimeout (l node : Nat) (s : State) : Res :=
  .next (match s.preemptOf l node with
    | some p =>
      if p.compact && !p.stopped && p.due.any (· ≤ s.cyc) then
        if p.conv then s.modPreempt l node fun p => { p with compact := false, due := none } else s.endPreempt l node 5
      else s
    | none => s)

/-! ### Selection rounds (R374, R520) -/

/-- The placed nodes of this package that a tile out of service, or a palette that has lost a class they use, puts out of
place. -/
def State.misplaced (s : State) : List (Launch × Nat) :=
  s.sched.launches.flatMap fun a => (a.nodes.filter fun (n, x) => x.st == .placed &&
    (s.partOf a.l n).any fun (site, k) =>
      !s.mg.svc.contains site || k.useMask &&& ~~~(s.tile site).palette != 0).map fun (n, _) => (a, n)

/-- The scheduler pre-empts them, as full requests of its own. -/
def State.vacate (s : State) : State :=
  s.misplaced.foldl (fun s (a, n) =>
    let w := word64 [(40, n), (0, a.l % 2 ^ 32)]
    if (s.preemptOf a.l n).any fun p => p.stopped || p.ending || (p.palette && !p.compact) then s
    else if a.lead = s.pkg then s.request1 a n w false true
    else (s.request1 a n w false true).tell a.lead (.preempt a.lead a.lead w)) s

/-- A selection round; one asked for while another waits for other packages follows it. -/
def execSelectionRound (s : State) : Res :=
  .next (
    let s := s.vacate
    match s.sched.round with
    | some r => { s with sched := { s.sched with round := some { r with again := true } } }
    | none => s.runRound s.sched.qcfg none s.roundOrder)

/-! ### The stop (R385) -/

/-- Whether every main slot of a node has come to rest in PREP or DONE, and no handler runs. -/
def State.atRest (s : State) (l node : Nat) : Bool :=
  (s.partOf l node).all fun (site, k) =>
    let t := s.tile site
    s.othersRest k && t.handlersIdle k && k.mains.all fun n =>
      (t.slot n).state == .done || ((t.slot n).state == .asleep && (t.slot n).wake == some .prep)

/-- The slots of a node begin to stop, its hampers close, and the markers go out. A PHASE that completes in this cycle has done so
before (R394). A node whose tiles wait for their restoration is restored first. -/
def execPreemptionStop (l node : Nat) (s : State) : Res :=
  .next (match s.preemptOf l node with
    | some p =>
      let started := (s.partOf l node).all fun (_, k) => k.started
      if p.stopped || p.ending || !started || (p.compact && !s.atRest l node) then s
      else
        let s := s.completePhases
        let s := (s.stopNode l node).modPreempt l node fun p => { p with stopped := true, since := s.cyc }
        (s.partOf l node).foldl (fun s (site, k) =>
          s.modTile site fun t => t.closeWhere s.cyc rsPreempt (·.ofKern k.owner)) s
    | none => s)

/-! ### The save point (R386) -/

/-- Whether an instruction was issued by a kernel of a tile. -/
def Kernel.issued (k : Kernel) (site : Nat) (tr : Trace) : Bool := tr.site == site && tr.kern == k.owner && ofRegion k.region tr

/-- Whether an entry is a token send. -/
def QEntry.isSend (e : QEntry) : Bool :=
  match e.i with
  | .tsend .. => true
  | .tfwd .. => true
  | .tfork .. => true
  | _ => false

/-- Whether a barrier request has made its arrival and waits. -/
def RReq.waits (q : RReq) : Bool := q.gen.isSome && !q.stopped

/-- Whether the answer to the claim of a send is on its way inside the package. -/
def State.answering (s : State) (site id : Nat) : Bool :=
  s.wire.any fun f => match f.m with
    | .grant dst _ j _ _ => dst == s.coord site && j == id
    | _ => false

/-- Whether everything that came before the marker on the configured routes of a tile has been delivered: no whole packet and no
end of a stream waits in its local output (R385, R386). -/
def Box.markerPassed (b : Box) : Bool :=
  match b.active.bind (·.deliver) with
  | some (len, _, _) => decide (b.inbuf.length < 64 * len) && b.eos.isNone
  | none => true

/-- The first conditions of R386 for a kernel on a tile: its slots, queues, elements and requests, the sends that hold
a claim, and the markers on its configured routes. A deferred fault is trapped first (R460). Behind a CFGLD that a translation
fault has stopped no entry of the network command queue can be performed, an EOS or CFGLD no more than a send: they are saved with
it (R264, R496; notes/assumptions/108.md). DESIGN CHOICE -/
def State.tileReady (s : State) (site : Nat) (k : Kernel) : Bool :=
  let t := s.tile site
  let mine := k.issued site
  let quiet (x : Slot) : Bool :=
    (x.state == .stopped || x.state == .done || x.state == .empty) && x.pend.isEmpty && x.deferred.isEmpty
  k.slots.all (fun (n, _) => quiet (t.slot n)) && !t.accesses.any (fun a => mine a.tr) &&
    !t.elemsOpen (fun e => mine e.tr || e.merged.any mine) && !t.flushes.any (fun f => mine f.tr) &&
    !t.insQ.any (fun (_, i) => match i with | .flush _ _ tr => mine tr | .fence n => k.slots.any (·.1 == n) | _ => false) &&
    !t.arrayQ.any (fun e => mine e.tr) && !t.shardQ.any (fun e => mine e.tr) && !t.tokensOut.any (fun x => mine x.1.e.tr) && t.box.markerPassed &&
    t.netQ.all (fun e => !mine e.tr || e.isSend || t.netStopped) &&
    t.sends.all (fun x => !mine x.e.tr || !s.answering site x.id) &&
    t.remote.all (fun q => !mine q.req.tr || q.waits) &&
    t.baskets.all fun (_, b) => b.owner != k.owner || !b.valid || b.countOf .filling == 0

/-- The heads of engine queues that a kernel of a tile issued. -/
def State.headsOf (s : State) (site : Nat) (k : Kernel) : List ECmd :=
  s.engines.filterMap fun (_, q) => q.head?.filter fun c => k.issued site c.tr

/-- Whether every tile of a node meets the conditions; a node that ends also waits for its commands in progress, and one that is
saved for the writes of a stopped command that are not acknowledged. -/
def State.nodeReady (s : State) (l node : Nat) (ending : Bool) : Bool :=
  (s.partOf l node).all fun (site, k) => (ending || s.othersRest k) && s.tileReady site k &&
    (s.headsOf site k).all fun c => if ending then c.stopped else !c.stopped || c.acks.isEmpty

/-! ### Withdrawal of a kernel's queued work (R386, R496) -/

/-- The records of a stopped generator are withdrawn. -/
def State.withdrawRecord (s : State) (p : Gen → Bool) : State :=
  let s := { s with mg := { s.mg with xfWait := s.mg.xfWait.filter fun r => !p r.gen } }
  (s.mg.xfrec.filter fun (_, r) => p r.gen).foldl (fun s (n, _) => s.clearRecord n) s

/-- What a kernel has queued on its tile and its engines, in queue order: commands not started, untouched sends, single
branches, collectives and barrier waits, with the commands in progress. -/
structure Queued where
  cmds : List ECmd
  late : List ECmd
  sends : List QEntry
  branches : List Send
  colls : List CEntry
  waits : List RReq

/-- Whether the head of a queue is in progress, or has not started, as a free bit says; one that awaits acknowledgements is in
progress (R386). A stopped one starts again (R496). -/
def splitHeads (bits : List Bool) (heads : List ECmd) : List ECmd × List ECmd :=
  let (late, rest) := (heads.zip bits).partition fun (c, b) => !c.stopped && (b || c.ran)
  (late.map (·.1), rest.map (·.1))

/-- The queued work of a kernel on a tile. Each queue is saved in its order; among the engine queues, of which R393 says no order,
the lower number comes first, and the commands still in the engine port come last, so that a QFENCE can enter its queue again before
a command that it awaited (notes/assumptions/114.md). DESIGN CHOICE -/
def State.queued (s : State) (site : Nat) (k : Kernel) : Queued × State :=
  let t := s.tile site
  let mine := k.issued site
  let heads := s.headsOf site k
  let (bits, s) := s.drawBits heads.length
  let (late, _) := splitHeads bits heads
  let all := (s.engines.flatMap fun (_, q) => q.filter fun c => mine c.tr) ++ t.engPort.filter fun c => mine c.tr
  let open' := t.sends.filter fun x => mine x.e.tr
  let both (x : Send) : Bool := decide (x.e.branches.length ≤ (open'.filter (·.e == x.e)).length)
  ({ cmds := all.filter fun c => !late.any (·.id == c.id), late := late,
     sends := ((open'.filter both).map (·.e)).eraseDups ++ t.netQ.filter fun e => mine e.tr,
     branches := open'.filter fun x => !both x, colls := t.collQ.filter fun c => mine c.tr,
     waits := t.remote.filter fun q => mine q.req.tr }, s)

/-- The tags that queued work names. -/
def Queued.tags (q : Queued) : List Nat :=
  (q.cmds.filterMap (·.tr.tag)) ++ (q.late.filterMap (·.tr.tag)) ++ (q.sends.filterMap (·.tr.tag)) ++
    ((q.branches.map (·.e)).eraseDups.filterMap (·.tr.tag)) ++ (q.colls.filterMap (·.tr.tag)) ++
    q.waits.filterMap (·.req.tr.tag)

/-- The queued work of a kernel leaves the tile and the engine queues; commands in progress are late where they are kept. -/
def State.withdraw (s : State) (site : Nat) (k : Kernel) (q : Queued) : State :=
  let mine := k.issued site
  let gone (c : ECmd) : Bool := q.cmds.any (·.id == c.id)
  let stoppedEng := (s.engines.filterMap fun (n, l) => (l.head?.filter fun c => c.stopped && gone c).map fun _ => n)
  let s := s.withdrawRecord fun g => match g with
    | .eng e n => stoppedEng.contains (8 * e + n)
    | .net m => m == site && (s.tile site).netQ.head?.any fun e => mine e.tr
    | _ => false
  let engines := (s.engines.map fun (n, l) =>
    (n, (l.filter fun c => !gone c).map fun c => if q.late.any (·.id == c.id) then { c with late := true } else c)).filter
      fun (_, l) => !l.isEmpty
  let s := { s with engines := engines }
  let s := ((s.tile site).sends.filter fun x => mine x.e.tr).foldl (fun s x => s.giveBack x.dst (s.coord site) x.id) s
  s.modTile site fun t =>
    let t := { t with
      engPort := t.engPort.filter fun c => !mine c.tr,
      netStopped := t.netStopped && !t.netQ.head?.any fun e => mine e.tr,
      netQ := t.netQ.filter fun e => !mine e.tr,
      sends := t.sends.filter fun x => !mine x.e.tr,
      collQ := t.collQ.filter fun c => !mine c.tr,
      remote := t.remote.filter fun r => !mine r.req.tr }
    q.tags.foldl (fun t n => t.tagWithdraw (some n)) t

/-! ### Rucksacks (R388 to R390) -/

/-- The wake record of a saved slot: the wait kind, and the operands as issued; of SLEEP the cycles remaining. The monitors of the
tile and the base of the kernel's allocation give the operands of a WAITM. -/
def wakeRecord (mons : Sparse Mon) (sbase : Nat) (w : Option Wake) : List Byte :=
  let rec' (kind : Nat) (ws : List W64) : List Byte := BitVec.ofNat 8 kind :: List.replicate 7 0 ++ wordBytes ws
  let l := match w with
    | none => rec' 0 []
    | some (.time c) => rec' 1 [BitVec.ofNat 64 c]
    | some (.tags m any) => rec' 2 [m, BitVec.ofNat 64 (bitNat any)]
    | some (.bar h mem gen met) => rec' 3 [h, gen.getD 0, word64 [(1, bitNat met), (0, bitNat mem)]]
    | some (.mon m met) =>
      match mons.find? (·.1 == m) with
      | some (_, x) => rec' 4 [BitVec.ofNat 64 (8 * x.word - sbase), x.val, word64 [(16, x.cond.code), (8, bitNat met), (0, m)]]
      | none => rec' 4 [0, 0, word64 [(8, bitNat met), (0, m)]]
    | some (.phase met) => rec' 5 [BitVec.ofNat 64 (bitNat met)]
    | some (.fence k sc _) => rec' 6 [word64 [(8, k.code), (0, sc.code)]]
    | some (.code cwb _) => rec' 7 [BitVec.ofNat 64 (bitNat cwb)]
    | some (.swap met) => rec' 8 [BitVec.ofNat 64 (bitNat met)]
    | some (.bkaw k d) => rec' 9 [word64 [(8, d.toNat), (0, k)]]
    | some .prep => rec' 10 []
  l ++ List.replicate (32 - l.length) 0

/-- STATE of a slot status word: the state to resume. -/
def Slot.saved (x : Slot) : SlotState := if x.state == .stopped then x.resume else x.state

/-- A slot as it is saved: with the state to resume, SLEEP with the cycles remaining, and awake where its PHASE has completed
(R389, R394). -/
def Slot.forSave (x : Slot) (cyc : Nat) : Slot :=
  match x.wake with
  | some (.phase true) =>
    { x with state := if x.wakeHold = 0 then .run else .held, hold := x.wakeHold, wakeHold := 0, wake := none }
  | some (.time c) => { x with state := x.saved, wake := some (.time (c - cyc)) }
  | _ => { x with state := x.saved }

/-- A slot record of a saved slot; of one that sleeps the remaining hold is that of its wait. -/
def slotRecord (mons : Sparse Mon) (sbase : Nat) (x : Slot) : List Byte :=
  let status := word64 [(32, if x.wake.isSome then x.wakeHold else x.hold), (16, bitNat (x.hnd.any (·.held))), (14, (x.hnd.map (·.latch)).getD 0), (13, bitNat x.hnd.isSome),
    (8, (x.hnd.map (·.entry)).getD 0), (4, fld x.tcause 63 1), (3, bitNat x.hslot), (0, x.state.code)]
  wordBytes [BitVec.ofNat 64 x.pc, status] ++ wakeRecord mons sbase x.wake ++
    wordBytes [x.hcfg, x.tvec, x.tscr, x.tepc, x.tcause, x.tval,
      BitVec.ofNat 64 (maskOf 8 fun n => n != 0 && getD false x.p n), 0] ++
    ((List.range 7).flatMap fun n => leBytes 16 (getD 0 x.m (n + 1))) ++ List.replicate 32 0 ++
    ((List.range 64).flatMap fun n => leBytes 8 (getD 0 x.s n).toNat) ++
    (List.range 32).flatMap fun n => (List.range x.vlen).flatMap fun i => leBytes 4 (getD 0 x.v (128 * n + i)).toNat

/-- The tile-state section; its layout is the model's (notes/assumptions/22.md). -/
def Ruck.tileState (r : Ruck) : List Byte :=
  (r.baskets.flatMap fun (n, b) =>
      wordBytes [BitVec.ofNat 64 n, b.word, 0] ++ leBytes 64 ((List.range 256).foldl (fun x i =>
        x + (match b.stateOf i with | .claimed => 1 | .ready => 2 | .held => 3 | _ => 0) * 4 ^ i) 0)) ++
    (r.joins.flatMap fun j => wordBytes [j.word1, word64 [(48, j.off), (32, j.slot), (24, j.basket), (1, bitNat j.first)],
      BitVec.ofNat 64 j.tokid, word64 [(32, j.path), (0, j.depth)]]) ++
    (r.bobjs.flatMap fun (n, b) => wordBytes [BitVec.ofNat 64 n, b.word]) ++
    (r.mons.flatMap fun (n, m) => wordBytes [BitVec.ofNat 64 n, m.status, m.val]) ++
    (r.hent.flatMap fun (n, w) => wordBytes [BitVec.ofNat 64 n, w, (getD HState.reset r.hste n).word]) ++
    r.latches.flatMap fun (n, l) => wordBytes (BitVec.ofNat 64 n :: l)

/-- A 32-byte descriptor of queued work: its word and its operands as issued. -/
def descriptorOf (tr : Trace) (a b c : W64) : List Byte := wordBytes [tr.iw, a, b, c]

/-- The descriptor of a deferred send; the basket slot of a latch stands for it, and above it the branch where only one is still
to send. -/
def sendDescriptor (e : QEntry) (branch : Option Bool) : List Byte :=
  let op1 := match e.bslot with
    | some (n, i) => word64 [(63, bitNat branch.isSome), (62, bitNat (branch.getD false)), (16, n), (0, i)]
    | none => e.tr.op1
  descriptorOf e.tr e.tr.opd op1 e.tr.op2

/-- Bytes filled up with zeros to a multiple of 64. -/
def padded (l : List Byte) : List Byte := l ++ List.replicate (up64 l.length - l.length) 0

/-- The bytes of a tile's allocation, accumulators and slots as sections of a rucksack, with their poison. -/
def Ruck.sections (r : Ruck) (t : Tile) : List (List PByte) :=
  let clean (l : List Byte) : List PByte := (padded l).map (·, false)
  let accs := r.kern.accs.flatMap fun a => (List.range 4096).flatMap fun i =>
    (leBytes 4 (getD 0 t.acc (4096 * a + i)).toNat).map (·, inSet (4096 * a + i) t.accPoison)
  let map := leBytes (r.kern.sram / 256 + 1) ((List.range ((r.kern.sram + 63) / 64)).foldl (fun x g => x + getD 0 r.kern.marks g * 4 ^ g) 0)
  let sends := (r.sends.map fun e => sendDescriptor e none) ++ (r.branches.map fun x => sendDescriptor x.e x.branch) ++
    (r.colls.map fun c => descriptorOf c.tr c.tr.opd (word64 [(32, c.index), (0, fld c.tr.op1 0 32)]) c.tr.op2) ++
    r.waits.map fun q => descriptorOf q.req.tr q.req.addr (q.gen.getD 0) 0
  [clean (r.slots.flatMap fun (_, x) => slotRecord r.mons r.kern.sbase x), accs, clean map,
   r.granules.flatMap fun g => t.getBytes (r.kern.sbase + 64 * g) 64,
   if r.compact then [] else bytesWith t.plane 3 t.planePoison r.kern.pbase r.kern.planes, clean r.tileState,
   clean (r.cmds.flatMap fun c => descriptorOf c.tr c.tr.opd c.tr.op1 c.tr.op2),
   clean sends.flatten]

/-- The offsets of sections one after the other, from 0x100, with the length last. -/
def sectionOffsets (l : List (List PByte)) : List Nat :=
  (l.foldl (fun (a : List Nat × Nat) x => (a.1 ++ [a.2], a.2 + up64 x.length)) ([], 256)) |> fun a => a.1 ++ [a.2]

/-- The header of a rucksack. -/
def Ruck.header (r : Ruck) (coord : Nat) : List Byte :=
  let k := r.kern
  let name := [0x52, 0x55, 0x43, 0x4B, 0x53, 0x41, 0x43, 0x4B]
  let h := name ++ [if r.compact then 2 else 1, 1] ++ leBytes 2 r.slots.length ++ leBytes 4 (nth r.offs 8 0) ++
    wordBytes [k.wid, word64 [(32, k.rankSize), (0, k.rankIndex)]] ++ leBytes 4 k.phno ++ leBytes 4 k.l ++
    [BitVec.ofNat 8 k.node, BitVec.ofNat 8 k.graph, 0, 0] ++ leBytes 4 coord ++ leBytes 2 (k.sbase / 4096) ++
    leBytes 2 (k.pbase / 4096) ++ leBytes 4 0 ++ wordBytes [r.tagSave] ++
    ((List.range 64).map fun t => BitVec.ofNat 8 (getD 0 r.pendSave t)) ++ leBytes 4 r.late ++
    leBytes 4 (r.sends.length + r.branches.length) ++ leBytes 4 r.cmds.length ++ leBytes 4 r.colls.length ++
    ((List.range 8).flatMap fun n => leBytes 4 (nth r.offs n 0)) ++ wordBytes [k.tagUse] ++ leBytes 4 r.waits.length
  h ++ List.replicate (256 - h.length) 0

/-- The tile state of a kernel and its queued work, as a rucksack without its place in the store; since is the cycle in which its
slots began to stop, up to which it has stood idle since its latest progress (R525). -/
def Tile.ruck (t : Tile) (site : Nat) (k : Kernel) (compact : Bool) (addr cyc since : Nat) (q : Queued) : Ruck :=
  let slots := k.slots.map fun (n, _) => (n, (t.slot n).forSave cyc)
  let hent := t.hent.filter fun (_, w) => hentValid w && hentOwner w == k.owner
  let chans := hent.map fun (_, w) => hentChan w
  { l := k.l, node := k.node, site := site, compact := compact, addr := addr, offs := [], kern := k,
    slots := slots,
    tagSave := t.tags &&& k.tagUse,
    pendSave := q.tags.foldl (fun l n => put n (getD 0 l n + 1) l) [],
    late := q.late.length,
    baskets := t.baskets.filter fun (_, b) => b.valid && b.owner == k.owner,
    joins := (t.joins.filter fun (_, j) => j.kern == k.owner).map (·.2),
    bobjs := t.bobjs.filter fun (_, b) => b.init == some k.region,
    mons := t.mons.filter fun (_, m) => k.slots.any (·.1 == m.slot),
    hent := hent, hste := t.hste.filter fun (n, _) => hent.any (·.1 == n),
    arrivals := t.arrivals.filter fun a => chans.contains a.chan || a.entry.any fun n => hent.any (·.1 == n),
    latches := t.latches.filter fun (n, _) => slots.any fun (_, x) => x.hnd.any fun h => h.held && h.latch == n,
    cmds := q.cmds, sends := q.sends, branches := q.branches, colls := q.colls, waits := q.waits, reloc := t.reloc,
    collSeq := getD [] t.collSeq k.l,
    wheel := t.wheel, dest := none, idle := since - getD 0 t.progress k.owner }

/-- The barrier objects that a kernel's tile has initialised on tiles where its region holds no kernel, by tile and number. -/
def State.farMade (s : State) (site : Nat) (k : Kernel) : Sparse BObj :=
  (s.farObjects k.region).flatMap fun m => ((s.tile m).bobjs.filter fun (_, b) => b.init == some k.region && b.maker == site).map
    fun (n, b) => (32 * (m + 1) + n, b)

/-- A kernel's part of a tile is saved and released. R387 gives a vault controller 8 save blocks and does not say what a ninth late
rucksack of one site does: the model keeps a block for each (notes/assumptions/113.md). DESIGN CHOICE -/
def State.saveTile (s : State) (compact : Bool) (site : Nat) (k : Kernel) : State :=
  let (q, s) := s.queued site k
  let resv := ((s.preemptOf k.l k.node).map (·.resv)).getD []
  let addr := ((resv.find? fun r => r.1 == site).map (·.2.1)).getD 0
  let since := ((s.preemptOf k.l k.node).map (·.since)).getD s.cyc
  let r := (s.tile site).ruck site k compact addr s.cyc since q
  let r := { r with bobjs := r.bobjs ++ s.farMade site k }
  let r := { r with offs := sectionOffsets (r.sections (s.tile site)) }
  let parts := ((r.header (s.coord site)).map (·, false)) :: r.sections (s.tile site)
  let s := (parts.zip (0 :: r.offs)).foldl (fun s (b, o) => s.writeMem (.hbm (addr + o)) k.asp b) s
  let s := ((s.withdraw site k q).freeCircuits (s.coord site) k).releaseKernel site k
  let s := s.modPreempt k.l k.node fun p => { p with resv := p.resv.filter fun r => !(r.1 == site && r.2.1 == addr) }
  let rucks := (s.sched.rucks.filter fun o => !(o.same r)) ++ [r]
  ({ s with sched := { s.sched with rucks := rucks } }).modNode k.l k.node fun n => { n with vacated := insSet site n.vacated }

/-- A kernel's part of a tile is released with nothing saved (R466). -/
def State.dropTile (s : State) (site : Nat) (k : Kernel) : State :=
  let (q, s) := s.queued site k
  let q := { q with cmds := q.cmds ++ q.late, late := [] }
  (((s.withdraw site k q).freeCircuits (s.coord site) k)).releaseKernel site k

/-- The undelivered faults of a node on this package, the deferred ones among them. -/
def State.nodeFaults (s : State) (l node : Nat) : List FaultRec :=
  (s.partOf l node).flatMap fun (site, k) => k.slots.flatMap fun (n, _) =>
    (s.slot site n).faults ++ (s.slot site n).deferred.map (·.2)

/-- A deferred fault goes to the scheduler. -/
def State.dropDeferred (s : State) (f : FaultRec) : State :=
  s.modSlot f.tr.site f.tr.slot fun x => { x with deferred := x.deferred.filter (·.2 != f) }

/-- Strays that the boxes of a node's tiles hold are discarded at the save, each with its fault (R531). -/
def State.dropStrays (s : State) (l node : Nat) : State :=
  (s.partOf l node).foldl (fun s (site, _) =>
    if (s.tile site).box.strays.isEmpty then s
    else (s.modBox site fun b => { b with strays := [] }).swapFault site 0x0D false) s

/-- A node that ends holds nothing any longer: it ends with status 3, or tells the packages of its other parts. One that was saved
waits for its late commands. -/
def State.finishEnding (s : State) (l node : Nat) : State :=
  if (s.sched.rucks.any fun r => r.l == l && r.node == node && decide (0 < r.late)) then s
  else
    let s := s.dropPreempt l node
    let rucks := s.sched.rucks.filter fun r => !(r.l == l && r.node == node)
    let s := { s with sched := { s.sched with rucks := rucks, census := s.sched.census.filter fun c =>
      !(c.1.l == l && c.1.node == node) } }
    match (s.launchOf l).bind (·.node node) with
    | some n =>
      if n.parts.isEmpty then s.endAwaited l node (·.nodeDone l node 3)
      else s.tellAll n.parts fun q => .release q l node
    | none => s

/-- Whether a save at a site waits: the space reserved for it lies in a slice that is being emptied (R128). -/
def State.saveWaits (s : State) (p : Preempt) (site : Nat) : Bool :=
  p.resv.any fun (n, a, len) => n == site && s.mustWait (.hbm a) len

/-- The tiles of a node at a site are saved once every tile of the node meets the conditions; a node that ends is
released. A node with an undelivered fault is not saved: its faults go to the scheduler (R468). -/
def execSavePoint (l node site : Nat) (s : State) : Res :=
  .next (match s.preemptOf l node with
    | some p =>
      let here := (s.partOf l node).filter (·.1 == site)
      let s := if p.stopped && !p.ending && s.nodeReady l node false then s.dropStrays l node else s
      if p.ending && (s.partOf l node).isEmpty then s.finishEnding l node
      else if !p.stopped || here.isEmpty || !s.nodeReady l node p.ending then s
      else if p.ending then
        let s := here.foldl (fun s (n, k) => s.dropTile n k) s
        if (s.partOf l node).isEmpty then s.finishEnding l node else s
      else if !(s.nodeFaults l node).isEmpty then
        (s.nodeFaults l node).foldl (fun s f => (s.dropDeferred f).faultAtEnd f) s
      else if s.saveWaits p site then s
      else
        let s := here.foldl (fun s (n, k) => s.saveTile p.compact n k) s
        if (s.partOf l node).isEmpty then (s.modNode l node fun n => { n with st := .saved }).saveDone l node else s
    | none => s)

end Sys2Proof.Machine
end

