-- ==== Sys2Proof/Machine/Restore.lean ====
section
/-!
DEFINITION. Resumption of a saved node: SCHRES (R391), and the restoration of its tiles with custodians, rings, relocation
pairs and re-entered work (R387, R391 to R393, R522, R523, R536).
-/

namespace Sys2Proof.Machine

/-- A write to SCHRES. -/
def execSchres (w : W64) (s : State) : Res :=
  .next (
    let l := launchKey s.pkg (fld w 0 32)
    let node := fld w 40 8
    if s.mg.stage < 7 then s
    else
      let saved := (s.launchOf l).any fun a => a.lead == s.pkg && (s.preemptOf l node).isNone &&
        (a.node node).any (·.st == .saved)
      match saved, s.launchOf l with
      | true, some a => (s.enqueue a node)
      | _, _ =>
        let st := word64 [(62, fld s.sched.schpst 62 2), (56, 3), (40, node), (0, fld w 0 32)]
        { s with sched := { s.sched with schpst := st } })

/-! ### Contents (R392) -/

/-- The image bytes, except into granules marked discardable. -/
def Tile.loadImage (t : Tile) (k : Kernel) (image : List Byte) : Tile :=
  (split64 0 image).foldl (fun t (a, b) => if getD 0 k.marks (a / 64) = 2 then t else t.load (k.sbase + a) b) t

/-- Bytes read back from the store with the poison they read with; restoreTile counts the lines whose tag fails. -/
def State.storeRead (s : State) (r : Ruck) (o n : Nat) : List PByte := (s.readMem (.hbm (r.addr + o)) r.kern.asp n []).1

/-- Bytes with their poison laid over SRAM or the plane store by the scheduler. -/
def Tile.loadWith (t : Tile) (a : Nat) (b : List PByte) : Tile :=
  { t with sram := setBytes t.sram a (b.map (·.1)), sramPoison := poisonAfter 3 t.sramPoison a b }
def Tile.loadPlane (t : Tile) (a : Nat) (b : List PByte) : Tile :=
  { t with plane := setBytes t.plane a (b.map (·.1)), planePoison := poisonAfter 3 t.planePoison a b }

/-- The accumulators of a kernel, read back in order. -/
def State.loadAccs (s : State) (r : Ruck) (t : Tile) : Tile :=
  (r.kern.accs.zip (List.range r.kern.accs.length)).foldl (fun t (a, n) =>
    let b := s.storeRead r (nth r.offs 1 0 + 16384 * n) 16384
    (List.range 4096).foldl (fun t i =>
      let e := (b.drop (4 * i)).take 4
      { t with acc := putD 0 (4096 * a + i) (BitVec.ofNat 32 (leNat (e.map (·.1)))) t.acc,
               accPoison := if anyBad e then insSet (4096 * a + i) t.accPoison else delSet (4096 * a + i) t.accPoison }) t) t

/-- The allocations of a saved tile at its new place: zeros, image, parameters, saved granules and plane data. -/
def State.loadSaved (s : State) (r : Ruck) (h : KHdr) (pdst : Nat) (params : List Byte) (t : Tile) : Tile :=
  let k := r.kern
  let t := ((t.zeroAlloc k).loadImage k h.image).load (k.sbase + pdst) params
  let t := (r.granules.zip (List.range r.granules.length)).foldl (fun t (g, n) =>
    t.loadWith (k.sbase + 64 * g) (s.storeRead r (nth r.offs 3 0 + 64 * n) 64)) t
  let t := if r.compact then t else t.loadPlane k.pbase (s.storeRead r (nth r.offs 4 0) k.planes)
  s.loadAccs r t

/-! ### Registers and tile state (R392, R393) -/

/-- The lowest free monitors for those of a saved tile: old and new number. -/
def Tile.monPlaces (t : Tile) (r : Ruck) : List (Nat × Nat) :=
  (r.mons.map (·.1)).zip ((List.range 16).filter fun n => !t.mons.any (·.1 == n))

/-- The wake condition of a slot as it resumes. -/
def resumedWake (cyc : Nat) (places : List (Nat × Nat)) (w : Wake) : Wake :=
  match w with
  | .time c => .time (cyc + c)
  | .fence k sc _ => .fence k sc 0
  | .code cwb _ => .code cwb 0
  | .mon m met => .mon (((places.find? (·.1 == m)).map (·.2)).getD m) met
  | w => w

/-- A trace at the tile's new place. -/
def movedTo (site : Nat) (tr : Trace) : Trace := { tr with site := site }

/-- A saved slot as it resumes at a site. A PC past the last word of the allocation stays one that the last word has passed on to
(R477). -/
def Slot.resumed (x : Slot) (site cyc : Nat) (places : List (Nat × Nat)) : Slot :=
  { x with wake := x.wake.map (resumedWake cyc places), lastTr := x.lastTr.map (movedTo site), ahead := [] }

/-- The tags of TAGUSE restored. -/
def Tile.restoreTags (t : Tile) (r : Ruck) : Tile :=
  let mine := (List.range 64).filter (bitOf r.kern.tagUse.toNat)
  { t with tags := (t.tags &&& ~~~r.kern.tagUse) ||| (r.tagSave &&& r.kern.tagUse),
           tagCount := mine.foldl (fun l n => putD 0 n (getD 0 r.pendSave n) l) t.tagCount }

/-- Join-table entries put into free ones. -/
def putJoins (l : Sparse Join) : List Join → Sparse Join
  | [] => l
  | j :: rest =>
    match (List.range 16).find? fun n => !l.any (·.1 == n) with
    | some n => putJoins (put n j l) rest
    | none => l

/-- The collectives that a tile has issued for a launch, with those of a saved tile (R324): of each group the higher count. -/
def mergeSeqs (a b : Sparse Nat) : Sparse Nat := b.foldl (fun l (n, v) => put n (Nat.max v (getD 0 l n)) l) a

/-- The barrier objects of a rucksack that the tile itself held; those above are of other tiles (R65). -/
def ownObjects (l : Sparse BObj) : Sparse BObj := l.filter fun x => decide (x.1 < 32)

/-- Registers, tags and tile state of a saved tile. -/
def Tile.restoreState (t : Tile) (site cyc : Nat) (r : Ruck) : Tile :=
  let places := t.monPlaces r
  let t := r.slots.foldl (fun t (n, x) => t.setSlot n (x.resumed site cyc places)) (t.restoreTags r)
  let swapping := r.slots.any fun (_, x) => x.wake == some (.swap false)
  let mons := r.mons.foldl (fun (l : Sparse Mon) (n, m) =>
    match places.find? (·.1 == n) with
    | some (_, n') => put n' { m with armed := true } l
    | none => l) t.mons
  let hste := r.hste.foldl (fun (l : Sparse HState) (n, h) =>
    put n { h with pend := (h.pend + (getD HState.reset l n).pend) % 2 ^ 16 } l) t.hste
  let t := { t with mons := mons, hste := hste, joins := putJoins t.joins r.joins, arrivals := r.arrivals ++ t.arrivals,
                    baskets := r.baskets.foldl (fun l (n, b) => put n b l) t.baskets,
                    bobjs := (ownObjects r.bobjs).foldl (fun l (n, b) => put n b l) t.bobjs,
                    collSeq := put r.l (mergeSeqs (getD [] t.collSeq r.l) r.collSeq) t.collSeq,
                    latches := r.latches.foldl (fun l (n, w) => put n w l) t.latches,
                    box := if swapping then { t.box with swapWait := true } else t.box,
                    progress := put r.kern.owner (cyc - r.idle) t.progress }
  t.modKernel r.kern.owner fun k => { k with started := true }

/-! ### Queued work re-entered (R393, R536) -/

/-- A deferred branch makes its claim again. -/
def State.reclaim (s : State) (site : Nat) (x : Send) : State :=
  let e := { x.e with tr := movedTo site x.e.tr }
  match e.branches.find? fun b => b.1 == x.branch with
  | some b =>
    let a := (s.imageAt site e).1
    let w (j : Nat) : W64 := (s.tile site).word a j
    s.claimBranch site e x.len (fld (w 1) 16 48) (fld (w 2) 63 1 == 1) x.born b
  | none => s

/-- The operation of a saved command as issued: a CPYL reads its list when it starts (R303). -/
def EOp.issued : EOp → EOp
  | .cpyl addr n _ => .cpyl addr n none
  | op => op

/-- The engine that a saved command enters again from a site: its own of the site's die. -/
def ECmd.engineAt (c : ECmd) (site : Nat) : Nat := site / 256 * 16 + c.eng % 16

/-- Commands, sends, collectives and barrier waits of a rucksack enter their queues again, in saved order. A command that was stopped
starts again (R496). -/
def State.reenter (s : State) (r : Ruck) (site : Nat) : State :=
  let s := r.cmds.foldl (fun s c =>
    let e := c.engineAt site
    let c := { c with id := s.nextCmd, iss := s.cyc, tr := movedTo site c.tr, eng := e, op := c.op.issued, stopped := false,
                      late := false, done := 0, mute := [] }
    ({ s with nextCmd := s.nextCmd + 1 }).setEngQueue e c.queue (s.engQueue e c.queue ++ [s.awaited c])) s
  let s := r.branches.foldl (fun s x => s.reclaim site x) s
  let s := s.modTile site fun t =>
    { t with netQ := t.netQ ++ r.sends.map (fun e => { e with tr := movedTo site e.tr, iss := s.cyc }),
             collQ := t.collQ ++ r.colls.map fun c => { c with tr := movedTo site c.tr, iss := s.cyc } }
  r.waits.foldl (fun s q =>
    let id := (s.tile site).nextId
    let req := { q.req with src := s.coord site, id := id, tr := movedTo site q.req.tr }
    let q := { q with id := id, req := req, since := s.cyc, sent := false, stopped := false }
    let s := s.modTile site fun t => { t with nextId := id + 1, remote := t.remote ++ [q] }
    { s with todo := s.todo ++ [.barrierWaitRequest site id] }) s

/-- The entries of the network command queue that a rucksack's sends take (R261). -/
def Ruck.netUsed (r : Ruck) : Nat := r.sends.length + ((r.branches.map (·.e)).eraseDups).length

/-- Whether the queues have room for what re-enters them from some rucksacks: engine queues of 16, network command queues of 8,
collective queues of 4 and remote request queues of 16. -/
def State.reenterRoom (s : State) (rs : List Ruck) : Bool :=
  rs.all fun r =>
    let t := s.tile r.place
    let here := rs.filter (·.place == r.place)
    let among (e q : Nat) : Nat := (rs.map fun o => (o.cmds.filter fun c => c.engineAt o.place == e && c.queue == q).length).sum
    r.cmds.all (fun c => decide ((s.engQueue (c.engineAt r.place) c.queue).length + among (c.engineAt r.place) c.queue ≤ 16)) &&
      decide (t.netUsed + (here.map Ruck.netUsed).sum ≤ 8) && decide (t.collQ.length + (here.map (·.colls.length)).sum ≤ 4) &&
      decide (t.remote.length + (here.map (·.waits.length)).sum ≤ 16)

/-! ### Moved tiles (R522, R523) -/

/-- Relocation pairs: those of this placement, then those that a tile had, carried on; 64 at most. -/
def relocations (old new : List (Nat × Nat)) : List (Nat × Nat) :=
  let at' (c : Nat) : Nat := ((new.find? (·.1 == c)).map (·.2)).getD c
  let kept := (old.filter fun p => !new.any (·.1 == p.1)).map fun (a, b) => (a, at' b)
  ((new ++ kept).filter fun (a, b) => a != b).take 64

/-- A saved node whose tiles have all been placed, with no late command left, and room for their work; none of its rucksacks lies in
a slice that is being emptied (R128). -/
def State.restorable (s : State) (l node : Nat) : Bool :=
  let rs := s.rucksOf l node
  !rs.isEmpty && rs.all (fun r => r.dest.isSome && r.late == 0 && !s.mustWait (.hbm r.addr) (nth r.offs 8 0)) && s.reenterRoom rs

/-- The barrier objects that a saved tile had initialised on tiles where its region held no kernel (R65, R389). -/
def State.restoreFar (s : State) (site : Nat) (r : Ruck) : State :=
  (r.bobjs.filter fun x => decide (32 ≤ x.1)).foldl (fun s (n, b) =>
    s.modTile (n / 32 - 1) fun t => t.setBobj (n % 32) { b with maker := site }) s

/-- One tile of a saved node restored, but for its queued work. -/
def State.restoreTile (s : State) (h : KHdr) (pdst : Nat) (params : List Byte) (moves : List (Nat × Nat)) (r : Ruck) : State :=
  let site := r.place
  let s := (s.readMem (.hbm r.addr) r.kern.asp (nth r.offs 8 0) []).2
  let t := ((s.loadSaved r h pdst params (s.tile site)).restoreState site s.cyc r)
  let s := (s.setTile site { t with reloc := relocations r.reloc moves }).restoreFar site r
  let armed := ((s.tile site).mons.filter fun (_, m) => r.kern.slots.any (·.1 == m.slot)).map (·.1)
  let s := { s with todo := s.todo ++ armed.map fun n => Instr.monitorReread site n }
  r.slots.foldl (fun s (n, x) =>
    if x.wake == some (.swap false) then
      let tr := s.traceAt site n (x.pc - 1) (loadNat (s.tile site).sram (r.kern.sbase + 8 * (x.pc - 1)) 8) none
      s.modTile site fun t => { t with box := { t.box with swapTr := some tr } }
    else s) s

/-- A fault of class 13 against a node, found on one of its tiles; NEST tells whether its slot was in trap handling (R468). -/
def State.machineCheck (s : State) (site : Nat) (k : Kernel) (code : Nat) (nest : Bool) : State :=
  let tr := { s.traceAt site k.owner (s.slot site k.owner).pc 0 none with l := k.l, node := k.node, wid := k.wid }
  s.schedFault (s.faultRec tr ⟨13, code, 0, 0⟩ true) nest

/-- The rucksacks of a node are given up. -/
def State.dropRucks (s : State) (l node : Nat) : State :=
  { s with sched := { s.sched with rucks := s.sched.rucks.filter fun r => !(r.l == l && r.node == node) } }

/-- The ring descriptors of a node's tiles, formed afresh, with the custodians of its vacated sites. -/
def State.reformRings (s : State) (l node : Nat) (n : Node) : State :=
  let parts := s.partOf l node
  let sites := (parts.map (·.1)).eraseDups
  let custs := custodians sites (n.vacated.filter fun v => !sites.contains v)
  parts.foldl (fun s (site, k) =>
    let ring := s.podRing k n.pods
    let mine := (custs.filter (·.1 == site)).map fun (_, v) => s.coord v
    s.modTile site fun t => t.putRing k (s.descriptor site k ring mine)) s

/-- A placed node that was saved is restored, once no late command is left: contents and ring descriptors, registers and
tile state, then its queued work, and its slots go on. A rucksack whose header reads poisoned ends the node. -/
def execRestoration (l node : Nat) (s : State) : Res :=
  .next (match s.launchOf l, (s.launchOf l).bind (·.node node) with
    | some a, some n =>
      if n.st != .placed || s.nodeStopped l node || !s.restorable l node then s
      else
        let rs := s.rucksOf l node
        match rs.find? fun r => (granules 6 r.addr 256).any (s.lineBad r.kern.asp) with
        | some r =>
          let nest := r.slots.any fun (n, x) => n == r.kern.owner && fld x.tcause 63 1 == 1
          (s.machineCheck r.place r.kern 4 nest).dropRucks l node
        | none =>
          let rec' := s.nodeRec (s.graphHdr a.graph) node
          let h := s.kernelHdr rec'
          let own := s.movesOf l node
          let moves := own ++ n.moves.filter fun m => !own.contains m
          let s := rs.foldl (fun s r => s.restoreTile h rec'.pdst (paramBytes a rec') moves r) (s.dropRucks l node)
          rs.foldl (fun s r => s.reenter r r.place) (s.reformRings l node n)
    | _, _ => s)

end Sys2Proof.Machine
end

