-- ==== Sys2Proof/Machine/Failures.lean ====
section
/-!
DEFINITION. Tests (R516 to R519), the hang sweep (R525, R526), the announcement of OLDEST (R347), soft errors (R469, R497,
R498), router failure (R499, R510), partition reset (R511, R512), links (R405, R406, R514), power and heat (R437).
-/

namespace Sys2Proof.Machine

/-! ### Tests (R516 to R518) -/

/-- Whether the tests of a class run on vector slices: classes 5 to 25 (R237, R516). -/
def vectorClass (c : Nat) : Bool := decide (5 ≤ c) && decide (c ≤ 25)

/-- Whether a round can test a class of a tile: some position is unbound, and for a vector class not all 16 slices are granted. -/
def Tile.testable (t : Tile) (c : Nat) : Bool :=
  !(unbound t.wheel).isEmpty && (!vectorClass c || decide ((t.lanesTaken.map (·.2)).foldl (· + ·) 0 < 16))

/-- A test round of a tile. Classes that have lost their palette bit are not tested; those that cannot be tested as the tile stands
are skipped, and counted (notes/assumptions/71.md). While a host test of the site is ordered the round stops (R531). -/
def State.testRound (s : State) (site : Nat) (r : TestResult) : State :=
  if fld s.mg.katcfg 63 1 = 0 || !s.mg.svc.contains site || s.mg.htest == some site then s
  else
    let t := s.tile site
    let (tested, skipped) := ((List.range 45).filter (bitOf t.palette.toNat)).partition t.testable
    let failed := tested.filter r.classes.contains
    let able := !(unbound t.wheel).isEmpty
    let s := { s with mg := { s.mg with
      katRounds := (s.mg.katRounds + 1) % 2 ^ 32, katFails := Nat.min (s.mg.katFails + failed.length) 255,
      katSkip := Nat.min (s.mg.katSkip + skipped.length) 255 } }
    s.applyTest site { r with classes := failed, vault := false, intPath := r.intPath && able, fpPath := r.fpPath && able }

def execTestRound (site : Nat) (r : TestResult) (s : State) : Res := .next (s.testRound site r)

/-- What a round that falls due finds: a free value (notes/assumptions/71.md). -/
def State.found (s : State) (site : Nat) : TestResult :=
  let w := (Config.freeWord (2 ^ 69 + 1024 * s.cyc + site)).toNat
  { classes := (List.range 45).filter (bitOf w), vault := false, intPath := bitOf w 45, fpPath := bitOf w 46, skipped := 0 }

/-- The test rounds that fall due: of every tile in service once in INTERVAL × 1,024 cycles (R516; notes/assumptions/71.md). -/
def State.testRounds (s : State) : State :=
  if fld s.mg.katcfg 63 1 = 1 && s.cyc % (1024 * fld s.mg.katcfg 0 32) = 0 then
    (s.mg.tileEn.filter s.mg.svc.contains).foldl (fun s n => s.testRound n (s.found n)) s
  else s

/-- A write to HTEST. -/
def execHtest (w : W64) (s : State) : Res :=
  .next (
    if fld w 63 1 = 0 || fld s.mg.htres 63 1 = 1 then s
    else { s with mg := { s.mg with htest := some (fld w 0 10), htres := word64 [(63, 1), (46, fld w 0 10)] } })

/-- The ordered test of a site runs once no node has a tile there. -/
def execHostTestRun (r : TestResult) (s : State) : Res :=
  .next (match s.mg.htest with
    | none => s
    | some site =>
      if !(s.tile site).kernels.isEmpty then s
      else
        let failed := (r.classes.filter (· < 45)).eraseDups
        let res := word64 [(62, bitNat r.vault), (46, site), (0, maskOf 45 failed.contains)]
        let s := { s with mg := { s.mg with htest := none, htres := res } }
        (s.applyTest site { r with classes := failed }).askRound)

/-! ### Hang sweep (R525, R526) -/

/-- The latest progress of a placed node on this package. -/
def State.lastProgress (s : State) (l node : Nat) : Nat :=
  ((s.partOf l node).map fun (site, k) => getD 0 (s.tile site).progress k.owner).foldl Nat.max 0

/-- Whether the parts of a node on other packages have stood still as long: a free value each cycle (notes/assumptions/116.md). -/
def State.othersStand (s : State) (n : Node) : Bool := n.parts.isEmpty || Config.freeBit (2 ^ 70 + s.cyc)

/-- Whether a node is stalled, and has not been swept since its latest progress. -/
def State.stalled (s : State) (a : Launch) (node : Nat) (n : Node) : Bool :=
  let parts := s.partOf a.l node
  let last := s.lastProgress a.l node
  n.st == .placed && !parts.isEmpty && parts.all (fun (_, k) => k.started) && !s.nodeStopped a.l node &&
    decide (last + 65536 * fld s.mg.hangcfg 0 32 < s.cyc) && n.swept != last + 1 && s.othersStand n

/-- Whether a slot is in trap handling (R462). -/
def State.trapping (s : State) (site slot : Nat) : Bool := fld (s.slot site slot).tcause 63 1 == 1

/-- Whether a sweep of a kernel on its tile records a barrier object of its node: one that its own region initialised, or, for the
first kernel of the node there, one of an instance that has no kernel there. -/
def Tile.sweeps (t : Tile) (k : Kernel) (b : BObj) : Bool :=
  b.init.any fun r => r.l == k.l && r.node == k.node &&
    (r == k.region || (!t.kernels.any (·.inRegion r) && ((t.kernels.find? (·.isOf k.l k.node)).map (·.owner)) == some k.owner))

/-- The records of a sweep for one kernel on its tile. What has arrived of a region on other packages is a free value
(notes/assumptions/116.md). -/
def State.sweepTile (s : State) (site : Nat) (k : Kernel) : State :=
  let t := s.tile site
  let coord := s.coord site
  let region := s.regionOn k.region
  let mains := region.flatMap fun (n, q) => q.mains.map fun m => (s.tile n).slot m
  let want := k.rankSize * k.mains.length
  let come := (mains.filter fun x => x.inPhase || x.state == .done).length +
    (Config.freeWord (2 ^ 71 + s.cyc)).toNat % (want - mains.length + 1)
  let s := (t.bobjs.filter fun (_, b) => t.sweeps k b && decide (0 < b.arrived) && decide (b.arrived < b.count)).foldl
    (fun s (n, b) => s.hangRecord 1 coord k n b.count b.arrived (BitVec.ofNat 64 b.gen)) s
  let s := if k.mains.any fun m => (t.slot m).inPhase then
      s.hangRecord 2 coord k 0 want come (BitVec.ofNat 64 k.phno)
    else s
  let s := (t.joins.filter fun (_, j) => j.kern == k.owner).foldl (fun s (n, j) => s.hangRecord 3 coord k n 2 1 j.word1) s
  let s := (t.collQ.filter fun c => k.issued site c.tr).foldl (fun s c => s.hangRecord 4 coord k c.index c.count 1 c.group) s
  let s := (k.slots.filter fun (n, _) => (t.slot n).state == .asleep).foldl (fun s (n, _) =>
    s.hangRecord 5 coord k n 0 0 (BitVec.ofNat 64 (leNat ((wakeRecord t.mons k.sbase ((t.slot n).forSave s.cyc).wake).take 8)))) s
  (t.hent.filter fun (n, w) => hentValid w && hentOwner w == k.owner && decide (0 < (t.hsteOf n).pend) &&
      !(t.hsteOf n).running).foldl (fun s (n, _) =>
    s.hangRecord 6 coord k n 0 (t.hsteOf n).pend (BitVec.ofNat 64 (t.hsteOf n).age)) s

/-- The hang sweep: every node that has become stalled is recorded on each of its tiles, with an interrupt, and ended where
ACT = 1. -/
def execHangSweep (s : State) : Res :=
  .next (
    if fld s.mg.hangcfg 63 1 = 0 then s
    else
      let stalled := s.sched.launches.flatMap fun a => (a.nodes.filter fun (n, x) => s.stalled a n x).map fun (n, _) => (a.l, n)
      stalled.foldl (fun s (l, n) =>
        let last := s.lastProgress l n
        let s := (s.partOf l n).foldl (fun s (site, k) => s.sweepTile site k) s
        let s := (s.msix (fld s.mg.hangcfg 61 1) (fld s.mg.hangcfg 48 6)).modNode l n fun x => { x with swept := last + 1 }
        if fld s.mg.hangcfg 62 1 = 1 then
          match s.partOf l n with
          | (site, k) :: _ => s.machineCheck site k 6 (s.trapping site k.owner)
          | [] => s
        else s) s)

/-! ### OLDEST (R347) -/

/-- The least of some numbers. -/
def leastOf : List Nat → Option Nat
  | [] => none
  | n :: l => some (l.foldl Nat.min n)

/-- The least TOKID registered for a launch, here or (ext) on another package, is announced to the tiles of the launch. -/
def execOldestAnnounce (l : Nat) (ext : Option Nat) (s : State) : Res :=
  .next (
    let least := leastOf (((s.sched.census.filter (·.1.l == l)).map (·.2)) ++ ext.toList)
    let tiles := s.tiles.map fun (n, (t : Tile)) =>
      if t.kernels.any (·.l == l) then
        (n, { t with oldest := match least with | some v => put l v t.oldest | none => erase l t.oldest })
      else (n, t)
    { s with tiles := tiles })

/-! ### Soft errors (R469, R497, R498) -/

/-- The kernel of a slot receives a machine check (R468). -/
def State.slotCheck (s : State) (site slot code : Nat) : State :=
  match (s.tile site).kernels.find? fun k => k.slots.any (·.1 == slot) with
  | some k =>
    let tr := s.traceAt site slot (s.slot site slot).pc 0 none
    s.schedFault (s.faultRec { tr with l := k.l, node := k.node, wid := k.wid } ⟨13, code, 0, 0⟩ true) (s.trapping site slot)
  | none => s

/-- The elements of a packet that a beat of it reaches: after its 16-byte header each has two words, or three (R147, R399). -/
def struckElems (beat : Nat) (l : List Elem) : List Nat :=
  let sizes := l.map fun e => if e.op == .cas then 24 else 16
  (List.range l.length).filter fun i =>
    overlaps (16 + (sizes.take i).foldl (· + ·) 0) (nth sizes i 16) (128 * beat) 128

/-- A message with a poisoned beat. -/
def strike (beat : Nat) : Msg → Msg
  | .packet p => .packet { p with bad := p.bad ++ struckElems beat p.elems }
  | .token t => .token { t with image := struck [beat] 16 t.image }
  | .write w => .write { w with data := struck [beat] 16 w.data }
  | .resp dst src id asp owner (.data v p) => .resp dst src id asp owner (.data v (p || beat == 0))
  | m => m

/-- A flight whose message has the poisoned beat, where it is the one of a number. -/
def Flight.struck (n beat : Nat) (f : Flight) : Flight := if f.n == n then { f with m := strike beat f.m } else f

/-- Where a message ends. -/
def State.msgDest (s : State) (m : Msg) : PDest :=
  match m with
  | .packet p => p.dst
  | .ack dst _ _ _ => .tile dst 0
  | .claim c => .tile c.dst 0
  | .grant dst _ _ _ _ => .tile dst 0
  | .token t => .tile t.dst 0
  | .req r => s.reqDest r
  | .resp dst _ _ _ _ _ => .tile dst 0
  | .write w => w.dst
  | .wrote dst _ _ => .tile dst 0
  | .part p => .tile (p.dst * 1024) 0
  | .under coord _ _ _ _ => .tile coord 0
  | .unclaim dst _ _ => .tile dst 0

/-- A granule becomes poisoned by an uncorrectable error. TILE of ERRLAST names, for a beat of a message, the tile at whose site
the message ends, and for a beat of engine data the site of the engine (notes/assumptions/100.md). DESIGN CHOICE -/
def State.poisonPlace (s : State) (p : Place) : State :=
  match p with
  | .sram site off =>
    (s.modTile site fun t => { t with sramPoison := insSet (off / 8) t.sramPoison }).noteError true 0 (s.coord site) off
  | .plane site off =>
    (s.modTile site fun t => { t with planePoison := insSet (off / 8) t.planePoison }).noteError true 1 (s.coord site) off
  | .acc site idx =>
    (s.modTile site fun t => { t with accPoison := insSet idx t.accPoison }).noteError true 2 (s.coord site) (4 * idx)
  | .vault site off =>
    { s with vaultPoison := insSet ((2 ^ 25 * site + off) / 64) s.vaultPoison }.noteError true 3 (s.coord site) off
  | .hbm a => s.poisonHbm (a / 64)
  | .tag a => { s with hbmPoison := insSet (a / 64) s.hbmPoison }.noteError true 5 0 (64 * (a / 64))
  | .beat site =>
    (s.modBox site fun b => { b with inbuf := b.inbuf.mapIdx fun i x => (x.1, x.2 || decide (i < 128)) }).noteError true 6
      (s.coord site) 0
  | .flight n beat =>
    match s.flight n with
    | some f =>
      { s with wire := s.wire.map (Flight.struck n beat) }.noteError true 6
        (s.coord ((s.destSite (s.msgDest f.m)).getD 0)) 0
    | none => s
  | .engine e q beat =>
    match s.engQueue e q with
    | c :: rest =>
      (s.setEngQueue e q ({ c with beats := insSet beat c.beats } :: rest)).noteError true 6 (s.coord (s.engineSite e)) 0
    | [] => s
  | .host port addr => { s with hostPoison := insSet (2 ^ 64 * port + addr) s.hostPoison }
  | .stack n => { s with mg := { s.mg with hbmDead := insSet n s.mg.hbmDead } }
  | .file site slot => s.slotCheck site slot 1
  | .entry site slot => s.slotCheck site slot 2

/-- A read, by the patrol scrubber or by an access, meets a soft error: one that is corrected is counted, one that is not
poisons its granule. Register files and queue entries have parity alone. -/
def execPatrolScrub (p : Place) (uncorrectable : Bool) (s : State) : Res :=
  .next (
    if uncorrectable then s.poisonPlace p
    else
      match p with
      | .file _ _ => s
      | .entry _ _ => s
      | .beat _ => s
      | .flight _ _ => s
      | .engine _ _ _ => s
      | .host _ _ => s
      | .tag _ => s
      | .stack _ => s
      | _ => { s with mg := { s.mg with errCE := (s.mg.errCE + 1) % 2 ^ 16 } })

/-! ### Routers (R499, R510) -/

/-- The site at which a message stands or has begun its way inside the package: where its source sends it, or where its lane
group lets it in. -/
def State.startSite (s : State) (f : Flight) (dst : Nat) : Option Nat :=
  match f.via with
  | some lane => s.edgeSite (lane / 72) dst
  | none =>
    match f.m with
    | .packet p => some (coordSite p.src)
    | .ack _ src _ _ => some (coordSite src)
    | .claim c => some (coordSite c.src)
    | .grant _ src _ _ _ => some (coordSite src)
    | .token t => some (coordSite t.src)
    | .req r => some (coordSite r.src)
    | .resp _ src _ _ _ _ => some (coordSite src)
    | .unclaim _ src _ => some (coordSite src)
    | _ => none

/-- The sites that a message inside the package passes. -/
def State.routeOf (s : State) (f : Flight) : List Nat :=
  let dest := match s.msgDest f.m with
    | .host port _ => (s.startSite f 0).bind (s.edgeSite port)
    | p => s.destSite p
  ((dest.bind fun n => (s.startSite f n).bind fun a => s.path a n)).getD []

/-- A message that has been lost: a hamper packet taken from another package is not performed, and is not acknowledged (R163). -/
def State.noteLost (s : State) (f : Flight) : State :=
  match f.via, f.m with
  | some _, .packet p =>
    let src := coordPkg p.src
    { s with winLost := put src (getD [] s.winLost src ++ p.seq.toList) s.winLost }
  | _, _ => s

/-- Messages held in a router are lost; which of those that pass it are held there a free bit says. -/
def State.loseIn (s : State) (site : Nat) : State :=
  let (bits, s) := s.drawBits s.wire.length
  let (gone, left) := (s.wire.zip bits).partition fun (x, b) => b && (s.routeOf x).contains site
  gone.foldl (fun s x => s.noteLost x.1) { s with wire := left.map (·.1) }

/-- The placed nodes with a tile that meets a condition, each with one such tile. -/
def State.nodesOn (s : State) (p : Nat → Kernel → Bool) : List (Nat × Kernel) :=
  s.sched.launches.flatMap fun a => a.nodes.filterMap fun (n, _) => (s.partOf a.l n).find? fun (site, k) => p site k

/-- A router fails in service. -/
def State.routerFail (s : State) (site : Nat) : State :=
  if !s.mg.rtsvc.contains site then s
  else
    let s := s.loseIn site
    let s := s.clearVault site
    let s := { s with mg := { s.mg with rtsvc := delSet site s.mg.rtsvc } }
    (s.nodesOn fun n _ => n / 256 == site / 256).foldl (fun s (n, k) => s.machineCheck n k 3 (s.trapping n k.owner)) s

/-- The routing table of a router fails its parity check. -/
def execRouterFailure (site : Nat) (s : State) : Res := .next (s.routerFail site)

/-- A flit of the scalar or control plane comes over a link of a site's router: it fails its parity check and is sent again, or it
is good. The third consecutive failure is a failure of the router (R499). -/
def execFlitParityRetry (f : FlitCheck) (s : State) : Res :=
  .next (
    let key := 4 * f.site + f.dir % 4
    let n := getD 0 s.mg.flits key + 1
    let set (s : State) (n : Nat) : State := { s with mg := { s.mg with flits := putD 0 key n s.mg.flits } }
    if !f.failed then set s 0 else if n < 3 then set s n else (set s 0).routerFail f.site)

/-- HBM lines homed in a slice: 2^30 granules of 512 bytes, 8 lines each (R126). -/
def linesHomed (slices k : Nat) : Nat := if k < slices then 8 * ((2 ^ 30 - k + slices - 1) / slices) else 0

/-- The slices of a site whose router failed are lost: every line homed in them is poisoned and counted (R128). -/
def State.loseSlices (s : State) (site : Nat) : State :=
  if s.mg.emptying.contains site then
    let n := s.mg.slices.length
    let mine := (List.range n).filter fun k => (nth s.mg.slices k (0, 0)).1 == site
    let s := { s with hbmLost := s.hbmLost ++ mine.map fun k => (n, k, []) }
    mine.foldl (fun s k => { s with mg := { s.mg with errUE := (s.mg.errUE + linesHomed n k) % 2 ^ 16,
                                                       errLast := word64 [(61, 4), (0, 512 * k)] } })
      { s with mg := { s.mg with emptying := delSet site s.mg.emptying } }
  else s

/-- The network interfaces release what they have held. -/
def State.releaseHeld (s : State) : State :=
  s.heldMsgs.foldl (fun s (circ, pkg, m) => s.postOn circ pkg m) { s with heldMsgs := [] }

/-- The rewriting of the routing tables, once no node has a tile on the dies concerned: the lines of lost slices are poisoned, and
once nothing is in flight inside the package the tables are written and what is held is released. -/
def execRoutingTableRewrite (s : State) : Res :=
  .next (
    if !s.rewriting then s
    else
      let lost := s.mg.tables.filter fun n => !s.mg.rtsvc.contains n
      let s := lost.foldl State.loseSlices s
      if s.wire.any Flight.inside then s
      else ({ s with mg := { s.mg with tables := s.mg.rtsvc } }.releaseHeld).askRound)

/-! ### Partition reset (R511, R512) -/

/-- A site at its reset values; its palette and what counts since package reset stay. -/
def Tile.partReset (t : Tile) : Tile :=
  { Tile.reset with palette := t.palette, hlast := t.hlast, hdeps := t.hdeps, hflWr := t.hflWr, hflLost := t.hflLost, eseq := t.eseq, nextId := t.nextId }

/-- The nodes of a partition that have tiles, and those that are saved. -/
def State.partNodes (s : State) (asp : Nat) (st : NState) : List (Nat × Nat) :=
  s.sched.launches.flatMap fun a =>
    if fld (getD 0 s.sched.schgr a.graph) 56 4 = asp then (a.nodes.filter fun (_, n) => n.st == st).map fun (n, _) => (a.l, n) else []

/-- The nodes of a partition that have no tile here: the saved ones, and those that have never been placed, at the package that
leads their launch. -/
def State.tilelessNodes (s : State) (asp : Nat) : List (Nat × Nat) :=
  (s.partNodes asp .saved) ++ ((s.partNodes asp .waiting ++ s.partNodes asp .ready ++ s.partNodes asp .placing).filter fun (l, n) =>
    (s.launchOf l).any (·.lead == s.pkg) && (s.partOf l n).isEmpty)

/-- The packages that have been asked for parts of a node that is being placed are told to release them. -/
def State.releaseAsked (s : State) (l node : Nat) : State :=
  match (s.launchOf l).bind (·.node node) with
  | some x =>
    if x.st == .placing then (s.tellAll x.parts fun p => .release p l node).modNode l node fun x => { x with parts := [] } else s
  | none => s

/-- Nodes that end with status 3 together: none of them counts as one that waits for another. A round that waits for the parts of one
of them goes on. -/
def State.endTogether (s : State) (l : List (Nat × Nat)) : State :=
  let awaited := l.any fun (k, n) => s.awaitsHead k n
  let s := l.foldl (fun s (k, n) => ((s.releaseAsked k n).dropRucks k n).modNode k n fun x => { x with st := .done 3 }) s
  let s := l.foldl (fun s (k, n) => s.nodeEnd k n 3) s
  let s := ((l.map (·.1)).eraseDups.filter fun k => (s.launchOf k).any (·.lead == s.pkg)).foldl
    (fun s k => (s.finishLaunch k).askRound) s
  if awaited then s.skipHead else s

/-- A partition reset begins: its gateways refuse traffic, its nodes that have tiles stop with class 13, and the others end, the
saved ones with their rucksacks discarded (notes/assumptions/117.md). -/
def State.startReset (s : State) (asp : Nat) : State :=
  let s := { s with mg := { s.mg with prst := some asp } }
  let s := (s.partNodes asp .placed ++ s.partNodes asp .placing).foldl (fun s (l, n) => match s.partOf l n with
    | (site, k) :: _ => ((s.machineCheck site k 5 (s.trapping site k.owner)).dropRucks l n).releaseAsked l n
    | [] => s) s
  s.endTogether (s.tilelessNodes asp)

/-- The rest of a partition reset: queues are emptied, sites go to their reset values, translations are removed, and the
gateways admit the partition again. -/
def State.finishReset (s : State) (asp : Nat) : State :=
  let sites := (List.range 1024).filter fun n => s.siteAsp n == asp
  let s := (s.tiles.filter fun (n, _) => sites.contains n).foldl (fun s (n, t) =>
    t.sends.foldl (fun s x => s.giveBack x.dst (s.coord n) x.id) (t.claims.foldl (fun s c => s.turnClaim c 0x0C) s)) s
  let ended := s.partNodes asp .placed ++ s.partNodes asp .placing
  let engines : Sparse (List ECmd) := s.engines.map fun (n, q) => (n, q.filter fun c => !sites.contains c.tr.site)
  let s := { s with
    engines := engines.filter fun (_, q) => !q.isEmpty,
    tiles := s.tiles.map fun (n, (t : Tile)) => (n, if sites.contains n then t.partReset else t),
    vault := s.vault.filter fun (c : Host.Cell) =>
      !(sites.contains (c.1 / 2 ^ 25) && decide (c.1 % 2 ^ 25 < (24 - s.cacheMib (c.1 / 2 ^ 25)) * 2 ^ 20)),
    vaultPoison := s.vaultPoison.filter fun g =>
      !(sites.contains (64 * g / 2 ^ 25) && decide (64 * g % 2 ^ 25 < (24 - s.cacheMib (64 * g / 2 ^ 25)) * 2 ^ 20)) }
  let s := { s with mg := { s.mg with
    xfWait := s.mg.xfWait.filter fun r => fld (nth r.words 0 0) 57 4 != asp,
    xlats := s.mg.xlats.filter (·.asp != asp), prst := none } }
  let s := (s.mg.xfrec.filter fun (_, r) => r.valid && fld (nth r.words 0 0) 57 4 == asp).foldl (fun s (n, _) => s.clearRecord n) s
  (ended.foldl (fun s (l, n) => s.finishEnding l n) s).askRound

/-- A write to PRST with GO = 1 starts the reset of a partition; while BUSY = 1 a write is ignored. -/
def execPrst (w : W64) (s : State) : Res :=
  .next (if s.mg.prst.isSome || fld w 0 1 = 0 then s else s.startReset (fld w 32 4))

/-- Whether no slot on the sites of a partition acts any longer. -/
def State.partStopped (s : State) (asp : Nat) : Bool :=
  s.tiles.all fun (n, (t : Tile)) => s.siteAsp n != asp || t.slots.all fun (_, x) => !x.state.acts

/-- A partition reset in a cycle: once the slots have stopped, whether the rest of it comes about a free bit says (R512;
notes/assumptions/23.md). DESIGN CHOICE -/
def State.resetGoes (s : State) : State :=
  match s.mg.prst with
  | none => s
  | some asp =>
    let t := { s with free := s.free + 1 }
    if s.partStopped asp && Config.freeBit s.free then t.finishReset asp else t

/-! ### Links (R405, R406, R435, R514) -/

/-- A link replays from a failed flit: each flit arrives once and in order. -/
def execLinkReplay (_n : Nat) (s : State) : Res := .next s

/-- A lane group changed. -/
def State.modLane (s : State) (n : Nat) (f : W64 → W64) : State :=
  if n < 144 then { s with mg := { s.mg with lgb := putD 0 n (f (s.lane n)) s.mg.lgb } } else s

/-- LGB_n with LIVE, PEER and PLG. -/
def lgbLink (w : W64) (live peer plg : Nat) : W64 :=
  word64 [(61, fld w 61 3), (60, live), (48, peer), (40, plg), (28, fld w 28 12), (0, fld w 0 22)]

/-- A lane group of an enabled port completes training. -/
def execLinkTrained (n peer plg : Nat) (s : State) : Res :=
  .next (if bitOf s.mg.portEn (n / 4) then s.modLane n fun w => lgbLink w 1 (peer % 4096) (plg % 256) else s)

/-- A fabric port loses every lane: its lane groups read LIVE = 0. -/
def State.portDown (s : State) (p : Nat) : State :=
  (List.range 4).foldl (fun s i => s.modLane (4 * p + i) fun w => lgbLink w 0 (fld w 48 12) (fld w 40 8)) s

def execFabricPortDown (n : Nat) (s : State) : Res := .next (s.portDown n)

/-- A host link goes down. -/
def execHostLinkDown (port : Nat) (s : State) : Res :=
  .next { s with mg := { s.mg with hostUp := delSet port s.mg.hostUp } }

/-- A host link has trained again. -/
def execHostLinkRetrain (port : Nat) (s : State) : Res :=
  .next (if port < 2 then { s with mg := { s.mg with hostUp := insSet port s.mg.hostUp } } else s)

/-- The host ports that have not answered a command in time: which, free bits say; one of them at least (notes/assumptions/118.md). -/
def State.mutePorts (s : State) : List Nat × State :=
  let (bits, s) := s.drawBits 2
  let l := [0, 1].filter fun k => nth bits k false
  (if l.isEmpty then [0, 1] else l, s)

/-- The host memory that a command reads does not answer in time: what it reads there is poison (R508), and the command goes on
with it. -/
def execHostCompletionTimeout (e q : Nat) (ext : List ExtRead) (s : State) : Res :=
  .next (match s.engQueue e q with
    | c :: rest =>
      let (mute, t) := s.mutePorts
      let t := t.setEngQueue e q ({ c with mute := mute } :: rest)
      match t.command (t.startCmd { c with mute := mute }) ext with
      | (.ok _, _) => t.runHead e q ext
      | _ => s
    | [] => s)

/-! ### Power and heat (R437 to R439) -/

/-- Whether a window of 1 ms is one that the power controller lets come about: the average power at or below the highest ceiling in
force in it, the hottest junction below 105 °C, and stops in it where a ceiling below the present power asks for them. -/
def State.holdsLimits (s : State) (r : PowerReading) : Bool :=
  decide (r.power ≤ s.mg.pwrTop) && decide (r.tj < 105) && decide (r.stopNs ≤ 1000000) && (!s.mg.pwrStop || decide (0 < r.stopNs))

/-- A window of the power controller: the readings, and the time that clock stops took to hold the limits. No other window comes
about. -/
def execPowerWindow (r : PowerReading) (s : State) : Res :=
  .next (
    if !s.holdsLimits r then s
    else { s with mg := { s.mg with
      stopNs := (s.mg.stopNs + r.stopNs) % 2 ^ 64, pwrTop := s.mg.pwrCeil, pwrStop := false,
      pwrStat := word64 [(40, r.tj % 256), (28, Nat.min (r.stopNs * 4096 / 1000000) 4095), (0, r.power % 4096)] } })

/-- A junction reaches 115 °C: the thermal-trip pin, and no clock until package reset. -/
def execThermalTrip (tj : Nat) (s : State) : Res :=
  .next (
    if 115 ≤ tj then
      let stat := word64 [(40, tj % 256), (28, fld s.mg.pwrStat 28 12), (0, fld s.mg.pwrStat 0 12)]
      { s with outbox := s.outbox ++ [.tripPin], mg := { s.mg with tripped := true, pwrStat := stat } }
    else s)

end Sys2Proof.Machine
end

