-- ==== Sys2Proof/Machine/Mgmt.lean ====
section
/-!
DEFINITION. The management registers that a host writes and reads: identity (R23 to R27), the invalidation queue (R120 to
R122), the vault split and the memory-side cache (R123 to R125), scheduler registers and memory (R359 to R361), host windows
and the aperture's configuration (R415, R416), partitions (R419), links (R406, R408), mark stages (R423), platform, fault and
test registers (R435, R438, R467, R494, R498, R504, R518, R528).
-/

namespace Sys2Proof.Machine

/-- The named fields of a written word, each with its lowest bit and width; the others read as zero (R7). -/
def only (w : W64) (l : List (Nat × Nat)) : W64 := word64 (l.map fun (lo, n) => (lo, fld w lo n))

/-! ### Package number, locks and limits (R25, R419, R435) -/

def execPkgnum (w : W64) (s : State) : Res :=
  .next (if fld s.mg.pkgnum 12 1 = 1 then s else { s with mg := { s.mg with pkgnum := only w [(12, 1), (0, 12)] } })

def execPgctl (w : W64) (s : State) : Res :=
  .next (if fld w 0 1 = 1 then { s with mg := { s.mg with pgLock := true } } else s)

/-- CEIL is clamped to 600 to FMAX. The present window of the power controller is held to the highest ceiling in force in it, and
stops begin in it where the ceiling comes below the present power (R437 to R439). -/
def execPwrceil (w : W64) (s : State) : Res :=
  .next (
    if s.mg.pwrLock then s
    else
      let c := fld w 0 12
      let c := if s.mg.fmax < c then s.mg.fmax else if c < 600 then 600 else c
      { s with mg := { s.mg with pwrLock := fld w 63 1 == 1, pwrCeil := c, pwrTop := Nat.max s.mg.pwrTop c,
                                 pwrStop := s.mg.pwrStop || decide (c < fld s.mg.pwrStat 0 12) } })

/-- A port that is not enabled passes no traffic: its lane groups read LIVE = 0. -/
def execLnklim (w : W64) (s : State) : Res :=
  .next (
    if s.mg.lnkLock then s
    else
      let s := { s with mg := { s.mg with lnkLock := fld w 63 1 == 1, portEn := fld w 0 36 } }
      ((List.range 36).filter fun p => !bitOf (fld w 0 36) p).foldl State.portDown s)

/-- Word k of host window: both ignore writes once LOCK is 1. -/
def execHwin (port k word : Nat) (w : W64) (s : State) : Res :=
  .next (
    let key := 8 * port + 2 * k
    if fld (getD 0 s.mg.hwin (key + 1)) 62 1 = 1 then s
    else
      let v := if word = 0 then only w [(16, 48)] else only w [(63, 1), (62, 1), (61, 1), (60, 1), (0, 32)]
      { s with mg := { s.mg with hwin := putD 0 (key + word) v s.mg.hwin } })

/-! ### Lane groups and mark stages (R406, R423) -/

/-- A write to LGB_n: ignored while a circuit ends here or where USE is 3; OWNER stays once PGCTL.LOCK is 1. -/
def execLgb (n : Nat) (w : W64) (s : State) : Res :=
  .next (
    if fld (s.lane n) 0 22 != 0 || fld w 61 2 = 3 then s
    else s.modLane n fun old => word64 [(61, fld w 61 3), (40, fld old 40 21),
      (28, if s.mg.pgLock then fld old 28 12 else fld w 28 12), (0, fld old 0 22)])

/-- A row or column count of a frame. -/
def sizeOk (n : Nat) : Bool := decide (16 ≤ n) && decide (n ≤ 8192) && n % 16 == 0

/-- A write to MKFMT; a frame is in progress only within its own step. -/
def execMkfmt (k : Nat) (w : W64) (s : State) : Res :=
  .next (
    if fld w 56 2 ≤ 1 && sizeOk (fld w 32 16) && sizeOk (fld w 0 16) then
      { s with mg := { s.mg with mkfmt := putD 0 k (only w [(63, 1), (56, 2), (32, 16), (0, 16)]) s.mg.mkfmt } }
    else s)

/-! ### Fault, test and hang configuration (R504, R518, R528) -/

/-- A field of which 0 means 1. -/
def atLeast1 (n : Nat) : Nat := if n = 0 then 1 else n

def execFltcfg (w : W64) (s : State) : Res :=
  .next { s with mg := { s.mg with fltcfg := word64 [(48, atLeast1 (fld w 48 16)), (32, atLeast1 (fld w 32 16)), (16, fld w 16 1),
    (8, fld w 8 6), (0, fld w 0 1)] } }

def execKatcfg (w : W64) (s : State) : Res :=
  .next { s with mg := { s.mg with katcfg := word64 [(63, fld w 63 1), (0, atLeast1 (fld w 0 32))] } }

def execHangcfg (w : W64) (s : State) : Res :=
  .next { s with mg := { s.mg with hangcfg := word64 [(63, fld w 63 1), (62, fld w 62 1), (61, fld w 61 1), (48, fld w 48 6),
    (0, atLeast1 (fld w 0 32))] } }

/-! ### Vault split and memory-side cache (R123 to R125, R128) -/

/-- A MiB of a vault that becomes pinned reads as zero. -/
def State.zeroMib (s : State) (site m : Nat) : State :=
  let lo := 2 ^ 25 * site + 2 ^ 20 * m
  { s with vault := zeroRange s.vault lo (2 ^ 20), vaultPoison := clearPoison 6 s.vaultPoison lo (2 ^ 20) }

/-- The field of one site written. -/
def State.setSplit (s : State) (site c : Nat) : State :=
  if !s.mg.tileEn.contains site || !s.mg.vltsvc.contains site || 24 < c then s
  else
    let old := s.cacheMib site
    let s := ((List.range old).drop c).foldl (fun s i => s.zeroMib site (23 - i)) s
    { s with mg := { s.mg with vsplit := putD 0 site c s.mg.vsplit } }

def execVsplit (n : Nat) (w : W64) (s : State) : Res :=
  .next (
    if s.mg.msEn || s.mg.msBusy then s
    else (List.range 8).foldl (fun s j => s.setSplit (8 * n + j) (fld w (8 * j) 5)) s)

/-- The cache slices: the k-th cache MiB of every vault that has one, in ascending site number, for k = 0 to 23. -/
def State.numberSlices (s : State) : List (Nat × Nat) :=
  let sites := s.mg.tileEn.filter fun n => decide (0 < s.cacheMib n)
  (List.range 24).flatMap fun k => (sites.filter fun n => decide (k < s.cacheMib n)).map (·, k)

def execMscfgEnable (w : W64) (s : State) : Res :=
  .next (
    if fld w 0 1 = 0 || s.mg.msEn || s.mg.msBusy then s
    else
      let l := s.numberSlices
      { s with mg := { s.mg with msEn := !l.isEmpty, slices := l, bypassed := [], emptying := [] } })

def execMscfgDisable (w : W64) (s : State) : Res :=
  .next (
    if fld w 0 1 = 1 || !s.mg.msEn || s.mg.msBusy then s
    else { s with mg := { s.mg with msEn := false, msBusy := true } })

/-- The last dirty line is in HBM. -/
def execCacheWritebackDone (s : State) : Res :=
  .next (if s.mg.msBusy then { s with mg := { s.mg with msBusy := false }, hbmDirty := [] } else s)

/-! ### Invalidation queue (R120, R121) -/

/-- A command queued; a 65th is discarded. -/
def State.queueIvq (s : State) (lvl : Nat) (w : W64) : State :=
  if fld w 62 2 != lvl then s
  else if 64 ≤ s.mg.ivq.length then { s with mg := { s.mg with ivqOvf := true } }
  else { s with mg := { s.mg with ivq := s.mg.ivq ++ [w] } }

def execIvqPage (w : W64) (s : State) : Res := .next (s.queueIvq 0 w)
def execIvqRange (w : W64) (s : State) : Res := .next (s.queueIvq 1 w)
def execIvqSpace (w : W64) (s : State) : Res := .next (s.queueIvq 2 w)
def execIvqAll (w : W64) (s : State) : Res := .next (s.queueIvq 3 w)

/-- Whether a command covers a cached translation. -/
def ivqCovers (w : W64) (x : Xlat) : Bool :=
  match fld w 62 2 with
  | 0 => x.asp == fld w 58 4 && x.rng == fld w 50 8 && x.vpage == fld w 0 41
  | 1 => x.asp == fld w 58 4 && x.rng == fld w 50 8
  | 2 => x.asp == fld w 58 4
  | _ => true

/-- Whether a command covers a page of an address space, or all that it covers of the space is not known to leave it out. -/
def ivqTouches (w : W64) (asp : Nat) (vpage : Option Nat) : Bool :=
  match fld w 62 2 with
  | 0 => asp == fld w 58 4 && vpage.all (· == fld w 0 41)
  | 3 => true
  | _ => asp == fld w 58 4

/-- The virtual page of a global address. -/
def pageOf (x : W64) : Option Nat := match gaddr x with | .virt va => some (va / 65536) | _ => none

/-- Whether a packet, a request, or writes of an engine, of a host port or of the scheduler that have left and are not acknowledged
may have used a translation that a command covers. -/
def State.ivqPending (s : State) (w : W64) : Bool :=
  (s.tiles.any fun (_, t) =>
    (t.unacked.any fun u => match u.pkt.hdst with
      | .virt vp a => ivqTouches w a (some vp)
      | .tile .. => false) ||
    t.remote.any fun q => q.gone.any fun r => (pageOf (reqAddr r)).any fun vp => ivqTouches w r.tr.asp (some vp)) ||
    (s.engines.any fun (_, l) => l.any fun c => !c.acks.isEmpty && ivqTouches w c.tr.asp none) ||
    s.hostAcks.any fun (_, a) => ivqTouches w a none

/-- The command at the head has been performed: no port holds a translation that it covers, and every access that used
one has been performed. -/
def execIvqAcknowledge (s : State) : Res :=
  .next (match s.mg.ivq with
    | w :: rest =>
      if s.ivqPending w then s
      else { s with mg := { s.mg with ivq := rest, ivqDone := (s.mg.ivqDone + 1) % 2 ^ 32,
                                      xlats := s.mg.xlats.filter fun x => !ivqCovers w x } }
    | [] => s)

/-! ### Every other register (R5 to R7) -/

/-- Bytes of a written word. -/
def wordOfBytes (m : List Host.Cell) (a : Nat) : W64 := BitVec.ofNat 64 (loadNat m a 8)

/-- PARTMAP_k: sites that hold a placed region keep their partition; what was written for them is dropped, and does not take
effect later (notes/assumptions/101.md). DESIGN CHOICE -/
def State.setPartmap (s : State) (k : Nat) (w : W64) : State :=
  let old := getD 0 s.mg.partmap k
  let v := word64 ((List.range 16).map fun j =>
    (4 * j, fld (if (s.tile (16 * k + j)).kernels.isEmpty then w else old) (4 * j) 4))
  { s with mg := { s.mg with partmap := putD 0 k v s.mg.partmap } }

/-- A write to a vector's mask sends what pends. -/
def State.setMsix (s : State) (port k : Nat) (w : W64) : State :=
  let s := { s with mg := { s.mg with msixTab := put (256 * port + k) w s.mg.msixTab } }
  let pba := getD 0 s.mg.msixPba port
  if k % 2 = 1 && fld w 32 1 = 0 && fld pba (k / 2) 1 = 1 then
    { s with mg := { s.mg with msixPba := put port (pba &&& ~~~(BitVec.ofNat 64 (2 ^ (k / 2)))) s.mg.msixPba },
             outbox := s.outbox ++ [.msix port (k / 2)] }
  else s

/-- CODE of the command in MCBOX (R432). -/
def mcCode (s : State) : Nat := fld (wordOfBytes s.mg.mcbox 0) 0 8

/-- A write to MCDOOR that no command or image answers: before stage 7, or with a code that is not listed. One during a command or
a check is ignored (notes/assumptions/102.md). DEDUCED -/
def State.badDoor (s : State) : State :=
  if s.mg.stage = 5 || s.mg.mcBusy then s
  else if s.mg.stage < 7 || mcCode s = 0 || 4 < mcCode s then { s with mg := { s.mg with mcErr := true } }
  else s

/-- Register index of an offset in a row of n 8-byte registers. -/
def regIndex (off base n : Nat) : Option Nat :=
  if base ≤ off && off < base + 8 * n && off % 8 = 0 then some ((off - base) / 8) else none

/-- The write of a scheduler register. -/
def State.writeSched (s : State) (off : Nat) (w : W64) : Option State :=
  match off with
  | 0x0C08 => some { s with sched := { s.sched with ref := s.sched.ref && fld w 49 1 == 0, ovf := s.sched.ovf && fld w 48 1 == 0 } }
  | 0x0C18 => some { s with sched := { s.sched with schpst := s.sched.schpst &&& ~~~(only w [(62, 1)]) } }
  | 0x0C28 => some { s with sched := { s.sched with rkb := only w [(12, 27)] } }
  | 0x0C30 => some { s with sched := { s.sched with rkl := only w [(0, 32)] } }
  | _ =>
    match regIndex off 0x0C40 64, regIndex off 0x1000 256 with
    | some n, _ =>
      let q : QCfg := { age := fld w 16 16, nobf := fld w 4 1 == 1, prio := fld w 0 3 }
      some { s with sched := { s.sched with qcfg := put n q s.sched.qcfg } }
    | none, some g =>
      some (if s.sched.launches.any (·.graph == g) || s.sched.trigs.any (fun t => fld t 56 8 == g) then s
        else { s with sched := { s.sched with schgr := putD 0 g (only w [(63, 1), (56, 4), (0, 12)]) s.sched.schgr } })
    | none, none => none

/-- The write of a register of the partitions, the fabric or a host port. -/
def State.writeFabric (s : State) (port off : Nat) (w : W64) : Option State :=
  match regIndex off 0x2A00 16, regIndex off 0x2B00 64, regIndex off 0x4000 512, regIndex off 0x0A00 16 with
  | some a, _, _, _ =>
    some (if s.mg.pgLock then s else { s with mg := { s.mg with part := putD 0 a (only w [(63, 1), (0, 12)]) s.mg.part } })
  | _, some k, _, _ => some (if s.mg.pgLock then s else s.setPartmap k w)
  | _, _, some k, _ => some (if s.mg.pgLock then s else { s with mg := { s.mg with fwdt := put k w s.mg.fwdt } })
  | _, _, _, some a =>
    some { s with mg := { s.mg with shtcfg := putD 0 a (only w [(63, 1), (58, 5), (8, 31)]) s.mg.shtcfg } }
  | none, none, none, none =>
    match off with
    | 0x3040 => some { s with mg := { s.mg with apcfg := putD 0 port (only w [(63, 1), (40, 17), (0, 4)]) s.mg.apcfg } }
    | 0x3108 => some { s with mg := { s.mg with mkpay := putD 0 0 w s.mg.mkpay } }
    | 0x3110 => some { s with mg := { s.mg with mkpay := putD 0 1 w s.mg.mkpay } }
    | 0x3188 => some { s with mg := { s.mg with mkpay := putD 0 2 w s.mg.mkpay } }
    | 0x3190 => some { s with mg := { s.mg with mkpay := putD 0 3 w s.mg.mkpay } }
    | _ => (regIndex off 0x5000 128).map fun k => s.setMsix port k w

/-- The fields of word j of a range entry (R115). -/
def rangeFields (j : Nat) (w : W64) : W64 :=
  match j with
  | 0 => only w [(16, 41), (0, 1)]
  | 1 => only w [(0, 41)]
  | 2 => only w [(0, 39)]
  | _ => 0

/-- The write of a table: command box, range tables, scheduler memory. -/
def State.writeTable (s : State) (off : Nat) (w : W64) : State :=
  match regIndex off 0x7000 512, regIndex off 0x100000 16384, regIndex off 0x1000000 (smEnd / 8) with
  | some k, _, _ => { s with mg := { s.mg with mcbox := storeNat s.mg.mcbox (8 * k) 8 w.toNat,
                                               mcWrote := if s.mg.mcBusy then insSet k s.mg.mcWrote else s.mg.mcWrote } }
  | _, some k, _ => { s with mg := { s.mg with ranges := putD 0 k (rangeFields (k % 4) w) s.mg.ranges } }
  | _, _, some k => { s with sched := { s.sched with mem := storeNat s.sched.mem (8 * k) 8 w.toNat } }
  | none, none, none => s

/-- A host's write of 8 bytes at an offset of the management window whose register has no step of its own: RW fields are
set, W1C bits cleared, and what is RO or not there ignored. -/
def execRegisterWrite (port off : Nat) (w : W64) (s : State) : Res :=
  .next (match s.writeSched off w, s.writeFabric port off w with
    | some s, _ => s
    | none, some s => s
    | none, none =>
      match off with
      | 0x0C10 => if fld w 62 2 = 0 then s.schpreNone else s
      | 0x0818 => { s with mg := { s.mg with ivqOvf := s.mg.ivqOvf && fld w 48 1 == 0 } }
      | 0x6040 => s.badDoor
      | 0x6048 => { s with mg := { s.mg with mcErr := s.mg.mcErr && fld w 1 1 == 0 } }
      | _ => s.writeTable off w)

/-! ### What a host reads (R5, R23, R360, R438) -/

/-- The first value that is there. -/
def firstOf : List (Option W64) → Option W64
  | [] => none
  | some w :: _ => some w
  | none :: l => firstOf l

/-- MSCFG and IVQ_STAT. -/
def State.mscfg (s : State) : W64 := word64 [(16, s.mg.slices.length), (1, bitNat s.mg.msBusy), (0, bitNat s.mg.msEn)]
def State.ivqStat (s : State) : W64 := word64 [(48, bitNat s.mg.ivqOvf), (32, s.mg.ivq.length), (0, s.mg.ivqDone)]

/-- SCHTSTAT and SCHQ_n. -/
def State.schtstat (s : State) : W64 :=
  word64 [(49, bitNat s.sched.ref), (48, bitNat s.sched.ovf), (40, s.sched.badg), (32, s.sched.trigs.length), (0, s.sched.trigCount)]
def State.schq (s : State) (n : Nat) : W64 :=
  let c := getD QCfg.reset s.sched.qcfg n
  word64 [(32, (getD [] s.sched.queues n).length), (16, c.age), (4, bitNat c.nobf), (0, c.prio)]

/-- BOOTST, PWRCEIL, LNKLIM, MCSTAT. -/
def State.bootst (s : State) : W64 := word64 [(48, s.mg.failTiles), (5, bitNat s.mg.ready), (4, bitNat s.mg.recov), (0, s.mg.stage)]
def State.pwrceil (s : State) : W64 := word64 [(63, bitNat s.mg.pwrLock), (16, s.mg.fmax), (0, s.mg.pwrCeil)]
def State.lnklim (s : State) : W64 := word64 [(63, bitNat s.mg.lnkLock), (0, s.mg.portEn)]
def State.mcstat (s : State) : W64 := word64 [(1, bitNat s.mg.mcErr), (0, bitNat s.mg.mcBusy)]

/-- ERRSTAT, XFSTAT, KATSTAT. -/
def State.errstat (s : State) : W64 := word64 [(48, s.mg.errCE), (32, s.mg.errUE), (16, s.mg.errGW), (0, s.mg.errHPF)]
def State.xfstat (s : State) : W64 := word64 [(32, (s.mg.xfrec.filter fun (_, r) => r.valid).length), (0, s.mg.xfTotal)]
def State.katstat (s : State) : W64 :=
  word64 [(32, s.mg.katRounds), (16, s.mg.katResid), (8, s.mg.katFails), (0, s.mg.katSkip)]

/-- PRST. -/
def State.prstWord (s : State) : W64 := word64 [(63, bitNat s.mg.prst.isSome)]

/-- The eight bytes of a byte list from word k on. -/
def wordAt (l : List Byte) (k : Nat) : W64 := BitVec.ofNat 64 (leNat ((l.drop (8 * k)).take 8))

/-- Exactly n bytes of a list, zeros where it ends. -/
def fit (n : Nat) (l : List Byte) : List Byte := l.take n ++ List.replicate (n - l.length) 0

/-- The single registers of the window. -/
def State.readOne (s : State) (port off : Nat) : Option W64 :=
  match off with
  | 0x0000 => some s.devid
  | 0x0008 => some s.mg.pkgnum
  | 0x0010 => some s.dieCount
  | 0x0800 => some s.mscfg
  | 0x0818 => some s.ivqStat
  | 0x0C08 => some s.schtstat
  | 0x0C18 => some s.sched.schpst
  | 0x0C28 => some s.sched.rkb
  | 0x0C30 => some s.sched.rkl
  | 0x0C38 => some (BitVec.ofNat 64 s.mg.fltcnt)
  | 0x2A80 => some (BitVec.ofNat 64 (bitNat s.mg.pgLock))
  | 0x3040 => some (getD 0 s.mg.apcfg port)
  | 0x3100 => some (getD 0 s.mg.mkfmt 0)
  | 0x3108 => some (getD 0 s.mg.mkpay 0)
  | 0x3110 => some (getD 0 s.mg.mkpay 1)
  | 0x3118 => some (BitVec.ofNat 64 (getD 0 s.mg.mkcnt 0))
  | 0x3180 => some (getD 0 s.mg.mkfmt 1)
  | 0x3188 => some (getD 0 s.mg.mkpay 2)
  | 0x3190 => some (getD 0 s.mg.mkpay 3)
  | 0x3198 => some (BitVec.ofNat 64 (getD 0 s.mg.mkcnt 1))
  | 0x5400 => some (getD 0 s.mg.msixPba port)
  | 0x6000 => some s.bootst
  | 0x6008 => some s.pwrceil
  | 0x6010 => some s.mg.pwrStat
  | 0x6018 => some (BitVec.ofNat 64 s.mg.stopNs)
  | 0x6020 => some s.lnklim
  | 0x6048 => some s.mcstat
  | 0x8800 => some s.xfstat
  | 0x8810 => some s.mg.fltcfg
  | 0x8818 => some s.errstat
  | 0x8820 => some s.mg.errLast
  | 0x8A00 => some s.prstWord
  | 0x8C00 => some s.mg.katcfg
  | 0x8C08 => some s.katstat
  | 0x8C18 => some s.mg.htres
  | 0x8C20 => some s.mg.hangcfg
  | 0x8C28 => some (BitVec.ofNat 64 s.mg.hangRecs)
  | _ => none

/-- A word of MCBOX: unspecified during a command or a check (R439). -/
def State.mcboxWord (s : State) (k : Nat) : W64 :=
  if s.mg.mcBusy then Config.freeWord (2 ^ 67 + 512 * s.cyc + k) else wordOfBytes s.mg.mcbox (8 * k)

/-- The rows of registers and tables of the window. -/
def State.readRow (s : State) (port off : Nat) : Option W64 :=
  firstOf [
    (regIndex off 0x0100 16).map (mapWord s.mg.tileEn),
    (regIndex off 0x0180 16).map (mapWord s.mg.routeEn),
    (regIndex off 0x0200 16).map (mapWord s.mg.svc),
    (regIndex off 0x0280 16).map (mapWord s.mg.vltsvc),
    (regIndex off 0x0400 128).map fun k => word64 ((List.range 8).map fun j => (8 * j, s.cacheMib (8 * k + j))),
    (regIndex off 0x0A00 16).map (getD 0 s.mg.shtcfg),
    (regIndex off 0x0C40 64).map s.schq,
    (regIndex off 0x1000 256).map (getD 0 s.sched.schgr),
    (regIndex off 0x1800 256).map fun g => BitVec.ofNat 64 (getD 0 s.sched.schgc g),
    (regIndex off 0x2000 144).map s.lane,
    (regIndex off 0x2A00 16).map (getD 0 s.mg.part),
    (regIndex off 0x2B00 64).map (getD 0 s.mg.partmap),
    (regIndex off 0x3000 8).map fun k => getD 0 s.mg.hwin (8 * port + k),
    (regIndex off 0x4000 512).map (getD 0xFFFFFFFFFFFFFFFF s.mg.fwdt),
    (regIndex off 0x5000 128).map (s.msixWord port),
    (regIndex off 0x6100 8).map (wordAt (fit 57 Config.identityKey)),
    (regIndex off 0x6200 64).map fun k => wordAt (getD [] s.mg.meas (k / 8)) (k % 8),
    (regIndex off 0x7000 512).map s.mcboxWord,
    (regIndex off 0x8000 256).map fun k => ((s.mg.xfrec.find? (·.1 == k / 4)).map fun r => nth r.2.words (k % 4) 0).getD 0,
    (regIndex off 0x8900 16).map (mapWord s.mg.rtsvc),
    (regIndex off 0x8B00 32).map fun k => word64 ((List.range 32).map fun j => (2 * j, getD 0 s.mg.vapal (32 * k + j))),
    (regIndex off 0x100000 16384).map (getD 0 s.mg.ranges),
    (regIndex off 0x400000 262144).map fun k => nth (getD [] (s.tile (k / 256)).hlog (k % 256 / 4)) (k % 4) 0,
    (regIndex off 0x600000 1024).map fun n => word64 [(32, (s.tile n).hflLost), (0, (s.tile n).hflWr)],
    (regIndex off 0x680000 1024).map fun n => if s.mg.tileEn.contains n then (s.tile n).palette else 0,
    (regIndex off 0x800000 8192).map fun k => nth (getD [] s.mg.fltlog (k / 8)) (k % 8) 0,
    (regIndex off 0x900000 8192).map fun k => nth (getD [] s.mg.hangLog (k / 4)) (k % 4) 0,
    (regIndex off 0x1000000 (smEnd / 8)).map fun k => wordOfBytes s.sched.mem (8 * k)]

/-- What 8 bytes at an offset of the management window read as, through a host port; WO registers and offsets that hold
none read as zero. -/
def State.mgmtRead (s : State) (port off : Nat) : W64 := firstOf [s.readOne port off, s.readRow port off] |>.getD 0

end Sys2Proof.Machine
end

