-- ==== Sys2Proof/Machine/Host.lean ====
section
/-!
DEFINITION. Accesses through the aperture of a host port (R415, R420, R421, R492, R508), mark stages (R421 to R425, R470),
bring-up, recovery and the commands of the management controller (R426 to R434, R508).
-/

namespace Sys2Proof.Machine

/-! ### The aperture (R415) -/

/-- An aperture access travels for the partition of the address space that APCFG names (R418). -/
def hostTrace (asp owner : Nat) : Trace :=
  { site := 0, slot := 0, pc := 0, iw := 0, opd := 0, op1 := 0, op2 := 0, l := 0, node := 0, wid := 0, chan := none, kern := 0,
    asp := asp, owner := owner, tag := none }

/-- An aperture access is refused and counted (R492, R498). -/
def State.hostRefused (s : State) : State := { s with mg := { s.mg with errHPF := (s.mg.errHPF + 1) % 2 ^ 16 } }

/-- The address space of a port's aperture, and its owner. -/
def State.apSpace (s : State) (port : Nat) : Nat := fld (getD 0 s.mg.apcfg port) 0 4

/-- Where an aperture access of a port goes: its bytes, past the edge bridge of the port. -/
def State.apLocate (s : State) (port : Nat) (off : W64) (n : Nat) (k : AKind) : Except EErr (List Piece) × State :=
  let cfg := getD 0 s.mg.apcfg port
  let asp := s.apSpace port
  let owner := s.ownerOf asp
  if fld cfg 63 1 = 0 || 2 ^ 40 < off.toNat + n then (.error (.bad 5 5 0), s)
  else if (s.gatePkg owner).isSome then (.error (.bad 12 2 0), s.countGw)
  else
    s.locateAll (portHost port) ((s.edgeSite port 0).getD 0) (hostTrace asp owner) k
      (cutRange (BitVec.ofNat 64 (fld cfg 40 17 * 2 ^ 40 + off.toNat)) n)

/-- A completion leaves for the host. -/
def State.answerHost (s : State) (o : Out) : State := { s with outbox := s.outbox ++ [o] }

/-- A host read: of a MARKED page it completes with Completer Abort, where translation or a gateway refuses it with
Unsupported Request. -/
def execApertureRead (port : Nat) (off : W64) (size : Nat) (ext : List ExtRead) (s : State) : Res :=
  .next (match s.apLocate port off size .read with
    | (.error .wait, _) => s
    | (.error _, s) => s.hostRefused.answerHost (.readFail port false)
    | (.ok l, t) =>
      if l.any (·.marked) then t.hostRefused.answerHost (.readFail port true)
      else
        match t.readPieces (s.apSpace port) (fun _ => []) ext l with
        | .error (.bad _ _ _) => t.hostRefused.answerHost (.readFail port false)
        | .error _ => s
        | .ok (b, t) => t.answerHost (.readReply port (b.map (·.1)) (anyBad b)))

/-- A host write, with EP of its TLP; a sealed window takes none. -/
def execApertureWrite (port : Nat) (off : W64) (data : List Byte) (ep : Bool) (s : State) : Res :=
  .next (match s.apLocate port off data.length .write with
    | (.error .wait, _) => s
    | (.error _, s) => s.hostRefused
    | (.ok l, t) =>
      if l.any (·.sealed) then t.hostRefused
      else
        let asp := s.apSpace port
        let b := data.map (·, ep)
        let u := (t.writePieces (hostTrace asp (s.ownerOf asp)) l b).receivedAll l b
        { u with hostAcks := u.hostAcks ++ (List.range (u.nextMsg - t.nextMsg)).map fun i => (t.nextMsg + i, asp) })

/-- Whether an AtomicOp is one that the port completes: FetchAdd, Swap or CAS of 4 or 8 bytes, aligned. -/
def hostAtomic (off : W64) (op : AOp) (size : Nat) : Bool :=
  (op == .add || op == .swap || op == .cas) && (size == 2 || size == 3) && off.toNat % 2 ^ size == 0

/-- The AtomicOp at its place; that of another package answers with ext. -/
def State.hostPerform (s t : State) (port : Nat) (op : AOp) (size : Nat) (data swap : W64) (ext : Option W64) (q : Piece) :
    State :=
  let asp := s.apSpace port
  let n := 2 ^ size
  let dest := destPackage t.pkg q.p
  if dest = t.pkg then
    let m := memAt q.p q.off
    match t.opFail m op n asp with
    | some _ => (t.countRead m op n (t.keyOf asp)).hostRefused.answerHost (.readFail port false)
    | none =>
      let x := t.valueAt m n
      (t.writeMem m asp ((leBytes n (performOp op size data swap x)).map (·, false))).answerHost (.readReply port (leBytes n x) false)
  else
    let r : Req := { src := t.coord 0, id := t.nextMsg, kind := .ratf op size data swap, addr := q.addr,
                     phys := some q.p, mem := false, tr := hostTrace asp (s.ownerOf asp) }
    let t := t.answerHost (.msg dest (.req r))
    match ext with
    | some x => t.answerHost (.readReply port (leBytes n x.toNat) false)
    | none => t.hostRefused.answerHost (.readFail port false)

/-- A host AtomicOp: OP 0x1, 0x9 or 0xA of R149. -/
def execApertureAtomic (port : Nat) (off : W64) (op : AOp) (size : Nat) (data swap : W64) (ext : Option W64) (s : State) : Res :=
  .next (
    if !hostAtomic off op size then s.hostRefused.answerHost (.readFail port false)
    else
      match s.apLocate port off (2 ^ size) .fetch with
      | (.error .wait, _) => s
      | (.ok [q], t) =>
        if q.marked || q.sealed then t.hostRefused.answerHost (.readFail port true)
        else s.hostPerform t port op size data swap ext q
      | (_, t) => t.hostRefused.answerHost (.readFail port false))

/-! ### Mark stages (R422 to R425) -/


/-- SAT(Y + d, 0, 255). -/
def markSample (y : Byte) (up : Bool) : Byte :=
  if up then BitVec.ofNat 8 (Nat.min (y.toNat + 1) 255) else BitVec.ofNat 8 (y.toNat - 1)

/-- The block and the bit within it of luma byte i of a frame W wide. -/
def markPlace (w i : Nat) : Nat × Nat := (i / w / 8 * (w / 8) + i % w / 8, 8 * (i / w % 8) + i % w % 8)

/-- A marked frame: each luma sample goes up by one where its key-stream bit and payload bit differ, down where they agree. -/
def markFrame (f : MarkFmt) (ks : List Byte) (pay : Nat → Bool) (l : List Byte) : List Byte :=
  l.mapIdx fun i y =>
    if i < f.w * f.h then
      let (b, j) := markPlace f.w i
      let k := 64 * b + j
      markSample y (bitOf (nth ks (k / 8) 0).toNat (k % 8) != pay (b % 128))
    else y

/-- ASCII text as bytes. -/
def ascii (s : String) : List Byte := s.toList.map fun c => BitVec.ofNat 8 c.toNat

/-- The manifest record of a frame: its signed part, the signature, and zeros. -/
def manifest (f : MarkFmt) (k n gtime : Nat) (pay0 pay1 : W64) (frame : List Byte) : List Byte :=
  let head := fit 0x78 (ascii "MLVMARK1" ++ leBytes 8 n ++ leBytes 2 f.w ++ leBytes 2 f.h ++ leBytes 1 f.format ++ leBytes 1 k ++
    [0, 0] ++ leBytes 8 gtime ++ leBytes 8 pay0.toNat ++ leBytes 8 pay1.toNat ++ fit 64 (Config.shake256 frame 64))
  fit 256 (head ++ fit 114 (Config.identitySign (Config.shake256 head 64)))

/-- A frame with its record, as a stage writes them. -/
def State.marked (s : State) (k : Nat) (l : List Byte) : List Byte :=
  let f := s.markFmt k
  let n := getD 0 s.mg.mkcnt k
  let pay0 := getD 0 s.mg.mkpay (2 * k)
  let pay1 := getD 0 s.mg.mkpay (2 * k + 1)
  let ks := Config.shake256 (fit 32 (getD [] s.mg.mkey k) ++ leBytes 8 n ++ leBytes 2 f.w ++ leBytes 2 f.h) (f.w * f.h / 8)
  let frame := markFrame f ks (bitOf (pay0.toNat + 2 ^ 64 * pay1.toNat)) l
  frame ++ manifest f k n s.gtime.toNat pay0 pay1 frame


/-- The frame command at the head of an engine queue, with its ranges located: marked and written, or refused as R421
refuses. -/
def State.frameTo (s t : State) (e q : Nat) (c : ECmd) (rest : List ECmd) (ext : List ExtRead) (src dst : List Piece)
    (len : Nat) : State :=
  let refuse (t : State) : State := (t.setEngQueue e q rest).commandFault c 12 4 0
  let k := framePort dst
  let f := t.markFmt k
  if !f.en || len != f.length then refuse t
  else
    match t.readPieces c.tr.asp (ownSlots c.tr) ext src with
    | .error (.bad cls code v) => (t.setEngQueue e q rest).commandFault c cls code v
    | .error _ => s
    | .ok (b, t) =>
      if anyBad (struck c.beats 0 b) then refuse t
      else
        let t := t.writePieces c.tr dst ((t.marked k (b.map (·.1))).map (·, false))
        let t := { t with mg := { t.mg with mkcnt := putD 0 k ((getD 0 t.mg.mkcnt k + 1) % 2 ^ 64) t.mg.mkcnt } }
        t.finishHead e q c rest

/-- A mark stage takes the frame command at the head of an engine queue that feeds no route (R400, R422). -/
def execMarkFrame (e q : Nat) (ext : List ExtRead) (s : State) : Res :=
  .next (match s.engQueue e q with
    | [] => s
    | c :: rest =>
      match c.op with
      | .cpy dst src len =>
        if c.stopped || c.ran || s.cyc < c.iss + 4 || !(s.feeders e q).isEmpty then s
        else
          match s.locateAll e (s.engineSite e) c.tr .read (cutRange src len) with
          | (.error _, _) => s
          | (.ok ps, t) =>
            match t.locateAll e (s.engineSite e) c.tr .write (cutRange dst len) with
            | (.error _, _) => s
            | (.ok pd, t) =>
              if !isFrame ps pd then s
              else
                match t.locateAll e (s.engineSite e) c.tr .write (cutRange (dst + BitVec.ofNat 64 len) 256) with
                | (.error .wait, _) => s
                | (.error (.xlat kind code addr), t) =>
                  (t.setEngQueue e q ({ c with stopped := true } :: rest)).stopGen (.eng e q) (s.coord c.tr.site) c.tr.asp kind code
                    addr
                | (.error (.bad cls code v), t) => (t.setEngQueue e q rest).commandFault c cls code v
                | (.ok pr, t) =>
                  if pr.all (·.sealed) then s.frameTo t e q c rest ext ps (pd ++ pr) len
                  else (t.setEngQueue e q rest).commandFault c 12 4 0
      | _ => s)

/-! ### Firmware (R426 to R429) -/

/-- Bytes lo to lo + n - 1 of an image, zeros where it ends. -/
def sliceOf (l : List Byte) (lo n : Nat) : List Byte := fit n (l.drop lo)

/-- LEN of a firmware image. -/
def imageLen (l : List Byte) : Nat := leNat (sliceOf l 8 4)

/-- Whether the boot ROM accepts an image (R428). Header bytes that the table does not name are not among what it checks: an image
in which they are not zero is accepted (notes/assumptions/103.md). DEDUCED -/
def State.acceptsImage (s : State) (l : List Byte) : Bool :=
  let len := imageLen l
  sliceOf l 0 8 == ascii "MLVFWIMG" && decide (4096 ≤ len) && decide (len ≤ 2 ^ 23) && len % 64 == 0 &&
    Config.shake256 (sliceOf l 0x10 57) 32 == s.mg.keyHash && decide (s.mg.minSvn ≤ leNat (sliceOf l 0x0C 4)) &&
    Config.ed448Verify (sliceOf l 0x10 57) (sliceOf l 0x50 114)
      (Config.shake256 (sliceOf l 0 0x50 ++ sliceOf l 256 len) 64)

/-- A measurement; all zeros at reset (R431). -/
def State.measOf (s : State) (i : Nat) : List Byte := fit 64 (getD [] s.mg.meas i)

/-- MEAS_i is extended. -/
def State.extendMeas (s : State) (i : Nat) (x : List Byte) : State :=
  { s with mg := { s.mg with meas := put i (fit 64 (Config.shake256 (s.measOf i ++ x) 64)) s.mg.meas } }

/-- What package reset leaves as it is: the fuses, the firmware flash, the hosts' memories, what has left the package, and
what the outside world still brings. The memories of the package keep their contents or are as at State.reset, as a free bit
says (notes/assumptions/25.md). -/
def State.afterReset (s : State) : State :=
  let keep := Config.freeBit s.free
  let mg := { Mgmt.reset with tileEn := s.mg.tileEn, routeEn := s.mg.routeEn, svc := s.mg.tileEn, vltsvc := s.mg.tileEn,
                              rtsvc := s.mg.routeEn, tables := s.mg.routeEn, step := s.mg.step, fmax := s.mg.fmax, pwrCeil := s.mg.fmax, pwrTop := s.mg.fmax,
                              minSvn := s.mg.minSvn, keyHash := s.mg.keyHash, flash := s.mg.flash,
                              vapal := s.mg.tileEn.map (·, 3) }
  let old : Sparse Tile := s.tiles.map fun (n, (t : Tile)) =>
    (n, { Tile.reset with sram := t.sram, sramPoison := t.sramPoison, plane := t.plane, planePoison := t.planePoison,
                          acc := t.acc, accPoison := t.accPoison })
  let mem : State := if keep then
      { State.reset with tiles := old, vault := s.vault, vaultPoison := s.vaultPoison, hbm := s.hbm, hbmPoison := s.hbmPoison,
                         hbmLost := s.hbmLost, hbmKey := s.hbmKey, sched := { Sched.reset with mem := s.sched.mem } }
    else State.reset
  { mem with mg := { mg with hbmDead := if keep then s.mg.hbmDead else [] }, host0 := s.host0, host1 := s.host1, hostPoison := s.hostPoison, agenda := s.agenda, free := s.free + 1, nextMsg := s.nextMsg,
             outbox := s.outbox }

/-- The self-test's outcome for a site: what R427 tests there, once per site. -/
def State.selfTest (s : State) (tests : List (Nat × TestResult)) : State :=
  let l := tests.filter fun (n, _) => s.mg.tileEn.contains n
  let t := l.foldl (fun s (n, r) => s.applyTest n { r with intPath := false, fpPath := false }) s
  let changed := s.mg.tileEn.filter fun n => t.mg.svc.contains n != s.mg.svc.contains n || (t.tile n).palette != (s.tile n).palette
  { t with mg := { t.mg with failTiles := changed.length }, todo := s.todo }

/-- An accepted image is copied into management-controller memory, and is started at offset 0 of its body. -/
def State.startFirmware (s : State) (l : List Byte) : State :=
  { s with mg := { s.mg with mcMem := sliceOf l 0 (256 + imageLen l), mcStart := some 256, stage := 6 } }

/-- The end of stage 4: the image in flash is checked; firmware start, or recovery. -/
def State.checkFlash (s : State) : State :=
  let l := s.mg.flash
  if s.acceptsImage l then (s.extendMeas 0 (sliceOf l 0 (256 + imageLen l))).startFirmware l
  else { s with mg := { s.mg with stage := 5, recov := true } }

/-- Package reset: bring-up starts at stage 0, and its self-test is to find what the event says. -/
def execPackageReset (tests : List (Nat × TestResult)) (s : State) : Res :=
  .next (let s := s.afterReset
    { s with mg := { s.mg with boot := some tests } })

/-- A stage of bring-up comes to its end, and the next begins (R426). -/
def State.nextStage (s : State) (tests : List (Nat × TestResult)) : State :=
  let at' (s : State) (n : Nat) : State := { s with mg := { s.mg with stage := n, stageAt := s.cyc } }
  match s.mg.stage with
  | 0 => at' s 1
  | 1 => at' s 2
  | 2 => at' (s.selfTest tests) 3
  | 3 => at' { s with mg := { s.mg with tables := s.mg.routeEn } } 4
  | _ => { s.checkFlash with mg := { s.checkFlash.mg with boot := none } }

/-- Bring-up in a cycle: whether its present stage comes to its end a free bit says; the self-test lasts no more than 2^26 cycles
(R427; notes/assumptions/27.md). DESIGN CHOICE -/
def State.bringUp (s : State) : State :=
  match s.mg.boot with
  | none => s
  | some tests =>
    let t := { s with free := s.free + 1 }
    if Config.freeBit s.free || (s.mg.stage = 2 && decide (s.mg.stageAt + 2 ^ 26 ≤ s.cyc + 1)) then t.nextStage tests else t

/-- The firmware sets BOOTST.READY. -/
def execFirmwareReady (s : State) : Res :=
  .next (if s.mg.stage = 6 then { s with mg := { s.mg with stage := 7, ready := true } } else s)

/-! ### The door of the management controller (R429, R432, R439) -/

/-- A command or an image is taken: BUSY reads 1, and MCBOX is kept as it stands. -/
def State.takeDoor (s : State) (w : W64) : State :=
  { s with mg := { s.mg with mcBusy := true, mcCmd := some (w, s.mg.mcbox), mcWrote := [] } }

/-- The reply stands: MCBOX holds what it held, or the reply, and each word that a host wrote meanwhile as a free bit says; and BUSY
reads 0. -/
def State.closeDoor (s : State) (box : List Host.Cell) : State :=
  let (bits, t) := s.drawBits s.mg.mcWrote.length
  let box := (s.mg.mcWrote.zip bits).foldl (fun b (k, own) =>
    if own then setBytes b (8 * k) (bytesAt s.mg.mcbox (8 * k) 8) else b) box
  { t with mg := { t.mg with mcBusy := false, mcCmd := none, mcWrote := [], mcbox := box } }

/-- In recovery a write to MCDOOR (some) starts the check of the image in scheduler memory, and at its end (none) the image goes to
flash and is started, or is refused. A write during a check is ignored. -/
def execRecoveryImage (w : Option W64) (s : State) : Res :=
  .next (
    if s.mg.stage != 5 then s
    else
      match w, s.mg.mcCmd with
      | some w, none => s.takeDoor w
      | some _, some _ => s
      | none, none => s
      | none, some (w, _) =>
        let l := bytesAt s.sched.mem 0 (fld w 0 24)
        let s := s.closeDoor s.mg.mcbox
        if s.acceptsImage l then { s with mg := { s.mg with flash := l } }.startFirmware l
        else { s with mg := { s.mg with mcErr := true } })

/-! ### Commands of the management controller (R430 to R434) -/

/-- A command with a code: a write to MCDOOR (some) that has the code in MCBOX is taken once the device is ready, before that it is
answered with ERR, and while a command is in progress it is ignored (notes/assumptions/102.md); the command taken is performed with
MCBOX as it stood, and its reply stands (none). DEDUCED -/
def State.mcCommand (s : State) (code : Nat) (w : Option W64) (act : State → W64 → State) : State :=
  match w, s.mg.mcCmd with
  | some w, none => if mcCode s != code || s.mg.stage = 5 then s else if s.mg.stage < 7 then s.badDoor else s.takeDoor w
  | some _, some _ => s
  | none, none => s
  | none, some (w, box) =>
    if s.mg.stage < 7 || fld (wordOfBytes box 0) 0 8 != code then s
    else
      let t := act { s with mg := { s.mg with mcbox := box } } w
      { t with mg := { t.mg with mcbox := s.mg.mcbox } }.closeDoor t.mg.mcbox

/-- Bytes of MCBOX. -/
def State.box (s : State) (a n : Nat) : List Byte := bytesAt s.mg.mcbox a n

/-- A command is refused. -/
def State.mcRefuse (s : State) : State := { s with mg := { s.mg with mcErr := true } }

/-- The attestation report (R433). -/
def State.report (s : State) (nonce dev host : List Byte) : List Byte :=
  let body := fit 0x2B0 (ascii "MLVATTS1" ++ nonce ++ leBytes 8 s.devid.toNat ++ leBytes 8 s.mg.pkgnum.toNat ++
    leBytes 4 s.mg.minSvn ++ [0, 0, 0, 0] ++ (List.range 8).flatMap s.measOf ++ dev ++ host)
  fit 1024 (body ++ fit 114 (Config.identitySign (Config.shake256 body 64)))

/-- ATTEST: the report, and a session where the host sends a key. -/
def State.attest (s : State) : State :=
  let nonce := s.box 0x08 32
  let host := s.box 0x28 56
  if host.all (· == 0) then
    let report := s.report nonce (List.replicate 56 0) host
    { s with mg := { s.mg with session := none, mcbox := setBytes s.mg.mcbox 0 report } }
  else
    let dev := fit 56 (Config.sessionPublic s.free)
    let k := Config.shake256 (ascii "MLVSESS1" ++ Config.sessionSecret s.free host ++ nonce ++ dev ++ host) 32
    let report := s.report nonce dev host
    { s with free := s.free + 1, mg := { s.mg with session := some k, mcbox := setBytes s.mg.mcbox 0 report } }

def execAttest (w : Option W64) (s : State) : Res := .next (s.mcCommand 1 w fun s _ => s.attest)

/-- EXTEND: MEAS_1 to MEAS_7, by the bytes from 0x40 to the command's length. -/
def execExtend (w : Option W64) (s : State) : Res :=
  .next (s.mcCommand 2 w fun s w =>
    let i := (nth (s.box 8 1) 0 0).toNat
    if i = 0 || 7 < i || fld w 0 24 < 0x40 || 4096 < fld w 0 24 then s.mcRefuse
    else s.extendMeas i (s.box 0x40 (fld w 0 24 - 0x40)))

/-- The keys of a KEYLOAD or MARKKEY, unwrapped under the session key. -/
def State.unwrap (s : State) (n : Nat) : Option (List Byte) := s.mg.session.bind fun k => Config.keyUnwrap k (s.box 0x40 n)

/-- A refused KEYLOAD or MARKKEY ends the session. -/
def State.endSession (s : State) : State := { s.mcRefuse with mg := { s.mcRefuse.mg with session := none } }

/-- Whether a partition has a placed node or a saved node (R508). -/
def State.partBusy (s : State) (asp : Nat) : Bool :=
  !(s.partNodes asp .placed).isEmpty || !(s.partNodes asp .saved).isEmpty ||
    s.tiles.any fun (_, (t : Tile)) => t.kernels.any (·.asp == asp)

def execKeyload (w : Option W64) (s : State) : Res :=
  .next (s.mcCommand 3 w fun s _ =>
    let a := (nth (s.box 8 1) 0 0).toNat
    match s.unwrap 104 with
    | some l =>
      if 16 ≤ a || s.partBusy a then s.endSession
      else { s with mg := { s.mg with keys := put a (fit 96 l) s.mg.keys } }
    | none => s.endSession)

def execMarkkey (w : Option W64) (s : State) : Res :=
  .next (s.mcCommand 4 w fun s _ =>
    let k := (nth (s.box 8 1) 0 0).toNat
    match s.unwrap 40 with
    | some l =>
      if 2 ≤ k then s.endSession else { s with mg := { s.mg with mkey := put k (fit 32 l) s.mg.mkey } }
    | none => s.endSession)

end Sys2Proof.Machine
end

