-- ==== Sys2Proof/Machine/Clock.lean ====
section
/-!
DEFINITION. What a cycle brings about by itself: the passing of the clock with the local accesses of the new cycle, and
what the slot that owns a tile's position does there (R34, R48, R129, R132, R177, R481).
-/

namespace Sys2Proof.Machine

/-! ### Positions (R33, R34) -/

/-- The slot that owns a tile's position in a cycle, 8 or more where none does. -/
def Tile.owner (t : Tile) (cyc : Nat) : Nat := fld t.wheel (4 * (cyc % 16)) 4


/-! ### Passing of a cycle -/

/-- Each runnable, unmasked entry grows older (R54). -/
def Tile.ageEntries (t : Tile) : Tile :=
  { t with hste := t.hste.map fun (n, h) =>
      (n, if 0 < h.pend && !h.running && hentValid (t.hentOf n) && !hentMask (t.hentOf n) then
        { h with age := Nat.min (h.age + 1) 0xFFFF } else h) }

/-- A running handler counts its own positions after its selection (R524). -/
def Tile.countHandler (t : Tile) (cyc : Nat) : Tile :=
  let n := t.owner cyc
  if n < 8 && (t.slot n).hnd.isSome then
    t.modSlot n fun x => { x with hnd := x.hnd.map fun h => { h with counted := h.counted + 1 } }
  else t

/-- The cycle since which LOCAL has read 1 (R289). -/
def Tile.markLocal (t : Tile) (cyc : Nat) : Tile :=
  { t with box := { t.box with localAt := if t.box.isLocal then some (t.box.localAt.getD cyc) else none } }

/-- The packet at the head of a tile's egress queue leaves (R158), except while the routing tables are rewritten
(R510). -/
def State.emitEgress (s : State) (site : Nat) : State :=
  match (s.tile site).egress with
  | [] => s
  | (_, p) :: rest =>
    if s.rewriting then s else (s.modTile site fun t => { t with egress := rest }).depart (destPackage s.pkg p.dst) (.packet p)

/-- Whether a slot is to stop at its own position: those of its node stop (R385, R466). -/
def State.slotStops (s : State) (site slot : Nat) : Bool :=
  let k := (s.tile site).kernelOf (s.slot site slot).kern
  s.nodeStopped k.l k.node

/-- The local accesses of a tile whose SRAM cycle is the present one. -/
def State.performSite (s : State) (site : Nat) : State :=
  let due := (s.tile site).accesses.filter fun a => a.cyc ≤ s.cyc
  let s := s.modTile site fun t => { t with accesses := t.accesses.filter fun a => !decide (a.cyc ≤ s.cyc) }
  due.foldl (fun s a => s.performAccess site a) s

/-- The steps of a tile that fall due at the start of a cycle, in their order. -/
def Tile.dueEvents (t : Tile) (site cyc : Nat) : List Instr :=
  ((t.slots.filter fun (_, x) => x.pend.any fun p => p.land ≤ cyc).map fun (k, _) => Instr.landingCycle site k) ++
    (if t.arrivals.any fun a => a.due ≤ cyc + 2 && a.entry.isNone then [.arrivalCounts site] else []) ++
    ((List.range 32).filter fun n => decide (0 < (t.hsteOf n).pend) && !(t.hsteOf n).running && 4096 ≤ (t.hsteOf n).age &&
      !(t.hsteOf n).aged).map (Instr.handlerAged site)

/-- The steps of a tile in a cycle after its position: the insertion stage, then the triggers of the end of the cycle, then
the hand-off of a hamper closed before (R150, R154, R157). -/
def Tile.lateEvents (t : Tile) (site cyc : Nat) : List Instr :=
  (match t.insQ with | (c, _) :: _ => if c ≤ cyc then [.insertionStage site] else [] | [] => []) ++
    ((t.hampers.filter fun (_, h) => h.closed.isNone && decide (h.first + h.age ≤ cyc)).map fun (n, _) =>
      Instr.hamperAgeTrigger site n) ++
    (if t.hampers.any fun (_, h) => h.closed.any (· < cyc) then [.handOff site] else [])

/-- What the reduction tree brings of the other packages of a launch for its announcement of OLDEST: a free value, where there are
any (notes/assumptions/99.md). DESIGN CHOICE -/
def State.leastElsewhere (s : State) (a : Launch) : Option Nat :=
  if (s.packages (s.graphHdr a.graph)).all (· == s.pkg) then none else Config.freeLeast s.cyc a.l

/-- The steps of the scheduler that fall due at the start of a cycle: a selection round at least once in 1,024 cycles while a
node is queued (R374), the announcement of OLDEST once in 8,192 (R347), the end of TMO (R384), the end of a node of which nothing
is left here (R466), and the sweep of a node that has become stalled (R525). -/
def State.schedEvents (s : State) : List Instr :=
  (if s.cyc % 1024 = 0 && s.sched.queues.any fun (_, q) => !q.isEmpty then [.selectionRound] else []) ++
    (if s.cyc % 8192 = 0 then s.sched.launches.map fun a => Instr.oldestAnnounce a.l (s.leastElsewhere a) else []) ++
    ((s.sched.preempts.filter fun p => p.ending && (s.partOf p.l p.node).isEmpty).map fun p => Instr.savePoint p.l p.node 0) ++
    ((s.sched.preempts.filter fun p => p.compact && !p.stopped && p.due.any (· ≤ s.cyc)).map fun p =>
      Instr.compactTimeout p.l p.node) ++
    (if fld s.mg.hangcfg 63 1 = 1 && s.sched.launches.any fun a => a.nodes.any fun (n, x) => s.stalled a n x then [.hangSweep]
     else [])

/-- The end of a cycle, once everything of it has come about: what has been held too long is declared (R505), each phase completes
whose conditions hold (R311), and records of the scheduler that waited leave. -/
def State.closeCycle (s : State) : State :=
  let s := s.declareAll.failLate.completePhases
  { s with sched := { s.sched with posted := [] } }.flushPosted s.sched.posted

/-- The cycle ends, and the next one begins. -/
def State.tick (s : State) : State :=
  let s := s.closeCycle.bringUp.resetGoes
  let s := { s with tiles := s.tiles.map fun (n, (t : Tile)) => (n, t.closeEnded s.cyc), cyc := s.cyc + 1 }.testRounds
  let sites := s.tiles.map (·.1)
  let s := sites.foldl State.performSite s
  let s := sites.foldl State.emitEgress s
  let s := { s with tiles := s.tiles.map fun (n, (t : Tile)) => (n, ((t.ageEntries).countHandler s.cyc).markLocal s.cyc) }
  { s with
    todo := s.todo ++ (s.tiles.flatMap fun (n, (t : Tile)) => t.dueEvents n s.cyc) ++ s.schedEvents,
    issues := sites.filter fun n =>
      let t := s.tile n
      let x := t.slot (t.owner s.cyc)
      (s.mg.svc.contains n || s.slotStops n (t.owner s.cyc)) && decide (t.owner s.cyc < 8) &&
        (x.state.acts || (x.deferredDue s.cyc).isSome),
    late := s.tiles.flatMap fun (n, (t : Tile)) => t.lateEvents n s.cyc }

/-! ### The slot at its own position -/

/-- The codes of class 1 that a word raises at its slot (R474, R486): of its bits, and of the slot's grant. -/
def State.wordCode (s : State) (w : Nat) : Option Nat :=
  match decodeRaw w with
  | none => some 1
  | some r => pickCode (kindAs (if s.me.count = 0 then 10 else 4) r.codes ++
      grantCodes w s.me.count s.kern.accs.length)

/-- A slot in RUN at its own position: the word at its program counter is fetched, decoded and executed. -/
def State.runWord (s : State) (run : Instr → State → Res) : Res :=
  if s.kern.sram / 8 ≤ s.me.pc then run (.sequentialPcFault s.curSite s.curSlot) s
  else
    let (w, s) := s.fetch
    if s.fetchPoisoned then .next (s.trapAt w.toNat ⟨11, 2, BitVec.ofNat 64 (8 * s.me.pc), 0⟩)
    else
      match s.wordCode w.toNat, decode w with
      | some c, _ => .next (s.trapAt w.toNat ⟨1, c, 0, 0⟩)
      | none, .ok i => run i s
      | none, .encodingFault c => .next (s.trapAt w.toNat ⟨1, c, 0, 0⟩)

/-- The site acts again at the same position where the slot has come to RUN. -/
def againIf (site slot : Nat) (r : Res) : Res :=
  match r with
  | .next s => .next (if (s.slot site slot).state == .run then { s with issues := site :: s.issues } else s)
  | r => r

/-- The slot that owns a tile's position acts: a deferred trap (R460), an overrun (R524), then by its state (R48). -/
def State.slotStep (s : State) (site : Nat) (run : Instr → State → Res) : Res :=
  let slot := (s.tile site).owner s.cyc
  let s := { s with curSite := site, curSlot := slot }
  let x := s.me
  if 8 ≤ slot then .next s
  else if (x.deferredDue s.cyc).isSome then run (.deferredTrap site slot) s
  else if s.slotStops site slot && x.state.acts then .next (s.modMe Slot.stop)
  else if x.overrun && s.overLimit then run (.handlerOverrun site slot) s
  else if s.overLimit && x.state.acts then
    ((s.withdrawWait site slot).modMe fun x => { x with state := .run, hold := 0, wake := none, wakeHold := 0 }).runWord run
  else
    match x.state with
    | .held => run (.holdExpiry site slot) s
    | .asleep =>
      if ((s.tile site).coveredFault slot).isSome then run (.faultDelivery site slot) s
      else if s.wakeMet site slot then
        if x.wakeHold = 0 then againIf site slot (run (.slotWake site slot) s) else run (.slotWake site slot) s
      else .next s
    | .backed => againIf site slot (run (.backedRetry site slot) s)
    | .run =>
      if x.hslot && x.hnd.isNone then
        match run (.handlerSelection site slot) s with
        | .next s' => .next (if (s'.slot site slot).hnd.isSome then { s' with issues := site :: s'.issues } else s')
        | r => r
      else s.runWord run
    | _ => .next s

/-- The steps that the model takes in a cycle before it passes: what falls due, then the tiles' positions, then the steps of
hampers, then the asynchronous steps whose stamp has come. After a thermal trip nothing but package reset comes about (R437). -/
def State.stepWith (s : State) (run : Instr → State → Res) : Res :=
  match s.mg.tripped, s.todo, s.issues, s.late, s.agenda with
  | true, _, _, _, (_, .packageReset l) :: rest => run (.packageReset l) { s with agenda := rest }
  | true, _, _, _, _ :: rest => .next { s with agenda := rest }
  | true, _, _, _, [] => .fault .clocksStopped
  | false, i :: rest, _, _, _ => run i { s with todo := rest }
  | false, [], site :: rest, _, _ => State.slotStep { s with issues := rest } site run
  | false, [], [], i :: rest, _ => run i { s with late := rest }
  | false, [], [], [], (c, i) :: rest =>
    if s.cyc < c then .next s.tick
    else if (encode i).isSome then .refused .agendaNotEvent
    else run i { s with agenda := rest }
  | false, [], [], [], [] => .next s.tick

/-- The state in which a word stands at the program counter of slot 0 of site 0, whose position it is, with nothing due
before it. -/
def State.placeWord (s : State) (w : Nat) : State :=
  let t := (s.tile 0).withWord w
  { s.setTile 0 { t with palette := 0x1FFFFFFFFFFF } with
    todo := [], issues := [0], mg := { s.mg with tripped := false } }

end Sys2Proof.Machine
end

