-- ==== Sys2Proof/Machine/VecInt.lean ====
section
/-!
DEFINITION. The vector instructions on integers, lane moves, permutes and lane masks (R242, R247 to R249, R251, R257).
-/

namespace Sys2Proof.Machine

/-! ### Integer arithmetic and logic (R242) -/

/-- An operation on VAL of two elements, and on their w bits. -/
def ilane2 (ty : Ty) (f : Int → Int → Int) (a b : VReg) (s : State) (i : Nat) : W32 :=
  laneOut ty (f (valOf ty (s.rLane a i).toNat) (valOf ty (s.rLane b i).toNat))
def blane2 (ty : Ty) (f : Nat → Nat → Nat) (a b : VReg) (s : State) (i : Nat) : W32 :=
  laneOut ty (f (uvOf (tyWidth ty) (s.rLane a i).toNat) (uvOf (tyWidth ty) (s.rLane b i).toNat) : Nat)

def execViadd (g : Guard) (d a b : VReg) (ty : Ty) (sat : Bool) (m : Msk) (s : State) : Res :=
  issueV (.viadd g d a b ty sat m) g latVec d m (ilane2 ty (fun x y => satIf sat ty (x + y)) a b) s

def execVisub (g : Guard) (d a b : VReg) (ty : Ty) (sat : Bool) (m : Msk) (s : State) : Res :=
  issueV (.visub g d a b ty sat m) g latVec d m (ilane2 ty (fun x y => satIf sat ty (x - y)) a b) s

def execVimul (g : Guard) (d a b : VReg) (ty : Ty) (sat : Bool) (m : Msk) (s : State) : Res :=
  issueV (.vimul g d a b ty sat m) g latVec d m (ilane2 ty (fun x y => satIf sat ty (x * y)) a b) s

def execVimulh (g : Guard) (d a b : VReg) (ty : Ty) (m : Msk) (s : State) : Res :=
  issueV (.vimulh g d a b ty m) g latVec d m (ilane2 ty (mulHigh (tyWidth ty)) a b) s

def execVand (g : Guard) (d a b : VReg) (ty : Ty) (m : Msk) (s : State) : Res :=
  issueV (.vand g d a b ty m) g latVec d m (blane2 ty (· &&& ·) a b) s

def execVor (g : Guard) (d a b : VReg) (ty : Ty) (m : Msk) (s : State) : Res :=
  issueV (.vor g d a b ty m) g latVec d m (blane2 ty (· ||| ·) a b) s

def execVxor (g : Guard) (d a b : VReg) (ty : Ty) (m : Msk) (s : State) : Res :=
  issueV (.vxor g d a b ty m) g latVec d m (blane2 ty (· ^^^ ·) a b) s

/-- A shift of the element of S1 by all 32 bits of the lane of S2. -/
def shiftLane (ty : Ty) (f : Nat → Nat → Nat → Int) (a b : VReg) (s : State) (i : Nat) : W32 :=
  laneOut ty (f (tyWidth ty) (uvOf (tyWidth ty) (s.rLane a i).toNat) (s.rLane b i).toNat)

def execVshl (g : Guard) (d a b : VReg) (ty : Ty) (m : Msk) (s : State) : Res :=
  issueV (.vshl g d a b ty m) g latVec d m (shiftLane ty (fun w x n => shlN w x n) a b) s

def execVshr (g : Guard) (d a b : VReg) (ty : Ty) (m : Msk) (s : State) : Res :=
  issueV (.vshr g d a b ty m) g latVec d m (shiftLane ty (fun w x n => shrN w x n) a b) s

def execVsar (g : Guard) (d a b : VReg) (ty : Ty) (m : Msk) (s : State) : Res :=
  issueV (.vsar g d a b ty m) g latVec d m (shiftLane ty sarI a b) s

def execVicmp (g : Guard) (d : MReg) (a b : VReg) (ty : Ty) (cc : Cond) (m : Msk) (s : State) : Res :=
  issueM (.vicmp g d a b ty cc m) g latVec d m
    (fun s i => condI cc (valOf ty (s.rLane a i).toNat) (valOf ty (s.rLane b i).toNat)) s

def execVimin (g : Guard) (d a b : VReg) (ty : Ty) (m : Msk) (s : State) : Res :=
  issueV (.vimin g d a b ty m) g latVec d m (ilane2 ty min a b) s

def execVimax (g : Guard) (d a b : VReg) (ty : Ty) (m : Msk) (s : State) : Res :=
  issueV (.vimax g d a b ty m) g latVec d m (ilane2 ty max a b) s

/-! ### Integer reduction (R251) -/

/-- The operation of VIRED and of an integer collective on w-bit values. -/
def redI (op : RedOp) (w x y : Nat) : Nat :=
  match op with
  | .add => (x + y) % 2 ^ w
  | .smin => if svOf w x ≤ svOf w y then x else y
  | .smax => if svOf w x ≤ svOf w y then y else x
  | .umin => Nat.min x y
  | .umax => Nat.max x y
  | .band => x &&& y
  | .bor => x ||| y
  | .bxor => x ^^^ y

/-- The identity of a reduction for excluded lanes. -/
def redIdent (op : RedOp) (w : Nat) : Nat :=
  match op with
  | .smin => 2 ^ (w - 1) - 1
  | .smax => 2 ^ (w - 1)
  | .umin => 2 ^ w - 1
  | .band => 2 ^ w - 1
  | _ => 0

def execVired (g : Guard) (d : SReg) (a : VReg) (ty : Ty) (op : RedOp) (m : MReg) (s : State) : Res :=
  issueS (.vired g d a ty op m) g s latVec d fun s =>
    let w := tyWidth ty
    extOf ty (s.reduce m (redIdent op w) (redI op w) fun k => uvOf w (s.rLane a k).toNat : Nat)

/-! ### Lane moves (R247) -/

def execVbcast (g : Guard) (d : VReg) (a : SReg) (ty : Ty) (m : Msk) (s : State) : Res :=
  issueV (.vbcast g d a ty m) g latPerm d m (fun s _ => laneOut ty ((s.rS a).toNat : Nat)) s

def execVext (g : Guard) (d : SReg) (a : VReg) (b : SReg) (ty : Ty) (s : State) : Res :=
  issueS (.vext g d a b ty) g s latPerm d fun s =>
    if (s.rS b).toNat < s.vlen then extOf ty ((s.rLane a (s.rS b).toNat).toNat : Nat) else 0

def execVins (g : Guard) (d : VReg) (a b : SReg) (ty : Ty) (s : State) : Res :=
  issueFree (.vins g d a b ty) g s fun s =>
    (s.writeV latPerm d
      (if (s.rS b).toNat < s.vlen then [((s.rS b).toNat, laneOut ty ((s.rS a).toNat : Nat))] else [])).retire g

def execVsel (g : Guard) (d a b : VReg) (c : MReg) (s : State) : Res :=
  issueFree (.vsel g d a b c) g s fun s =>
    (s.writeV latPerm d ((List.range s.vlen).map fun i =>
      (i, if s.inLane c i then s.rLane a i else s.rLane b i))).retire g

/-- Lane j of a register, zero where there is none. -/
def State.laneOr0 (s : State) (r : VReg) (j : Nat) : W32 := if j < s.vlen then s.rLane r j else 0

def execVshuf (g : Guard) (d a b : VReg) (m : Msk) (s : State) : Res :=
  issueV (.vshuf g d a b m) g latPerm d m (fun s i => s.laneOr0 a (s.rLane b i).toNat) s

def execViota (g : Guard) (d : VReg) (a : SReg) (m : Msk) (s : State) : Res :=
  issueV (.viota g d a m) g latPerm d m (fun s i => (s.rS a).setWidth 32 + BitVec.ofNat 32 i) s

/-! ### Slides and byte permutes (R248, R249) -/

/-- The lane that VSLIDE writes, n an unbounded number of lanes. -/
def State.slideLane (s : State) (a b : VReg) (n : Nat) (down : Bool) (i : Nat) : W32 :=
  if down then
    if i + n < s.vlen then s.rLane a (i + n)
    else if i + n < 2 * s.vlen then s.rLane b (i + n - s.vlen)
    else 0
  else if n ≤ i then s.rLane a (i - n)
  else if n - i ≤ s.vlen then s.rLane b (s.vlen - (n - i))
  else 0

def execVslide (g : Guard) (d a b : VReg) (c : SReg) (down : Bool) (m : Msk) (s : State) : Res :=
  issueV (.vslide g d a b c down m) g latPerm d m (fun s i => s.slideLane a b (s.rS c).toNat down i) s

/-- Byte k of a vector register (R249). -/
def State.vbyte (s : State) (r : VReg) (k : Nat) : Nat := bitsOf (s.rLane r (k / 4)).toNat (8 * (k % 4)) 8

/-- The lane that VPERMB writes. -/
def State.permLane (s : State) (a b : VReg) (lane : Bool) (i : Nat) : W32 :=
  if lane then
    let x := bitsOf (s.rLane b i).toNat 0 8
    BitVec.ofNat 32 (if 128 ≤ x then 0 else s.vbyte a (x % 16))
  else
    BitVec.ofNat 32 (leNat ((List.range 4).map fun j =>
      let x := s.vbyte b (4 * i + j)
      BitVec.ofNat 8 (if 128 ≤ x then 0 else s.vbyte a (16 * ((4 * i + j) / 16) + x % 16))))

def execVpermb (g : Guard) (d a b : VReg) (lane : Bool) (m : Msk) (s : State) : Res :=
  issueV (.vpermb g d a b lane m) g latPerm d m (fun s i => s.permLane a b lane i) s

/-! ### Lane masks (R257) -/

/-- A lane mask written in all its bits. -/
def issueMask (i : Instr) (g : Guard) (d : MReg) (f : State → Nat → Bool) (s : State) : Res :=
  issueFree i g s fun s =>
    (s.writeM latPerm d (maskOf s.vlen fun _ => true) (maskOf s.vlen (f s))).retire g

def execMlog (g : Guard) (d a b : MReg) (tt : BitVec 4) (s : State) : Res :=
  issueMask (.mlog g d a b tt) g d (fun s i => truth tt (s.inLane a i) (s.inLane b i)) s

def execMfirst (g : Guard) (d : SReg) (a : MReg) (s : State) : Res :=
  issueS (.mfirst g d a) g s latPerm d fun s => BitVec.ofNat 64 ((lowestSet (s.rM a) s.vlen).getD s.vlen)

def execMpopc (g : Guard) (d : SReg) (a : MReg) (s : State) : Res :=
  issueS (.mpopc g d a) g s latPerm d fun s => BitVec.ofNat 64 (popNat (s.rM a) s.vlen)

def execMset (g : Guard) (d : MReg) (a b : SReg) (first : Bool) (s : State) : Res :=
  issueMask (.mset g d a b first) g d (fun s i =>
    if first then decide (i < (s.rS a).toNat)
    else if i < 64 then (s.rS a).getLsbD i else (s.rS b).getLsbD (i - 64)) s

def execMget (g : Guard) (d : SReg) (a : MReg) (hi : Bool) (s : State) : Res :=
  issueS (.mget g d a hi) g s latPerm d fun s => BitVec.ofNat 64 (bitsOf (s.rM a) (if hi then 64 else 0) 64)

end Sys2Proof.Machine
end

