-- ==== Sys2Proof/Machine/Dispatch.lean ====
section
/-! DEFINITION. One arm for every constructor of Instr: the meaning of that instruction or step. -/

namespace Sys2Proof.Machine

def exec (i : Instr) (s : State) : Host.Outcome State Fault Refusal :=
  match i with
  | .add g d a b ty sat => Sys2Proof.Machine.execAdd g d a b ty sat s
  | .addImm g d a imm => Sys2Proof.Machine.execAddImm g d a imm s
  | .sub g d a b ty sat => Sys2Proof.Machine.execSub g d a b ty sat s
  | .subImm g d a imm => Sys2Proof.Machine.execSubImm g d a imm s
  | .mul g d a b ty sat => Sys2Proof.Machine.execMul g d a b ty sat s
  | .mulImm g d a imm => Sys2Proof.Machine.execMulImm g d a imm s
  | .mulh g d a b ty => Sys2Proof.Machine.execMulh g d a b ty s
  | .div g d a b ty => Sys2Proof.Machine.execDiv g d a b ty s
  | .rem g d a b ty => Sys2Proof.Machine.execRem g d a b ty s
  | .and g d a b ty => Sys2Proof.Machine.execAnd g d a b ty s
  | .andImm g d a imm => Sys2Proof.Machine.execAndImm g d a imm s
  | .or g d a b ty => Sys2Proof.Machine.execOr g d a b ty s
  | .orImm g d a imm => Sys2Proof.Machine.execOrImm g d a imm s
  | .xor g d a b ty => Sys2Proof.Machine.execXor g d a b ty s
  | .xorImm g d a imm => Sys2Proof.Machine.execXorImm g d a imm s
  | .andn g d a b ty => Sys2Proof.Machine.execAndn g d a b ty s
  | .shl g d a b ty => Sys2Proof.Machine.execShl g d a b ty s
  | .shlImm g d a imm => Sys2Proof.Machine.execShlImm g d a imm s
  | .shr g d a b ty => Sys2Proof.Machine.execShr g d a b ty s
  | .shrImm g d a imm => Sys2Proof.Machine.execShrImm g d a imm s
  | .sar g d a b ty => Sys2Proof.Machine.execSar g d a b ty s
  | .sarImm g d a imm => Sys2Proof.Machine.execSarImm g d a imm s
  | .rotl g d a b ty => Sys2Proof.Machine.execRotl g d a b ty s
  | .rotlImm g d a imm => Sys2Proof.Machine.execRotlImm g d a imm s
  | .min g d a b ty => Sys2Proof.Machine.execMin g d a b ty s
  | .minImm g d a imm => Sys2Proof.Machine.execMinImm g d a imm s
  | .max g d a b ty => Sys2Proof.Machine.execMax g d a b ty s
  | .maxImm g d a imm => Sys2Proof.Machine.execMaxImm g d a imm s
  | .abs g d a ty sat => Sys2Proof.Machine.execAbs g d a ty sat s
  | .clz g d a ty => Sys2Proof.Machine.execClz g d a ty s
  | .ctz g d a ty => Sys2Proof.Machine.execCtz g d a ty s
  | .popc g d a ty => Sys2Proof.Machine.execPopc g d a ty s
  | .bswap g d a ty => Sys2Proof.Machine.execBswap g d a ty s
  | .bfx g d a pos wid => Sys2Proof.Machine.execBfx g d a pos wid s
  | .bfi g d a pos wid => Sys2Proof.Machine.execBfi g d a pos wid s
  | .lea g d a b k => Sys2Proof.Machine.execLea g d a b k s
  | .leaImm g d a imm => Sys2Proof.Machine.execLeaImm g d a imm s
  | .movi g d imm => Sys2Proof.Machine.execMovi g d imm s
  | .movhi g d a imm => Sys2Proof.Machine.execMovhi g d a imm s
  | .mov g d a ty => Sys2Proof.Machine.execMov g d a ty s
  | .cmp g d a b ty cc => Sys2Proof.Machine.execCmp g d a b ty cc s
  | .cmpImm g d a cc uns imm => Sys2Proof.Machine.execCmpImm g d a cc uns imm s
  | .csel g d a b p => Sys2Proof.Machine.execCsel g d a b p s
  | .plog g d a b tt => Sys2Proof.Machine.execPlog g d a b tt s
  | .pmov g f => Sys2Proof.Machine.execPmov g f s
  | .nop g => Sys2Proof.Machine.execNop g s
  | .br g off => Sys2Proof.Machine.execBr g off s
  | .jmp g lc off => Sys2Proof.Machine.execJmp g lc off s
  | .call g lc off => Sys2Proof.Machine.execCall g lc off s
  | .ret g lc => Sys2Proof.Machine.execRet g lc s
  | .loop g lc off => Sys2Proof.Machine.execLoop g lc off s
  | .yield g imm => Sys2Proof.Machine.execYield g imm s
  | .sleep g a imm => Sys2Proof.Machine.execSleep g a imm s
  | .endSlot g => Sys2Proof.Machine.execEndSlot g s
  | .trap g imm => Sys2Proof.Machine.execTrap g imm s
  | .eret g skip => Sys2Proof.Machine.execEret g skip s
  | .mfs g d n => Sys2Proof.Machine.execMfs g d n s
  | .mts g n a => Sys2Proof.Machine.execMts g n a s
  | .cycle g d => Sys2Proof.Machine.execCycle g d s
  | .time g d => Sys2Proof.Machine.execTime g d s
  | .capq g d a => Sys2Proof.Machine.execCapq g d a s
  | .widq g d f k => Sys2Proof.Machine.execWidq g d f k s
  | .ld g d a size sx off => Sys2Proof.Machine.execLd g d a size sx off s
  | .st g d a size scope off => Sys2Proof.Machine.execSt g d a size scope off s
  | .ldp g d a size sx off => Sys2Proof.Machine.execLdp g d a size sx off s
  | .stp g d a size scope off => Sys2Proof.Machine.execStp g d a size scope off s
  | .latom g d a b c ty op => Sys2Proof.Machine.execLatom g d a b c ty op s
  | .cwb g => Sys2Proof.Machine.execCwb g s
  | .iinv g d a off => Sys2Proof.Machine.execIinv g d a off s
  | .fetchb g => Sys2Proof.Machine.execFetchb g s
  | .vld g d a size sx off => Sys2Proof.Machine.execVld g d a size sx off s
  | .vst g d a size scope off => Sys2Proof.Machine.execVst g d a size scope off s
  | .vlds g d a b ty m => Sys2Proof.Machine.execVlds g d a b ty m s
  | .vsts g a b c ty m => Sys2Proof.Machine.execVsts g a b c ty m s
  | .vgath g d a b ty m k => Sys2Proof.Machine.execVgath g d a b ty m k s
  | .vscat g a b c ty m k => Sys2Proof.Machine.execVscat g a b c ty m k s
  | .vadd g d a b ty m => Sys2Proof.Machine.execVadd g d a b ty m s
  | .vsub g d a b ty m => Sys2Proof.Machine.execVsub g d a b ty m s
  | .vmul g d a b ty m => Sys2Proof.Machine.execVmul g d a b ty m s
  | .vfma g d a b c ty m => Sys2Proof.Machine.execVfma g d a b c ty m s
  | .vfms g d a b c ty m => Sys2Proof.Machine.execVfms g d a b c ty m s
  | .vmin g d a b ty m => Sys2Proof.Machine.execVmin g d a b ty m s
  | .vmax g d a b ty m => Sys2Proof.Machine.execVmax g d a b ty m s
  | .vabs g d a ty m => Sys2Proof.Machine.execVabs g d a ty m s
  | .vneg g d a ty m => Sys2Proof.Machine.execVneg g d a ty m s
  | .vcmpf g d a b ty cc m => Sys2Proof.Machine.execVcmpf g d a b ty cc m s
  | .vclass g d a ty m => Sys2Proof.Machine.execVclass g d a ty m s
  | .vexp2 g d a m => Sys2Proof.Machine.execVexp2 g d a m s
  | .vlog2 g d a m => Sys2Proof.Machine.execVlog2 g d a m s
  | .vrcp g d a m => Sys2Proof.Machine.execVrcp g d a m s
  | .vrsq g d a m => Sys2Proof.Machine.execVrsq g d a m s
  | .vredadd g d a m => Sys2Proof.Machine.execVredadd g d a m s
  | .vredmax g d a m => Sys2Proof.Machine.execVredmax g d a m s
  | .vredmin g d a m => Sys2Proof.Machine.execVredmin g d a m s
  | .vscan g d a m => Sys2Proof.Machine.execVscan g d a m s
  | .vcvt g d a dst src rc m => Sys2Proof.Machine.execVcvt g d a dst src rc m s
  | .vpack g d a b ty scale => Sys2Proof.Machine.execVpack g d a b ty scale s
  | .vunpk g d a b ty scale => Sys2Proof.Machine.execVunpk g d a b ty scale s
  | .viadd g d a b ty sat m => Sys2Proof.Machine.execViadd g d a b ty sat m s
  | .visub g d a b ty sat m => Sys2Proof.Machine.execVisub g d a b ty sat m s
  | .vimul g d a b ty sat m => Sys2Proof.Machine.execVimul g d a b ty sat m s
  | .vimulh g d a b ty m => Sys2Proof.Machine.execVimulh g d a b ty m s
  | .vand g d a b ty m => Sys2Proof.Machine.execVand g d a b ty m s
  | .vor g d a b ty m => Sys2Proof.Machine.execVor g d a b ty m s
  | .vxor g d a b ty m => Sys2Proof.Machine.execVxor g d a b ty m s
  | .vshl g d a b ty m => Sys2Proof.Machine.execVshl g d a b ty m s
  | .vshr g d a b ty m => Sys2Proof.Machine.execVshr g d a b ty m s
  | .vsar g d a b ty m => Sys2Proof.Machine.execVsar g d a b ty m s
  | .vicmp g d a b ty cc m => Sys2Proof.Machine.execVicmp g d a b ty cc m s
  | .vimin g d a b ty m => Sys2Proof.Machine.execVimin g d a b ty m s
  | .vimax g d a b ty m => Sys2Proof.Machine.execVimax g d a b ty m s
  | .vired g d a ty op m => Sys2Proof.Machine.execVired g d a ty op m s
  | .vbcast g d a ty m => Sys2Proof.Machine.execVbcast g d a ty m s
  | .vext g d a b ty => Sys2Proof.Machine.execVext g d a b ty s
  | .vins g d a b ty => Sys2Proof.Machine.execVins g d a b ty s
  | .vsel g d a b c => Sys2Proof.Machine.execVsel g d a b c s
  | .vpermb g d a b lane m => Sys2Proof.Machine.execVpermb g d a b lane m s
  | .vshuf g d a b m => Sys2Proof.Machine.execVshuf g d a b m s
  | .vslide g d a b c down m => Sys2Proof.Machine.execVslide g d a b c down m s
  | .viota g d a m => Sys2Proof.Machine.execViota g d a m s
  | .mlog g d a b tt => Sys2Proof.Machine.execMlog g d a b tt s
  | .mfirst g d a => Sys2Proof.Machine.execMfirst g d a s
  | .mpopc g d a => Sys2Proof.Machine.execMpopc g d a s
  | .mset g d a b first => Sys2Proof.Machine.execMset g d a b first s
  | .mget g d a hi => Sys2Proof.Machine.execMget g d a hi s
  | .pld g d a b ty uns npl q => Sys2Proof.Machine.execPld g d a b ty uns npl q s
  | .pldv g d a b ty uns npl q => Sys2Proof.Machine.execPldv g d a b ty uns npl q s
  | .az g acc q => Sys2Proof.Machine.execAz g acc q s
  | .mma g a b acc wa npl ua ub bs nb q => Sys2Proof.Machine.execMma g a b acc wa npl ua ub bs nb q s
  | .ard g a b acc q => Sys2Proof.Machine.execArd g a b acc q s
  | .awr g a b acc q => Sys2Proof.Machine.execAwr g a b acc q s
  | .ascl g a acc q => Sys2Proof.Machine.execAscl g a acc q s
  | .arowmax g a b acc q => Sys2Proof.Machine.execArowmax g a b acc q s
  | .aexp g a acc q => Sys2Proof.Machine.execAexp g a acc q s
  | .arowsum g a b acc q => Sys2Proof.Machine.execArowsum g a b acc q s
  | .acvt g a acc uns npl q => Sys2Proof.Machine.execAcvt g a acc uns npl q s
  | .amask g a b acc q => Sys2Proof.Machine.execAmask g a b acc q s
  | .attv g d a b acc wa npl ub mk d128 q => Sys2Proof.Machine.execAttv g d a b acc wa npl ub mk d128 q s
  | .acmb g d a b acc d128 q => Sys2Proof.Machine.execAcmb g d a b acc d128 q s
  | .anrm g a acc d128 q => Sys2Proof.Machine.execAnrm g a acc d128 q s
  | .tsend g a b q => Sys2Proof.Machine.execTsend g a b q s
  | .tfwd g l b q => Sys2Proof.Machine.execTfwd g l b q s
  | .tfork g d l b q => Sys2Proof.Machine.execTfork g d l b q s
  | .tjoin g d l => Sys2Proof.Machine.execTjoin g d l s
  | .ttake g d l word rel => Sys2Proof.Machine.execTtake g d l word rel s
  | .hret g => Sys2Proof.Machine.execHret g s
  | .hset g a b => Sys2Proof.Machine.execHset g a b s
  | .hmsk g a b => Sys2Proof.Machine.execHmsk g a b s
  | .eos g a q => Sys2Proof.Machine.execEos g a q s
  | .cfgld g a b q => Sys2Proof.Machine.execCfgld g a b q s
  | .cfgswap g => Sys2Proof.Machine.execCfgswap g s
  | .drainq g d => Sys2Proof.Machine.execDrainq g d s
  | .shlk g d a b q => Sys2Proof.Machine.execShlk g d a b q s
  | .shmap g d a b new q => Sys2Proof.Machine.execShmap g d a b new q s
  | .shunmap g d a b cond q => Sys2Proof.Machine.execShunmap g d a b cond q s
  | .shref g d a b dec q => Sys2Proof.Machine.execShref g d a b dec q s
  | .cpy g d a b e q => Sys2Proof.Machine.execCpy g d a b e q s
  | .cpy2 g d e q => Sys2Proof.Machine.execCpy2 g d e q s
  | .cpyl g d a e q => Sys2Proof.Machine.execCpyl g d a e q s
  | .cpyc g d e q => Sys2Proof.Machine.execCpyc g d e q s
  | .fill g d a b e q => Sys2Proof.Machine.execFill g d a b e q s
  | .qfence g a e q => Sys2Proof.Machine.execQfence g a e q s
  | .twait g a tag any => Sys2Proof.Machine.execTwait g a tag any s
  | .tfirst g d a => Sys2Proof.Machine.execTfirst g d a s
  | .tclr g a => Sys2Proof.Machine.execTclr g a s
  | .bkinit g k d a => Sys2Proof.Machine.execBkinit g k d a s
  | .bkaw g k d once => Sys2Proof.Machine.execBkaw g k d once s
  | .bkpost g k a b => Sys2Proof.Machine.execBkpost g k a b s
  | .bkrel g k a => Sys2Proof.Machine.execBkrel g k a s
  | .rst g d a size => Sys2Proof.Machine.execRst g d a size s
  | .rat g d a op size comb => Sys2Proof.Machine.execRat g d a op size comb s
  | .ratf g d a b op size q => Sys2Proof.Machine.execRatf g d a b op size q s
  | .rld g d a size q => Sys2Proof.Machine.execRld g d a size q s
  | .hflush g d all q => Sys2Proof.Machine.execHflush g d all q s
  | .hcfg g a => Sys2Proof.Machine.execHcfg g a s
  | .hstat g d a dst => Sys2Proof.Machine.execHstat g d a dst s
  | .fence g k scope => Sys2Proof.Machine.execFence g k scope s
  | .bari g d a mem q => Sys2Proof.Machine.execBari g d a mem q s
  | .bara g d mem q => Sys2Proof.Machine.execBara g d mem q s
  | .barw g d mem => Sys2Proof.Machine.execBarw g d mem s
  | .waitm g d a cc => Sys2Proof.Machine.execWaitm g d a cc s
  | .phase g => Sys2Proof.Machine.execPhase g s
  | .prep g => Sys2Proof.Machine.execPrep g s
  | .keep g d a plain => Sys2Proof.Machine.execKeep g d a plain s
  | .disc g d a => Sys2Proof.Machine.execDisc g d a s
  | .nred g d a b op size q => Sys2Proof.Machine.execNred g d a b op size q s
  | .nbcast g d a b size root q => Sys2Proof.Machine.execNbcast g d a b size root q s
  | .landingCycle site slot => Sys2Proof.Machine.execLandingCycle site slot s
  | .holdExpiry site slot => Sys2Proof.Machine.execHoldExpiry site slot s
  | .slotWake site slot => Sys2Proof.Machine.execSlotWake site slot s
  | .backedRetry site slot => Sys2Proof.Machine.execBackedRetry site slot s
  | .handlerSelection site slot => Sys2Proof.Machine.execHandlerSelection site slot s
  | .handlerAged site entry => Sys2Proof.Machine.execHandlerAged site entry s
  | .handlerOverrun site slot => Sys2Proof.Machine.execHandlerOverrun site slot s
  | .arrivalCounts site => Sys2Proof.Machine.execArrivalCounts site s
  | .claimRequest n => Sys2Proof.Machine.execClaimRequest n s
  | .claimGrant site basket => Sys2Proof.Machine.execClaimGrant site basket s
  | .tokenSendPerform site n => Sys2Proof.Machine.execTokenSendPerform site n s
  | .insertionStage site => Sys2Proof.Machine.execInsertionStage site s
  | .hamperAgeTrigger site h => Sys2Proof.Machine.execHamperAgeTrigger site h s
  | .handOff site => Sys2Proof.Machine.execHandOff site s
  | .hamperPacketPerform n => Sys2Proof.Machine.execHamperPacketPerform n s
  | .hamperAcknowledgement n => Sys2Proof.Machine.execHamperAcknowledgement n s
  | .enginePortForward site => Sys2Proof.Machine.execEnginePortForward site s
  | .engineCommandComplete eng queue ext => Sys2Proof.Machine.execEngineCommandComplete eng queue ext s
  | .arrayEntryComplete site residue => Sys2Proof.Machine.execArrayEntryComplete site residue s
  | .networkCommandExecute site => Sys2Proof.Machine.execNetworkCommandExecute site s
  | .cfgldComplete site ext => Sys2Proof.Machine.execCfgldComplete site ext s
  | .shardOperation site => Sys2Proof.Machine.execShardOperation site s
  | .remoteRequestPerform n => Sys2Proof.Machine.execRemoteRequestPerform n s
  | .remoteRequestResponse n => Sys2Proof.Machine.execRemoteRequestResponse n s
  | .barrierInitAtHome n => Sys2Proof.Machine.execBarrierInitAtHome n s
  | .barrierArrivalAtHome n => Sys2Proof.Machine.execBarrierArrivalAtHome n s
  | .barrierPoll site id => Sys2Proof.Machine.execBarrierPoll site id s
  | .barrierWaitRequest site id => Sys2Proof.Machine.execBarrierWaitRequest site id s
  | .collectiveComplete region level index ext => Sys2Proof.Machine.execCollectiveComplete region level index ext s
  | .collectiveBroken region level index => Sys2Proof.Machine.execCollectiveBroken region level index s
  | .monitorReread site mon => Sys2Proof.Machine.execMonitorReread site mon s
  | .phaseComplete region => Sys2Proof.Machine.execPhaseComplete region s
  | .configurationSwap region => Sys2Proof.Machine.execConfigurationSwap region s
  | .strayAfterSwap site input => Sys2Proof.Machine.execStrayAfterSwap site input s
  | .operandPacketDelivery site route => Sys2Proof.Machine.execOperandPacketDelivery site route s
  | .endOfStreamDelivery site route => Sys2Proof.Machine.execEndOfStreamDelivery site route s
  | .kernelCompletion region => Sys2Proof.Machine.execKernelCompletion region s
  | .faultDelivery site slot => Sys2Proof.Machine.execFaultDelivery site slot s
  | .deferredTrap site slot => Sys2Proof.Machine.execDeferredTrap site slot s
  | .sequentialPcFault site slot => Sys2Proof.Machine.execSequentialPcFault site slot s
  | .compactTimeout l node => Sys2Proof.Machine.execCompactTimeout l node s
  | .savePoint l node site => Sys2Proof.Machine.execSavePoint l node site s
  | .oldestAnnounce l ext => Sys2Proof.Machine.execOldestAnnounce l ext s
  | .bypassedSliceEmptied site lost => Sys2Proof.Machine.execBypassedSliceEmptied site lost s
  | .packageReset tests => Sys2Proof.Machine.execPackageReset tests s
  | .firmwareReady => Sys2Proof.Machine.execFirmwareReady s
  | .fabricPacketArrival m => Sys2Proof.Machine.execFabricPacketArrival m s
  | .indeterminateDeclaration site id => Sys2Proof.Machine.execIndeterminateDeclaration site id s
  | .heldPacketResend pkg => Sys2Proof.Machine.execHeldPacketResend pkg s
  | .xfcmdRetry n => Sys2Proof.Machine.execXfcmdRetry n s
  | .xfcmdDecline n => Sys2Proof.Machine.execXfcmdDecline n s
  | .lateCommandCompletion eng queue ext => Sys2Proof.Machine.execLateCommandCompletion eng queue ext s
  | .schtrig w => Sys2Proof.Machine.execSchtrig w s
  | .launch sigma => Sys2Proof.Machine.execLaunch sigma s
  | .launchNotice n => Sys2Proof.Machine.execLaunchNotice n s
  | .placePartRequest l node => Sys2Proof.Machine.execPlacePartRequest l node s
  | .startNotice l node pods => Sys2Proof.Machine.execStartNotice l node pods s
  | .releaseNotice l node => Sys2Proof.Machine.execReleaseNotice l node s
  | .partCompletionReport r => Sys2Proof.Machine.execPartCompletionReport r s
  | .selectionRound => Sys2Proof.Machine.execSelectionRound s
  | .schpreFull w => Sys2Proof.Machine.execSchpreFull w s
  | .schpreCompact w => Sys2Proof.Machine.execSchpreCompact w s
  | .schpreWithdraw w => Sys2Proof.Machine.execSchpreWithdraw w s
  | .preemptionStop l node => Sys2Proof.Machine.execPreemptionStop l node s
  | .schres w => Sys2Proof.Machine.execSchres w s
  | .restoration l node => Sys2Proof.Machine.execRestoration l node s
  | .testRound site r => Sys2Proof.Machine.execTestRound site r s
  | .htest w => Sys2Proof.Machine.execHtest w s
  | .hostTestRun r => Sys2Proof.Machine.execHostTestRun r s
  | .hangSweep => Sys2Proof.Machine.execHangSweep s
  | .patrolScrub p uncorrectable => Sys2Proof.Machine.execPatrolScrub p uncorrectable s
  | .flitParityRetry f => Sys2Proof.Machine.execFlitParityRetry f s
  | .routerFailure site => Sys2Proof.Machine.execRouterFailure site s
  | .routingTableRewrite => Sys2Proof.Machine.execRoutingTableRewrite s
  | .prst w => Sys2Proof.Machine.execPrst w s
  | .linkReplay n => Sys2Proof.Machine.execLinkReplay n s
  | .linkTrained n peer plg => Sys2Proof.Machine.execLinkTrained n peer plg s
  | .fabricPortDown n => Sys2Proof.Machine.execFabricPortDown n s
  | .hostLinkDown port => Sys2Proof.Machine.execHostLinkDown port s
  | .hostLinkRetrain port => Sys2Proof.Machine.execHostLinkRetrain port s
  | .apertureRead port off size ext => Sys2Proof.Machine.execApertureRead port off size ext s
  | .apertureWrite port off data ep => Sys2Proof.Machine.execApertureWrite port off data ep s
  | .apertureAtomic port off op size data swap ext => Sys2Proof.Machine.execApertureAtomic port off op size data swap ext s
  | .hostCompletionTimeout eng queue ext => Sys2Proof.Machine.execHostCompletionTimeout eng queue ext s
  | .powerWindow r => Sys2Proof.Machine.execPowerWindow r s
  | .thermalTrip tj => Sys2Proof.Machine.execThermalTrip tj s
  | .markFrame eng queue ext => Sys2Proof.Machine.execMarkFrame eng queue ext s
  | .mscfgEnable w => Sys2Proof.Machine.execMscfgEnable w s
  | .mscfgDisable w => Sys2Proof.Machine.execMscfgDisable w s
  | .cacheWritebackDone => Sys2Proof.Machine.execCacheWritebackDone s
  | .vsplit n w => Sys2Proof.Machine.execVsplit n w s
  | .pkgnum w => Sys2Proof.Machine.execPkgnum w s
  | .ivqPage w => Sys2Proof.Machine.execIvqPage w s
  | .ivqRange w => Sys2Proof.Machine.execIvqRange w s
  | .ivqSpace w => Sys2Proof.Machine.execIvqSpace w s
  | .ivqAll w => Sys2Proof.Machine.execIvqAll w s
  | .ivqAcknowledge => Sys2Proof.Machine.execIvqAcknowledge s
  | .hwin port k word w => Sys2Proof.Machine.execHwin port k word w s
  | .pgctl w => Sys2Proof.Machine.execPgctl w s
  | .pwrceil w => Sys2Proof.Machine.execPwrceil w s
  | .lnklim w => Sys2Proof.Machine.execLnklim w s
  | .mkfmt stage w => Sys2Proof.Machine.execMkfmt stage w s
  | .lgb n w => Sys2Proof.Machine.execLgb n w s
  | .attest w => Sys2Proof.Machine.execAttest w s
  | .extend w => Sys2Proof.Machine.execExtend w s
  | .keyload w => Sys2Proof.Machine.execKeyload w s
  | .markkey w => Sys2Proof.Machine.execMarkkey w s
  | .recoveryImage w => Sys2Proof.Machine.execRecoveryImage w s
  | .fltcfg w => Sys2Proof.Machine.execFltcfg w s
  | .katcfg w => Sys2Proof.Machine.execKatcfg w s
  | .hangcfg w => Sys2Proof.Machine.execHangcfg w s
  | .registerWrite port off w => Sys2Proof.Machine.execRegisterWrite port off w s

end Sys2Proof.Machine
end

