-- ==== Sys2Proof/Machine/Step.lean ====
section
/-! DEFINITION. The step of the machine, and a word laid where the next step fetches it. -/

namespace Sys2Proof.Machine

/-- One step: what falls due in the cycle, the instruction of one tile's position, one asynchronous step, or the passing
of the cycle (Machine/Clock.lean). -/
def step (s : State) : Host.Outcome State Fault Refusal := s.stepWith exec

/-- The state with an instruction word (the bits above nbits zero) at the program counter of slot 0 of site 0, as a
placement by the scheduler leaves it (notes/assumptions/2.md): the very next step fetches and runs it. -/
def State.withFetchWord (s : State) (nbits w : Nat) : State := s.placeWord (w % 2 ^ nbits)

end Sys2Proof.Machine
end

