-- ==== Sys2Proof/Safety.lean ====
section
/-!
DEFINITION. What the statements speak of: states whose memories have their canonical form, the conditions under which a slot
issues a word (R481), what each register instruction delivers, and what a step leaves as it was.
-/

namespace Sys2Proof

/-- The guard of an instruction word; none for the rows that are events. -/
def Instr.guard (i : Instr) : Option Guard := i.body.map fun b => b.2.1

end Sys2Proof

namespace Sys2Proof.Machine

/-! ### The invariant of the memories -/

/-- The memories of a tile have their canonical form. -/
def Tile.memOk (t : Tile) : Bool := Memory.wf t.sram && Memory.wf t.plane

/-- Every memory of the machine has its canonical form. -/
def State.memOk (s : State) : Bool :=
  Memory.wf s.host0 && Memory.wf s.host1 && Memory.wf s.hbm && Memory.wf s.vault && Memory.wf s.sched.mem &&
    Memory.wf s.mg.mcbox && s.tiles.all fun x => x.2.memOk

/-! ### Issue (R481, R524) -/

/-- The word passes the checks of its encoding, its use mask and its palette, its predicate is true, and no handler has passed
its budget. -/
def State.ready (s : State) (i : Instr) (g : Guard) : Bool := (headTrap i s).isNone && s.guardOk g && !s.overLimit

/-- Every pending effect of a slot comes from an instruction that has issued. -/
def Slot.timely (x : Slot) (cyc : Nat) : Bool := x.pend.all fun p => p.iss ≤ cyc

/-- Every pending effect of every slot, the saved slots of rucksacks among them, comes from an instruction that has issued. -/
def State.timely (s : State) : Bool :=
  (s.tiles.all fun x => x.2.slots.all fun y => y.2.timely s.cyc) && s.sched.rucks.all fun r => r.slots.all fun y => y.2.timely s.cyc

/-- Checks 5 to 9 of each instruction word, in their order. -/
def checksOf (i : Instr) (s : State) : Option Trap :=
  match i with
  | .div .. => intervalTrap 1 24 s.me.lastDiv s.cyc
  | .rem .. => intervalTrap 1 24 s.me.lastDiv s.cyc
  | .vexp2 .. => intervalTrap 2 4 s.me.lastSfu s.cyc
  | .vlog2 .. => intervalTrap 2 4 s.me.lastSfu s.cyc
  | .vrcp .. => intervalTrap 2 4 s.me.lastSfu s.cyc
  | .vrsq .. => intervalTrap 2 4 s.me.lastSfu s.cyc
  | .br _ off => pcTrap s 1 (s.relTarget off)
  | .jmp _ lc off => pcTrap s 1 (s.absTarget lc off)
  | .call _ _ off => pcTrap s 1 (s.relTarget off)
  | .ret _ lc => pcTrap s 1 (s.absTarget lc 0)
  | .loop _ lc off => if s.rS lc - 1 = 0 then none else pcTrap s 1 (s.relTarget off)
  | .endSlot _ => mainOnly s
  | .eret _ skip => firstTrap [caseTrap 8 [(2, fld s.me.tcause 63 1 == 0, 0)],
      pcTrap s 3 ((fld s.me.tepc 0 18 + bitNat skip : Nat) : Int)]
  | .mfs _ _ n => caseTrap 8 [(3, (s.sysRead n.toNat).isNone, 0)]
  | .mts _ n _ => mtsTrap s n.toNat
  | .ld _ _ a size _ off => localTrap s (effAddr (s.rS a) off) (2 ^ size.toNat)
  | .st _ _ a size _ off => localTrap s (effAddr (s.rS a) off) (2 ^ size.toNat)
  | .ldp _ _ a size _ off => localTrap s (effAddr (s.rS a) off) (2 * 2 ^ size.toNat)
  | .stp _ _ a size _ off => localTrap s (effAddr (s.rS a) off) (2 * 2 ^ size.toNat)
  | .latom _ _ a _ _ ty _ => alignedTrap s (s.rS a).toNat (2 ^ tySize ty) (2 ^ tySize ty)
  | .iinv _ _ a off => localTrap s (effAddr (s.rS a) off) 1
  | .vld _ _ a size _ off => laneTrap s.kern.sram size.toNat (s.unitAddrs a off size.toNat)
  | .vst _ _ a size _ off => laneTrap s.kern.sram size.toNat (s.unitAddrs a off size.toNat)
  | .vlds _ _ a b ty m => laneTrap s.kern.sram (tySize ty) (s.strideAddrs a b m.m)
  | .vsts _ a b _ ty m => laneTrap s.kern.sram (tySize ty) (s.strideAddrs a b m)
  | .vgath _ _ a b ty m k => laneTrap s.kern.sram (tySize ty) (s.gatherAddrs a b k m.m)
  | .vscat _ a b _ ty m k => laneTrap s.kern.sram (tySize ty) (s.gatherAddrs a b k m)
  | .pld _ d a b ty _ npl _ => lowestTrap 5 (sramCases s (s.rS a) ((s.rS b).toNat * groupBytes ty (widthOf npl)) 32 ++
      planeCases s (s.rS d) ((s.rS b).toNat * (32 + 128 * widthOf npl)))
  | .pldv _ d _ b _ _ npl _ => lowestTrap 5 (pldvCases s (s.rS d) (widthOf npl) (s.rS b).toNat)
  | .mma _ a b _ wa npl _ _ bs nb _ => lowestTrap 5 (planeCases s (s.rS a) (opSize (nb.toNat + 1) (widthOf wa)) ++
      if bs then sramCases s (s.rS b) (opSize (nb.toNat + 1) (widthOf npl)) 32
      else planeCases s (s.rS b) (opSize (nb.toNat + 1) (widthOf npl)))
  | .ard _ a b _ _ => rowsTrap s a b
  | .awr _ a b _ _ => rowsTrap s a b
  | .ascl _ a _ _ => lowestTrap 5 (sramCases s (s.rS a) 256 4)
  | .arowmax _ a b _ _ => lowestTrap 5 (sramCases s (s.rS a) 256 4 ++ sramCases s (s.rS b) 256 4)
  | .aexp _ a _ _ => lowestTrap 5 (sramCases s (s.rS a) 256 4)
  | .arowsum _ a b _ _ => lowestTrap 5 (sramCases s (s.rS a) 256 4 ++ sramCases s (s.rS b) 256 4)
  | .acvt _ a _ _ npl _ => lowestTrap 5 (planeCases s (s.rS a) (opSize 2 (widthOf npl)))
  | .amask _ a _ _ _ => if a = 0 then none else lowestTrap 5 (sramCases s (s.rS a) 512 1)
  | .attv _ d a b _ wa npl _ mk d128 _ => firstTrap [
      caseTrap 7 [(9, d128 && 9 < widthOf npl, BitVec.ofNat 64 (widthOf npl))],
      lowestTrap 5 (sramCases s (s.rS d) (if mk then 1024 else 512) 4 ++
        planeCases s (s.rS a) (opSize (dimOf d128 / 32) (widthOf wa) + opSize 2 (widthOf wa)) ++
        planeCases s (s.rS b) (0x40 + opSize (dimOf d128 / 32) (widthOf npl) + dimOf d128 / 64 * opSize 2 (widthOf npl)))]
  | .acmb _ d a b _ d128 _ => lowestTrap 5 (sramCases s (s.rS d) 512 4 ++ sramCases s (s.rS a) 512 4 ++
      sramCases s (s.rS b) (256 * dimOf d128) 4)
  | .anrm _ a _ _ _ => lowestTrap 5 (sramCases s (s.rS a) 256 4)
  | .tsend _ a b _ => firstTrap [caseTrap 7 [routeCase s (s.rS b)],
      caseTrap 5 [(1, decide (s.kern.sram ≤ (s.rS a).toNat), s.rS a), (2, (s.rS a).toNat % 64 != 0, s.rS a)]]
  | .tfwd _ l b _ => firstTrap [latchTrap s l, caseTrap 7 [routeCase s (s.rS b)]]
  | .tfork _ d l b _ => firstTrap [latchTrap s l, lowestTrap 7 [routeCase s (s.rS d), routeCase s (s.rS b),
      (7, decide (8 ≤ branchDepth (s.latch l 1)), s.latch l 1)]]
  | .tjoin _ _ l => firstTrap [latchTrap s l, caseTrap 7 [(7, branchDepth (s.joinWord l) = 0, s.joinWord l)]]
  | .ttake _ _ l _ _ => latchTrap s l
  | .hret _ => if s.handler.isSome then none else some ⟨8, 1, 0, 0⟩
  | .hset _ a b => firstTrap [caseTrap 8 [(6, hsetBad s.here.coming s.kern (fld (s.rS a) 0 5) (s.rS b), 0)],
      caseTrap 7 [(2, fld (s.rS a) 5 59 != 0, s.rS a)]]
  | .hmsk _ a b => firstTrap [
      caseTrap 8 [(6, (List.range 32).any fun n =>
        bitOf (s.rS b).toNat n && hentOwner (s.here.hentOf n) != s.kern.owner, 0)],
      caseTrap 7 [(2, fld (s.rS a) 32 32 != 0, s.rS a), (2, fld (s.rS b) 32 32 != 0, s.rS b)]]
  | .eos _ a _ => caseTrap 7 [(9, decide (s.kern.cfgOuts ≤ (s.rS a).toNat), s.rS a)]
  | .cfgld _ a b _ => lowestTrap 5 (gaddrCases (s.rS a) (s.rS b).toNat)
  | .cfgswap _ => firstTrap [mainOnly s, caseTrap 8 [(7, s.here.box.swapWait, 0)]]
  | .shlk _ _ _ b _ => caseTrap 7 [(8, fld (s.rS b) 16 48 != 0, s.rS b)]
  | .shmap _ d _ b _ _ => caseTrap 7 [(8, fld (s.rS b) 16 48 != 0, s.rS b), (8, fld (s.rS d) 62 2 == 0, s.rS d)]
  | .shunmap _ _ _ b _ _ => caseTrap 7 [(8, fld (s.rS b) 16 48 != 0, s.rS b)]
  | .shref _ _ _ b _ _ => caseTrap 7 [(8, fld (s.rS b) 16 48 != 0, s.rS b)]
  | .cpy _ d a b _ _ => firstTrap [lenTrap (s.rS b),
      lowestTrap 5 (gaddrCases (s.rS d) (s.rS b).toNat ++ gaddrCases (s.rS a) (s.rS b).toNat)]
  | .cpy2 _ d _ _ => lowestTrap 5 (sramCases s (s.rS d) 32 8)
  | .cpyc _ d _ _ => lowestTrap 5 (sramCases s (s.rS d) 32 8)
  | .cpyl _ d a _ _ => firstTrap [caseTrap 7 [(1, s.rS a == 0 || decide (256 < (s.rS a).toNat), s.rS a)],
      lowestTrap 5 (sramCases s (s.rS d) (24 * (s.rS a).toNat) 8)]
  | .fill _ d _ b _ _ => firstTrap [lenTrap (s.rS b), lowestTrap 5 (gaddrCases (s.rS d) (s.rS b).toNat)]
  | .qfence _ a _ _ => caseTrap 7 [(2, fld (s.rS a) 8 56 != 0, s.rS a)]
  | .rst _ d _ size => lowestTrap 5 (elemCases (s.rS d) size.toNat (size == 3))
  | .rat _ d _ _ size _ => lowestTrap 5 (elemCases (s.rS d) size.toNat false)
  | .ratf _ d _ b _ size _ =>
    lowestTrap 5 (elemCases (s.rS d) size.toNat false ++ sramCases s (s.rS b) (2 ^ size.toNat) (2 ^ size.toNat))
  | .rld _ d a size _ =>
    lowestTrap 5 (elemCases (s.rS d) size.toNat false ++ sramCases s (s.rS a) (2 ^ size.toNat) (2 ^ size.toNat))
  | .hflush _ d all _ => if all then none else
      caseTrap 5 [(4, gaddr (s.rS d) == .reserved, s.rS d),
                  (5, (match gaddr (s.rS d) with | .virt va => decide (2 ^ 57 ≤ va) | _ => false), s.rS d)]
  | .hstat _ _ a _ => caseTrap 7 [(2, fld (s.rS a) 4 60 != 0, s.rS a)]
  | .phase _ => mainOnly s
  | .prep _ => mainOnly s
  | .bkinit _ k d a => firstTrap [caseTrap 8 [(8, bkinitBad s k.toNat, 0)],
      caseTrap 7 [(6, fld (s.rS a) 0 10 == 0 || decide (768 < fld (s.rS a) 0 10) || fld (s.rS a) 10 6 != 0 ||
        fld (s.rS a) 24 7 != 0 || fld (s.rS a) 32 32 != 0 || (fld (s.rS a) 31 1 == 1 && fld (s.rS a) 16 8 == 0), s.rS a)],
      lowestTrap 5 (sramCases s (s.rS d) (64 * fld (s.rS a) 0 10 * (fld (s.rS a) 16 8 + 1)) 64)]
  | .bkaw _ k _ _ => caseTrap 8 [(9, !s.basketOk k.toNat, 0)]
  | .bkpost _ k a b =>
    let bk := s.here.basket k.toNat
    let bound := match s.here.entryFor (fld (s.rS b) 0 8) with
      | some e => hentOwner (s.here.hentOf e) == s.kern.owner && hentBasket (s.here.hentOf e) == k.toNat
      | none => false
    firstTrap [caseTrap 8 [(9, !s.basketOk k.toNat || !bk.slotIn (s.rS a).toNat [.claimed], 0)],
      caseTrap 7 [(6, (fld (s.rS b) 60 4 != 1 && fld (s.rS b) 60 4 != 2) || fld (s.rS b) 48 12 != 0 ||
        fld (s.rS b) 8 8 != 0 || decide (bk.bytes < fld (s.rS b) 16 32) || !bound, s.rS b)]]
  | .bkrel _ k a => caseTrap 8 [(9, !s.basketOk k.toNat ||
      !(s.here.basket k.toNat).slotIn (s.rS a).toNat [.claimed, .held], 0)]
  | .bari _ d a mem _ => handleTrap s (s.rS d) mem [(1, countBad s (s.rS a) mem, s.rS a)]
  | .bara _ d mem _ => handleTrap s (s.rS d) mem []
  | .barw _ d mem => handleTrap s (s.rS d) mem []
  | .waitm _ d _ _ => lowestTrap 5 (sramCases s (s.rS d) 8 8)
  | .keep _ d a _ => rangeTrap s d a
  | .disc _ d a => rangeTrap s d a
  | .nred _ d a b _ size _ => firstTrap [caseTrap 7 [(1, groupNBad (s.rS b), s.rS b), (10, groupBad (s.rS b), s.rS b)],
      lowestTrap 5 (sramCases s (s.rS d) (groupN (s.rS b) * 2 ^ size.toNat) (2 ^ size.toNat) ++
        sramCases s (s.rS a) (groupN (s.rS b) * 2 ^ size.toNat) (2 ^ size.toNat))]
  | .nbcast _ d a b size _ _ => firstTrap [caseTrap 7 [(1, groupNBad (s.rS b), s.rS b), (10, groupBad (s.rS b), s.rS b)],
      lowestTrap 5 (sramCases s (s.rS d) (groupN (s.rS b) * 2 ^ size.toNat) (2 ^ size.toNat) ++
        sramCases s (s.rS a) (groupN (s.rS b) * 2 ^ size.toNat) (2 ^ size.toNat))]
  | _ => none

/-- The queue that an instruction enters, where it enters one, has room for it, and so has its tag (R44, R296). -/
def roomOf (i : Instr) (s : State) : Bool :=
  let t := s.here
  match i with
  | .pld _ _ _ _ _ _ _ q => decide (t.arrayQ.length < 16) && t.tagRoom q.tagOf
  | .pldv _ _ _ _ _ _ _ q => decide (t.arrayQ.length < 16) && t.tagRoom q.tagOf
  | .az _ _ q => decide (t.arrayQ.length < 16) && t.tagRoom q.tagOf
  | .mma _ _ _ _ _ _ _ _ _ _ q => decide (t.arrayQ.length < 16) && t.tagRoom q.tagOf
  | .ard _ _ _ _ q => decide (t.arrayQ.length < 16) && t.tagRoom q.tagOf
  | .awr _ _ _ _ q => decide (t.arrayQ.length < 16) && t.tagRoom q.tagOf
  | .ascl _ _ _ q => decide (t.arrayQ.length < 16) && t.tagRoom q.tagOf
  | .arowmax _ _ _ _ q => decide (t.arrayQ.length < 16) && t.tagRoom q.tagOf
  | .aexp _ _ _ q => decide (t.arrayQ.length < 16) && t.tagRoom q.tagOf
  | .arowsum _ _ _ _ q => decide (t.arrayQ.length < 16) && t.tagRoom q.tagOf
  | .acvt _ _ _ _ _ q => decide (t.arrayQ.length < 16) && t.tagRoom q.tagOf
  | .amask _ _ _ _ q => decide (t.arrayQ.length < 16) && t.tagRoom q.tagOf
  | .attv _ _ _ _ _ _ _ _ _ _ q => decide (t.arrayQ.length < 16) && t.tagRoom q.tagOf
  | .acmb _ _ _ _ _ _ q => decide (t.arrayQ.length < 16) && t.tagRoom q.tagOf
  | .anrm _ _ _ _ q => decide (t.arrayQ.length < 16) && t.tagRoom q.tagOf
  | .tsend _ _ _ q => decide (t.netUsed < 8) && t.tagRoom q.tagOf
  | .tfwd _ _ _ q => decide (t.netUsed < 8) && t.tagRoom q.tagOf
  | .tfork _ _ _ _ q => decide (t.netUsed < 8) && t.tagRoom q.tagOf
  | .eos _ _ q => decide (t.netUsed < 8) && t.tagRoom q.tagOf
  | .cfgld _ _ _ q => decide (t.netUsed < 8) && t.tagRoom q.tagOf
  | .shlk _ _ _ _ q => decide (t.shardQ.length < 8) && t.tagRoom q.tagOf
  | .shmap _ _ _ _ _ q => decide (t.shardQ.length < 8) && t.tagRoom q.tagOf
  | .shunmap _ _ _ _ _ q => decide (t.shardQ.length < 8) && t.tagRoom q.tagOf
  | .shref _ _ _ _ _ q => decide (t.shardQ.length < 8) && t.tagRoom q.tagOf
  | .cpy _ _ _ _ _ q => decide (t.engPort.length < 8) && t.tagRoom q.tagOf
  | .cpy2 _ _ _ q => decide (t.engPort.length < 8) && t.tagRoom q.tagOf
  | .cpyl _ _ _ _ q => decide (t.engPort.length < 8) && t.tagRoom q.tagOf
  | .cpyc _ _ _ q => decide (t.engPort.length < 8) && t.tagRoom q.tagOf
  | .fill _ _ _ _ _ q => decide (t.engPort.length < 8) && t.tagRoom q.tagOf
  | .qfence _ _ _ q => decide (t.engPort.length < 8) && t.tagRoom q.tagOf
  | .rst .. => decide (t.insQ.length < 4)
  | .rat .. => decide (t.insQ.length < 4)
  | .phase _ => decide (t.insQ.length < 4)
  | .fence _ k scope => !fenceWide k scope || decide (t.insQ.length < 4)
  | .hflush _ _ _ q => decide (t.insQ.length < 4) && t.tagRoom q.tagOf
  | .ratf _ _ _ _ _ _ q => t.reqRoom && t.tagRoom q.tagOf
  | .rld _ _ _ _ q => t.reqRoom && t.tagRoom q.tagOf
  | .bari _ _ _ _ q => t.reqRoom && t.tagRoom q.tagOf
  | .bara _ _ _ q => t.reqRoom && t.tagRoom q.tagOf
  | .barw .. => t.reqRoom
  | .waitm .. => t.freeMon.isSome
  | .nred _ _ _ _ _ _ q => decide (t.collQ.length < 4) && t.tagRoom q.tagOf
  | .nbcast _ _ _ _ _ _ q => decide (t.collQ.length < 4) && t.tagRoom q.tagOf
  | _ => true

/-- The word issues and nothing stands in its way. -/
def State.runs (s : State) (i : Instr) (g : Guard) : Bool := s.ready i g && (checksOf i s).isNone && roomOf i s

/-! ### What a step leaves as it was -/

/-- Every byte of every memory of the machine reads as it did. -/
def State.memSame (s t : State) : Prop :=
  (∀ n a, byteAt (t.tile n).sram a = byteAt (s.tile n).sram a ∧ byteAt (t.tile n).plane a = byteAt (s.tile n).plane a) ∧
    ∀ a, byteAt t.hbm a = byteAt s.hbm a ∧ byteAt t.vault a = byteAt s.vault a ∧ byteAt t.host0 a = byteAt s.host0 a ∧
      byteAt t.host1 a = byteAt s.host1 a ∧ byteAt t.sched.mem a = byteAt s.sched.mem a

/-- Every byte of every memory but the SRAM of one tile reads as it did. -/
def State.memButSram (s t : State) (site : Nat) : Prop :=
  (∀ n a, n ≠ site → byteAt (t.tile n).sram a = byteAt (s.tile n).sram a) ∧
    (∀ n a, byteAt (t.tile n).plane a = byteAt (s.tile n).plane a) ∧
    ∀ a, byteAt t.hbm a = byteAt s.hbm a ∧ byteAt t.vault a = byteAt s.vault a ∧ byteAt t.host0 a = byteAt s.host0 a ∧
      byteAt t.host1 a = byteAt s.host1 a ∧ byteAt t.sched.mem a = byteAt s.sched.mem a

/-- Of all memories, only the bytes of some pieces of a tile's SRAM are changed: each holds what the last piece that has it
gives. -/
def State.sramHolds (s t : State) (site : Nat) (pieces : List (Nat × List Byte)) : Prop :=
  ∀ x, byteAt (t.tile site).sram x =
    (pieces.reverse.findSome? fun q => if q.1 ≤ x ∧ x < q.1 + q.2.length then some (nth q.2 (x - q.1) 0) else none).getD
      (byteAt (s.tile site).sram x)
def State.wroteSram (s t : State) (site : Nat) (pieces : List (Nat × List Byte)) : Prop :=
  s.memButSram t site ∧ s.sramHolds t site pieces

/-- Every byte of every memory but the SRAM and the plane store of one tile reads as it did. -/
def State.memButTile (s t : State) (site : Nat) : Prop :=
  (∀ n a, n ≠ site → byteAt (t.tile n).sram a = byteAt (s.tile n).sram a ∧ byteAt (t.tile n).plane a = byteAt (s.tile n).plane a) ∧
    ∀ a, byteAt t.hbm a = byteAt s.hbm a ∧ byteAt t.vault a = byteAt s.vault a ∧ byteAt t.host0 a = byteAt s.host0 a ∧
      byteAt t.host1 a = byteAt s.host1 a ∧ byteAt t.sched.mem a = byteAt s.sched.mem a

/-- Every byte of every memory but some runs, each of a number of bytes from a place on, reads as it did. -/
def State.memButRuns (s t : State) (l : List (Mem × Nat)) : Prop :=
  let out (base n x : Nat) : Prop := x < base ∨ base + n ≤ x
  (∀ k x, (∀ off n, (.sram k off, n) ∈ l → out off n x) → byteAt (t.tile k).sram x = byteAt (s.tile k).sram x) ∧
    (∀ k x, (∀ off n, (.plane k off, n) ∈ l → out off n x) → byteAt (t.tile k).plane x = byteAt (s.tile k).plane x) ∧
    (∀ x, (∀ k off n, (.vault k off, n) ∈ l → out (2 ^ 25 * k + off) n x) → byteAt t.vault x = byteAt s.vault x) ∧
    (∀ x, (∀ pa n, (.hbm pa, n) ∈ l → out pa n x) → byteAt t.hbm x = byteAt s.hbm x) ∧
    (∀ x, (∀ a n, (.host 0 a, n) ∈ l → out a n x) → byteAt t.host0 x = byteAt s.host0 x) ∧
    (∀ x, (∀ k a n, (.host k a, n) ∈ l → k ≠ 0 → out a n x) → byteAt t.host1 x = byteAt s.host1 x) ∧
    ∀ x, byteAt t.sched.mem x = byteAt s.sched.mem x

/-- Every byte of every memory but n bytes at a place reads as it did. -/
def State.memButAt (s t : State) (m : Mem) (n : Nat) : Prop := s.memButRuns t [(m, n)]

/-- No effect that is issued later than three cycles ago lands in cycle c: what a local access delivers for that cycle is what
the slot then reads (R38). -/
def Slot.clearAt (x : Slot) (now c : Nat) : Bool := x.pend.all fun q => decide (q.land ≠ c ∨ q.iss ≤ now - 3)

/-- An element of memory of 2^size bytes, extended to a register of n bits (R3). -/
def extElem (n size : Nat) (sx : Bool) (v : Nat) : BitVec n :=
  if sx then BitVec.ofInt n (svOf (8 * 2 ^ size) v) else BitVec.ofNat n (v % 2 ^ (8 * 2 ^ size))

/-- Nothing but one tile is changed. -/
def State.onlyTile (s t : State) (n : Nat) : Prop := t = { s with tiles := t.tiles } ∧ ∀ m, m ≠ n → t.tile m = s.tile m

/-- Nothing but one slot is changed. -/
def State.onlySlot (s t : State) (n k : Nat) : Prop :=
  s.onlyTile t n ∧ t.tile n = { s.tile n with slots := (t.tile n).slots } ∧ ∀ j, j ≠ k → t.slot n j = s.slot n j

/-- A message has left for a package: into the planes of this one, or out of it by the circuit bound for it or by the packet
pool, where there is a way (R407, R408, R505). While the routing tables wait to be rewritten it is held (R510). -/
def State.postedOn (s t : State) (circ : Option Nat) (pkg : Nat) (m : Msg) : Prop :=
  if s.rewriting then
    t.heldMsgs = s.heldMsgs ++ [(if pkg = s.pkg then none else circ, pkg, m)] ∧ t.wire = s.wire ∧ t.outbox = s.outbox
  else if pkg = s.pkg then
    t.wire = s.wire ++ [⟨s.nextMsg, none, m⟩] ∧ t.outbox = s.outbox ∧ t.heldMsgs = s.heldMsgs
  else
    t.outbox = (if s.hasWay circ pkg then s.outbox ++ [.msg pkg m] else s.outbox) ∧ t.wire = s.wire ∧ t.heldMsgs = s.heldMsgs

/-- Messages have left one after another by the packet pool: those of this package, those of others. -/
def State.postedAll (s t : State) (l : List (Nat × Msg)) : Prop :=
  if s.rewriting then t.heldMsgs = s.heldMsgs ++ l.map (fun x => (none, x.1, x.2)) ∧ t.wire = s.wire ∧ t.outbox = s.outbox
  else t.wire = s.wire ++ ((l.filter (·.1 == s.pkg)).mapIdx fun i x => ⟨s.nextMsg + i, none, x.2⟩) ∧
    t.outbox = s.outbox ++ ((l.filter fun x => x.1 != s.pkg && s.wayOut x.1).map fun x => .msg x.1 x.2) ∧
    t.heldMsgs = s.heldMsgs

/-- A message has left by the packet pool. -/
def State.posted (s t : State) (pkg : Nat) (m : Msg) : Prop := s.postedOn t none pkg m

/-- A slot that a kernel is bound to, with room for a recorded fault (R457). -/
def Slot.keeps (x : Slot) : Bool := x.state != .empty && decide (x.faults.length < 8)

/-- An asynchronous fault of the instruction with this trace stands recorded against its slot (R457). -/
def State.recorded (s t : State) (tr : Trace) (cls code : Nat) (value : W64) : Prop :=
  ∃ f : FaultRec, f.cls = cls ∧ f.code = code ∧ f.value = value ∧ f.tr = tr ∧ f.async = true ∧ f.cyc = s.cyc ∧
    (t.slot tr.site tr.slot).faults = (s.slot tr.site tr.slot).faults ++ [f]

/-- The instruction with this trace has completed (R296). -/
def State.completed (s t : State) (tr : Trace) : Prop :=
  (t.tile tr.site).tags = ((s.tile tr.site).tagDone tr.tag).tags ∧
    (t.tile tr.site).tagCount = ((s.tile tr.site).tagDone tr.tag).tagCount

/-- The tags of a tile are as they were. -/
def State.tagsSame (s t : State) (n : Nat) : Prop :=
  (t.tile n).tags = (s.tile n).tags ∧ (t.tile n).tagCount = (s.tile n).tagCount

/-- Nothing but the issuing slot and the issuing tile's record of progress is changed. -/
def State.onlyMe (s t : State) : Prop :=
  t = { s with tiles := t.tiles } ∧ (∀ n, n ≠ s.curSite → t.tile n = s.tile n) ∧
    t.here = { s.here with slots := t.here.slots, progress := t.here.progress } ∧
    ∀ k, k ≠ s.curSlot → t.here.slot k = s.here.slot k

/-- A register of y reads at every cycle as it reads in x, unless the effect writes it. -/
def Slot.sameRegs (x y : Slot) (e : Option PEffect) : Prop :=
  ∀ c r k, ((e.bind (selS r)).isNone → y.regS c r = x.regS c r) ∧ ((e.bind (selP r)).isNone → y.regP c r = x.regP c r) ∧
    ((e.bind (selM r k)).isNone → y.maskBit c r k = x.maskBit c r k) ∧
    ((e.bind (selV r k)).isNone → y.lane c r k = x.lane c r k) ∧
    ((e.bind (selSys r)).isNone → y.sysReg c r = x.sysReg c r)

/-- The slot stands at the next word: in RUN, or HELD for the hold of its guard (R36, R48). -/
def State.wentOn (s t : State) (g : Guard) : Prop :=
  t.me.pc = s.me.pc + 1 ∧ t.me.hold = g.hold.toNat ∧ t.me.state = (if g.hold = 0 then .run else .held)

/-- The effect of a word stands after those that were pending, for its landing cycle; nothing else is pending (R38). -/
def Slot.pends (x y : Slot) (cyc : Nat) : Option PEffect → Prop
  | none => y.pend = x.pend
  | some e => ∃ lat, y.pend = x.pend ++ [⟨cyc + lat, cyc, e, false⟩]

/-- The instructions of the class of DIV, and those of the special-function unit (R40). -/
def divWord : Instr → Bool
  | .div .. => true
  | .rem .. => true
  | _ => false

def sfuWord : Instr → Bool
  | .vexp2 .. => true
  | .vlog2 .. => true
  | .vrcp .. => true
  | .vrsq .. => true
  | _ => false

/-- A word that only writes registers, of which e is the write: the slot goes on, a word of the class of DIV (dv) or of the
special-function unit (sf) starts the interval of its class, and everything else that the slot holds, its pending effects among
them, the tile holds and the machine holds is as it was. -/
def State.wroteOnly (s t : State) (g : Guard) (e : Option PEffect) (dv : Bool := false) (sf : Bool := false) : Prop :=
  s.wentOn t g ∧ s.me.sameRegs t.me e ∧ s.memSame t ∧ s.onlyMe t ∧ s.me.pends t.me s.cyc e ∧
    t.me = { s.me with pc := t.me.pc, state := t.me.state, hold := t.me.hold, pend := t.me.pend, lastTr := t.me.lastTr,
                       lastDiv := if dv then some s.cyc else s.me.lastDiv,
                       lastSfu := if sf then some s.cyc else s.me.lastSfu }

/-! ### What the register instructions deliver -/

/-- The scalar result of a word: its latency (R39), its destination and the value. -/
def scalarOut (i : Instr) (s : State) : Option (Nat × SReg × W64) :=
  match i with
  | .add _ d a b ty sat => some (2, d, extOf ty (satIf sat ty (valS ty s a + valS ty s b)))
  | .sub _ d a b ty sat => some (2, d, extOf ty (satIf sat ty (valS ty s a - valS ty s b)))
  | .mul _ d a b ty sat => some (4, d, extOf ty (satIf sat ty (valS ty s a * valS ty s b)))
  | .mulh _ d a b ty => some (4, d, extOf ty (Int.fdiv (valS ty s a * valS ty s b) (2 ^ tyWidth ty : Nat)))
  | .div _ d a b ty => some (24, d, extOf ty (if valS ty s b = 0 then -1 else (valS ty s a).tdiv (valS ty s b)))
  | .rem _ d a b ty => some (24, d, extOf ty (if valS ty s b = 0 then valS ty s a else (valS ty s a).tmod (valS ty s b)))
  | .and _ d a b ty => some (2, d, extOf ty ((s.rS a &&& s.rS b).toNat : Nat))
  | .or _ d a b ty => some (2, d, extOf ty ((s.rS a ||| s.rS b).toNat : Nat))
  | .xor _ d a b ty => some (2, d, extOf ty ((s.rS a ^^^ s.rS b).toNat : Nat))
  | .andn _ d a b ty => some (2, d, extOf ty ((s.rS a &&& ~~~(s.rS b)).toNat : Nat))
  | .shl _ d a b ty => some (2, d, extOf ty (shlN (tyWidth ty) (uvOf (tyWidth ty) (s.rS a).toNat) (s.rS b).toNat : Nat))
  | .shr _ d a b ty => some (2, d, extOf ty (shrN (tyWidth ty) (uvOf (tyWidth ty) (s.rS a).toNat) (s.rS b).toNat : Nat))
  | .sar _ d a b ty => some (2, d, extOf ty (sarI (tyWidth ty) (s.rS a).toNat (s.rS b).toNat))
  | .rotl _ d a b ty => some (2, d, extOf ty (rotlN (tyWidth ty) (uvOf (tyWidth ty) (s.rS a).toNat) (s.rS b).toNat : Nat))
  | .min _ d a b ty => some (2, d, extOf ty (min (valS ty s a) (valS ty s b)))
  | .max _ d a b ty => some (2, d, extOf ty (max (valS ty s a) (valS ty s b)))
  | .abs _ d a ty sat => some (2, d, extOf ty (satIf sat ty ((svOf (tyWidth ty) (s.rS a).toNat).natAbs : Int)))
  | .clz _ d a ty => some (2, d, BitVec.ofNat 64 (clzN (tyWidth ty) (uvOf (tyWidth ty) (s.rS a).toNat)))
  | .ctz _ d a ty => some (2, d, BitVec.ofNat 64 (ctzN (tyWidth ty) (uvOf (tyWidth ty) (s.rS a).toNat)))
  | .popc _ d a ty => some (2, d, BitVec.ofNat 64 (popNat (s.rS a).toNat (tyWidth ty)))
  | .bswap _ d a ty => some (2, d, extOf ty (bswapN (tyWidth ty) (uvOf (tyWidth ty) (s.rS a).toNat) : Nat))
  | .bfx _ d a pos wid => some (2, d, s.rS a >>> pos.toNat &&& BitVec.ofNat 64 (2 ^ wid.toNat - 1))
  | .bfi _ d a pos wid =>
    let f := BitVec.ofNat 64 (2 ^ wid.toNat - 1) <<< pos.toNat
    some (2, d, (s.rS d &&& ~~~f) ||| (s.rS a <<< pos.toNat &&& f))
  | .addImm _ d a imm => some (2, d, s.rS a + imm.signExtend 64)
  | .subImm _ d a imm => some (2, d, s.rS a - imm.signExtend 64)
  | .mulImm _ d a imm => some (4, d, s.rS a * imm.signExtend 64)
  | .andImm _ d a imm => some (2, d, s.rS a &&& imm.signExtend 64)
  | .orImm _ d a imm => some (2, d, s.rS a ||| imm.signExtend 64)
  | .xorImm _ d a imm => some (2, d, s.rS a ^^^ imm.signExtend 64)
  | .shlImm _ d a imm => some (2, d, s.rS a <<< (imm.signExtend 64).toNat)
  | .shrImm _ d a imm => some (2, d, s.rS a >>> (imm.signExtend 64).toNat)
  | .sarImm _ d a imm => some (2, d, (s.rS a).sshiftRight (imm.signExtend 64).toNat)
  | .rotlImm _ d a imm => some (2, d, (s.rS a).rotateLeft ((imm.signExtend 64).toNat % 64))
  | .minImm _ d a imm => some (2, d, if (s.rS a).sle (imm.signExtend 64) then s.rS a else imm.signExtend 64)
  | .maxImm _ d a imm => some (2, d, if (s.rS a).sle (imm.signExtend 64) then imm.signExtend 64 else s.rS a)
  | .lea _ d a b k => some (2, d, s.rS a + s.rS b * BitVec.ofNat 64 (2 ^ k.toNat))
  | .leaImm _ d a imm => some (2, d, s.rS a + imm.signExtend 64 <<< 3)
  | .movi _ d imm => some (2, d, imm.signExtend 64)
  | .movhi _ d a imm => some (2, d, imm.zeroExtend 64 <<< 32 ||| (s.rS a &&& 0xFFFFFFFF))
  | .mov _ d a ty => some (2, d, extOf ty (valS ty s a))
  | .csel _ d a b p => some (2, d, if s.rP p then s.rS a else s.rS b)
  | .pmov _ (.pk d) => some (2, d, BitVec.ofNat 64 (maskOf 8 fun k => s.me.regP s.cyc k))
  | .pmov _ (.ps d p) => some (2, d, if s.rP p then 1 else 0)
  | .cycle _ d => some (2, d, BitVec.ofNat 64 s.cyc)
  | .time _ d => some (2, d, BitVec.ofNat 64 (4 * s.cyc / 5))
  | .capq _ d a => some (6, d, s.capOf (s.rS a))
  | .widq _ d f k => some (2, d, widqValue f k.toNat s)
  | .mfs _ d n => some (2, d, (s.sysRead n.toNat).getD 0)
  | .tfirst _ d a => some (2, d, BitVec.ofNat 64 ((lowestSet (s.here.tags &&& s.rS a).toNat 64).getD 64))
  | .hstat _ d a dst => some (2, d, if dst then s.here.hdst (fld (s.rS a) 0 4) else s.here.hstat s.cyc (fld (s.rS a) 0 4))
  | .drainq _ d => some (2, d, s.drainWord)
  | .vredadd _ d a m => some (5, d, BitVec.ofNat 64 (s.reduce m 0x80000000 (fadd .f32) fun k => (s.rLane a k).toNat))
  | .vredmax _ d a m => some (5, d, BitVec.ofNat 64 (s.reduce m 0xFF800000 (fmaxC .f32) fun k => (s.rLane a k).toNat))
  | .vredmin _ d a m => some (5, d, BitVec.ofNat 64 (s.reduce m 0x7F800000 (fminC .f32) fun k => (s.rLane a k).toNat))
  | .vired _ d a ty op m => some (5, d, extOf ty
      (s.reduce m (redIdent op (tyWidth ty)) (redI op (tyWidth ty)) fun k => uvOf (tyWidth ty) (s.rLane a k).toNat : Nat))
  | .vext _ d a b ty => some (3, d, if (s.rS b).toNat < s.vlen then extOf ty ((s.rLane a (s.rS b).toNat).toNat : Nat) else 0)
  | .mfirst _ d a => some (3, d, BitVec.ofNat 64 (((List.range s.vlen).find? (s.inLane a)).getD s.vlen))
  | .mpopc _ d a => some (3, d, BitVec.ofNat 64 ((List.range s.vlen).filter (s.inLane a)).length)
  | .mget _ d a hi => some (3, d, BitVec.ofNat 64 (maskOf 64 fun k => s.inLane a ((if hi then 64 else 0) + k)))
  | _ => none

/-- The predicate result of a word, and its destination. -/
def predOut (i : Instr) (s : State) : Option (PReg × Bool) :=
  match i with
  | .cmp _ d a b ty cc => some (d, condI cc (valS ty s a) (valS ty s b))
  | .cmpImm _ d a cc uns imm => some (d,
      if uns then condI cc ((s.rS a).toNat : Int) ((imm.signExtend 64).toNat : Int)
      else condI cc (s.rS a).toInt (imm.signExtend 64).toInt)
  | .plog _ d a b tt => some (d, truth tt (s.rP a) (s.rP b))
  | .pmov _ (.sp d a) => some (d, s.rS a != 0)
  | _ => none

/-- Lanes under a mask (R236): the included ones take f, the excluded ones zero when MZ = 1, and else are not written. -/
def State.masked (s : State) (m : Msk) (f : Nat → W32) (k : Nat) : Option W32 :=
  if s.vlen ≤ k then none else if s.inLane m.m k then some (f k) else if m.mz then some 0 else none

/-- The lanes of a list of writes. -/
def lanesOut (l : List (Nat × W32)) (k : Nat) : Option W32 := (l.find? (·.1 == k)).map (·.2)

/-- The vector result of a word: its latency, its destination, and of each lane the new value, none where it is not written. -/
def vectorOut (i : Instr) (s : State) : Option (Nat × VReg × (Nat → Option W32)) :=
  match i with
  | .vadd _ d a b ty m => some (5, d, s.masked m (lane2 ty fadd a b s))
  | .vsub _ d a b ty m => some (5, d, s.masked m (lane2 ty fsub a b s))
  | .vmul _ d a b ty m => some (5, d, s.masked m (lane2 ty fmul a b s))
  | .vfma _ d a b c ty m => some (5, d, s.masked m (lane3 ty ffma a b c s))
  | .vfms _ d a b c ty m => some (5, d, s.masked m (lane3 ty ffms a b c s))
  | .vmin _ d a b ty m => some (5, d, s.masked m (lane2 ty fminC a b s))
  | .vmax _ d a b ty m => some (5, d, s.masked m (lane2 ty fmaxC a b s))
  | .vabs _ d a ty m => some (5, d, s.masked m (lane1 ty fabsC a s))
  | .vneg _ d a ty m => some (5, d, s.masked m (lane1 ty fnegC a s))
  | .vclass _ d a ty m => some (5, d, s.masked m (lane1 ty classWord a s))
  | .vexp2 _ d a m => some (8, d, s.masked m fun k => BitVec.ofNat 32 (fexp2 (s.rLane a k).toNat))
  | .vlog2 _ d a m => some (8, d, s.masked m fun k => BitVec.ofNat 32 (flog2 (s.rLane a k).toNat))
  | .vrcp _ d a m => some (8, d, s.masked m fun k => BitVec.ofNat 32 (frcp (s.rLane a k).toNat))
  | .vrsq _ d a m => some (8, d, s.masked m fun k => BitVec.ofNat 32 (frsq (s.rLane a k).toNat))
  | .vscan _ d a m => some (5, d, s.masked m fun k => s.scanLane a m.m k)
  | .vcvt _ d a dst src rc m => some (5, d, s.masked m fun k => s.cvtLane a dst src rc.toNat m.m k)
  | .vpack _ d a b ty scale => some (3, d, lanesOut (s.packLanes d a ty scale (s.rS b).toNat))
  | .vunpk _ d a b ty scale => some (3, d, lanesOut (s.unpackLanes d a ty scale (s.rS b).toNat))
  | .viadd _ d a b ty sat m => some (5, d, s.masked m fun k =>
      laneOut ty (satIf sat ty (valOf ty (s.rLane a k).toNat + valOf ty (s.rLane b k).toNat)))
  | .visub _ d a b ty sat m => some (5, d, s.masked m fun k =>
      laneOut ty (satIf sat ty (valOf ty (s.rLane a k).toNat - valOf ty (s.rLane b k).toNat)))
  | .vimul _ d a b ty sat m => some (5, d, s.masked m fun k =>
      laneOut ty (satIf sat ty (valOf ty (s.rLane a k).toNat * valOf ty (s.rLane b k).toNat)))
  | .vimulh _ d a b ty m => some (5, d, s.masked m fun k =>
      laneOut ty (Int.fdiv (valOf ty (s.rLane a k).toNat * valOf ty (s.rLane b k).toNat) (2 ^ tyWidth ty : Nat)))
  | .vand _ d a b ty m => some (5, d, s.masked m fun k => laneOut ty ((s.rLane a k &&& s.rLane b k).toNat : Nat))
  | .vor _ d a b ty m => some (5, d, s.masked m fun k => laneOut ty ((s.rLane a k ||| s.rLane b k).toNat : Nat))
  | .vxor _ d a b ty m => some (5, d, s.masked m fun k => laneOut ty ((s.rLane a k ^^^ s.rLane b k).toNat : Nat))
  | .vshl _ d a b ty m => some (5, d, s.masked m fun k =>
      laneOut ty (shlN (tyWidth ty) (uvOf (tyWidth ty) (s.rLane a k).toNat) (s.rLane b k).toNat : Nat))
  | .vshr _ d a b ty m => some (5, d, s.masked m fun k =>
      laneOut ty (shrN (tyWidth ty) (uvOf (tyWidth ty) (s.rLane a k).toNat) (s.rLane b k).toNat : Nat))
  | .vsar _ d a b ty m => some (5, d, s.masked m fun k =>
      laneOut ty (sarI (tyWidth ty) (s.rLane a k).toNat (s.rLane b k).toNat))
  | .vimin _ d a b ty m => some (5, d, s.masked m fun k =>
      laneOut ty (min (valOf ty (s.rLane a k).toNat) (valOf ty (s.rLane b k).toNat)))
  | .vimax _ d a b ty m => some (5, d, s.masked m fun k =>
      laneOut ty (max (valOf ty (s.rLane a k).toNat) (valOf ty (s.rLane b k).toNat)))
  | .vbcast _ d a ty m => some (3, d, s.masked m fun _ => laneOut ty ((s.rS a).toNat : Nat))
  | .vins _ d a b ty => some (3, d, fun k =>
      if k < s.vlen ∧ k = (s.rS b).toNat then some (laneOut ty ((s.rS a).toNat : Nat)) else none)
  | .vsel _ d a b c => some (3, d, fun k =>
      if k < s.vlen then some (if s.inLane c k then s.rLane a k else s.rLane b k) else none)
  | .vpermb _ d a b lane m => some (3, d, s.masked m fun k => s.permLane a b lane k)
  | .vshuf _ d a b m => some (3, d, s.masked m fun k =>
      if (s.rLane b k).toNat < s.vlen then s.rLane a (s.rLane b k).toNat else 0)
  | .vslide _ d a b c down m => some (3, d, s.masked m fun k => s.slideLane a b (s.rS c).toNat down k)
  | .viota _ d a m => some (3, d, s.masked m fun k => (s.rS a).truncate 32 + BitVec.ofNat 32 k)
  | _ => none

/-- A comparison of lanes under a mask (R236). -/
def State.maskedBit (s : State) (m : Msk) (f : Nat → Bool) (k : Nat) : Option Bool :=
  if s.vlen ≤ k then none else if s.inLane m.m k then some (f k) else if m.mz then some false else none

/-- The lane mask that a word writes: its latency, its destination and the bits written. -/
def maskOut (i : Instr) (s : State) : Option (Nat × MReg × (Nat → Option Bool)) :=
  match i with
  | .vcmpf _ d a b ty cc m => some (5, d, s.maskedBit m fun k =>
      condF (Ty.fmt ty) cc (codeOf ty (s.rLane a k)) (codeOf ty (s.rLane b k)))
  | .vicmp _ d a b ty cc m => some (5, d, s.maskedBit m fun k =>
      condI cc (valOf ty (s.rLane a k).toNat) (valOf ty (s.rLane b k).toNat))
  | .mlog _ d a b tt => some (3, d, fun k => if k < s.vlen then some (truth tt (s.inLane a k) (s.inLane b k)) else none)
  | .mset _ d a b first => some (3, d, fun k =>
      if k < s.vlen then some (if first then decide (k < (s.rS a).toNat) else (s.rS b ++ s.rS a).getLsbD k) else none)
  | _ => none

/-! ### What the other words do -/

/-- Where a branch goes on, whether it is taken, and the link register it writes with its value (R213, R215, R216). -/
def flowOut (i : Instr) (s : State) : Option (Option (SReg × W64) × Int × Bool) :=
  match i with
  | .nop _ => some (none, s.me.pc + 1, false)
  | .br _ off => some (none, s.me.pc + off.toInt, true)
  | .jmp _ lc off => some (none, (s.rS lc).toNat + off.toInt, true)
  | .call _ lc off => some (some (lc, BitVec.ofNat 64 s.me.pc + 1), s.me.pc + off.toInt, true)
  | .ret _ lc => some (none, (s.rS lc).toNat, true)
  | .loop _ lc off =>
    if s.rS lc = 1 then some (some (lc, 0), s.me.pc + 1, false) else some (some (lc, s.rS lc - 1), s.me.pc + off.toInt, true)
  | _ => none

/-- The major opcodes that the tables of R186 assign. -/
def majorOpcodes : List (Nat × Nat) :=
  [(0x001, 0x01F), (0x021, 0x023), (0x027, 0x029), (0x02B, 0x030), (0x038, 0x038), (0x03C, 0x03C), (0x080, 0x090), (0x100, 0x10D),
   (0x180, 0x195), (0x200, 0x21A), (0x280, 0x28E), (0x300, 0x30F), (0x380, 0x39E)]

/-- The condition on which a slot sleeps, of the words that do nothing else (R49, R216, R225, R227, R298, R321). -/
def sleepOut (i : Instr) (s : State) : Option Wake :=
  match i with
  | .sleep _ a imm => some (.time (s.cyc + (s.rS a).toNat + imm.toNat))
  | .cwb _ => some (.code true (s.cyc + 4))
  | .fetchb _ => some (.code false (s.cyc + 4))
  | .twait _ a tag any => some (.tags (if a = 0 then 1 <<< tag.toNat else s.rS a) any)
  | _ => none

/-- The slot sleeps; its hold is counted from its waking (R36, R49). -/
def State.slept (s t : State) (g : Guard) (w : Wake) : Prop :=
  t.me.pc = s.me.pc + 1 ∧ t.me.state = .asleep ∧ t.me.wake = some w ∧ t.me.wakeHold = g.hold.toNat

/-- The local access of a memory word: what it does in its SRAM cycle, at physical addresses (R132, R219 to R226, R243, R244). -/
def accessOut (i : Instr) (s : State) : Option LAct :=
  let at' (a : SReg) (off : BitVec 26) : Nat := s.kern.sbase + (s.rS a + off.signExtend 64).toNat
  match i with
  | .ld _ d a size sx off => some (.load [(d.toNat, at' a off)] size.toNat sx)
  | .ldp _ d a size sx off =>
    some (.load [(2 * d.toNat, at' a off), (2 * d.toNat + 1, at' a off + 2 ^ size.toNat)] size.toNat sx)
  | .st _ d a size scope off =>
    some (.store (splitAligned (at' a off) (leBytes (2 ^ size.toNat) (s.rS d).toNat)) (decide (2 ≤ scope.code)) true)
  | .stp _ d a size scope off =>
    let n := 2 ^ size.toNat
    some (.store (splitAligned (at' a off) (leBytes n (s.me.regS s.cyc (2 * d.toNat)).toNat) ++
      splitAligned (at' a off + n) (leBytes n (s.me.regS s.cyc (2 * d.toNat + 1)).toNat)) (decide (2 ≤ scope.code)) true)
  | .latom _ d a b c ty op =>
    some (.atom d.toNat (s.kern.sbase + (s.rS a).toNat) op (tySize ty) (s.rS b) (s.rS c) ty.isSigned)
  | .iinv _ d a off =>
    some (.iinv (at' a off)
      (at' a off + min (if d = 0 then 1 else (s.rS d).toNat) (s.kern.sram - (s.rS a + off.signExtend 64).toNat)))
  | .vld _ d a size sx off =>
    some (.vload d.toNat ((s.unitAddrs a off size.toNat).map fun x => (x.1, s.kern.sbase + x.2)) size.toNat sx [])
  | .vst _ d a size scope off =>
    some (.store ((s.unitAddrs a off size.toNat).map fun x =>
      (s.kern.sbase + x.2, leBytes (2 ^ size.toNat) (s.rLane d x.1).toNat)) (decide (2 ≤ scope.code)) false)
  | .vlds _ d a b ty m =>
    some (.vload d.toNat ((s.strideAddrs a b m.m).map fun x => (x.1, s.kern.sbase + x.2)) (tySize ty) ty.isSigned
      (s.zeroLanes m))
  | .vsts _ a b c ty m =>
    some (.store ((s.strideAddrs a b m).map fun x =>
      (s.kern.sbase + x.2, leBytes (2 ^ tySize ty) (s.rLane c x.1).toNat)) false false)
  | .vgath _ d a b ty m k =>
    some (.vload d.toNat ((s.gatherAddrs a b k m.m).map fun x => (x.1, s.kern.sbase + x.2)) (tySize ty) ty.isSigned
      (s.zeroLanes m))
  | .vscat _ a b c ty m k =>
    some (.store ((s.gatherAddrs a b k m).map fun x =>
      (s.kern.sbase + x.2, leBytes (2 ^ tySize ty) (s.rLane c x.1).toNat)) false false)
  | _ => none

/-- The tag of an array instruction and the operands that its entry captures (R262). -/
def arrayOut (i : Instr) (s : State) : Option (QTag × W64 × W64 × W64 × List W32) :=
  match i with
  | .pld _ d a b _ _ _ q => some (q, s.rS d, s.rS a, s.rS b, [])
  | .pldv _ d a b _ _ _ q => some (q, s.rS d, 0, s.rS b, s.rV a)
  | .az _ _ q => some (q, 0, 0, 0, [])
  | .mma _ a b _ _ _ _ _ _ _ q => some (q, 0, s.rS a, s.rS b, [])
  | .ard _ a b _ q => some (q, 0, s.rS a, s.rS b, [])
  | .awr _ a b _ q => some (q, 0, s.rS a, s.rS b, [])
  | .ascl _ a _ q => some (q, 0, s.rS a, 0, [])
  | .arowmax _ a b _ q => some (q, 0, s.rS a, s.rS b, [])
  | .aexp _ a _ q => some (q, 0, s.rS a, 0, [])
  | .arowsum _ a b _ q => some (q, 0, s.rS a, s.rS b, [])
  | .acvt _ a _ _ _ q => some (q, 0, s.rS a, 0, [])
  | .amask _ a b _ q => some (q, 0, s.rS a, s.rS b, [])
  | .attv _ d a b _ _ _ _ _ _ q => some (q, s.rS d, s.rS a, s.rS b, [])
  | .acmb _ d a b _ _ q => some (q, s.rS d, s.rS a, s.rS b, [])
  | .anrm _ a _ _ q => some (q, 0, s.rS a, 0, [])
  | _ => none

/-- The tag of a network command and the operands that its entry captures, a latch operand as its basket and slot (R261,
R279). -/
def netOut (i : Instr) (s : State) : Option (QTag × W64 × W64 × W64 × Option (Nat × Nat)) :=
  let held (l : LReg) : Option (Nat × Nat) := some (fld (s.latch l 0) 48 4, fld (s.latch l 0) 32 16)
  match i with
  | .tsend _ a b q => some (q, 0, s.rS a, s.rS b, none)
  | .tfwd _ l b q => some (q, 0, 0, s.rS b, held l)
  | .tfork _ d l b q => some (q, s.rS d, 0, s.rS b, held l)
  | .eos _ a q => some (q, BitVec.ofNat 64 s.nextCmd, s.rS a, 0, none)
  | .cfgld _ a b q => some (q, 0, s.rS a, s.rS b, none)
  | _ => none

/-- The tag, destination and operands of a shard instruction. -/
def shardOut (i : Instr) (s : State) : Option (QTag × SReg × W64 × W64 × W64) :=
  match i with
  | .shlk _ d a b q => some (q, d, s.rS d, s.rS a, s.rS b)
  | .shmap _ d a b _ q => some (q, d, s.rS d, s.rS a, s.rS b)
  | .shunmap _ d a b _ q => some (q, d, s.rS d, s.rS a, s.rS b)
  | .shref _ d a b _ q => some (q, d, s.rS d, s.rS a, s.rS b)
  | _ => none

/-- The tag, engine and queue of a copy-engine command, what it is to do, and the SRAM offset of a descriptor that is read in
the SRAM cycle (R300 to R305). -/
def engineOut (i : Instr) (s : State) : Option (QTag × EngQ × EOp × Option Nat) :=
  match i with
  | .cpy _ d a b e q => some (q, e, .cpy (s.rS d) (s.rS a) (s.rS b).toNat, none)
  | .cpy2 _ d e q => some (q, e, .cpy2 none, some (s.kern.sbase + (s.rS d).toNat))
  | .cpyl _ d a e q => some (q, e, .cpyl (s.kern.sbase + (s.rS d).toNat) (s.rS a).toNat none, none)
  | .cpyc _ d e q => some (q, e, .cpyc none, some (s.kern.sbase + (s.rS d).toNat))
  | .fill _ d a b e q => some (q, e, .fill (s.rS d) (s.rS a) (s.rS b).toNat, none)
  | .qfence _ a e q => some (q, e, .qfence (fld (s.rS a) 0 8) [], none)
  | _ => none

/-- What a store element, an element operation or a flush puts into the insertion queue (R147, R306, R308), and its tag. -/
def insertOut (i : Instr) (s : State) : Option (Option Nat × InsItem) :=
  let low (size : BitVec 2) (v : W64) : W64 := BitVec.ofNat 64 (v.toNat % 2 ^ (8 * 2 ^ size.toNat))
  let elem (x : W64) (op : AOp) (comb : Bool) (size : BitVec 2) (data swap : W64) : InsItem :=
    .elem s.kern.asp (elemDest x s.kern.asp).1
      { eseq := 0, op := op, comb := comb, size := size.toNat, slot := s.curSlot, offset := (elemDest x s.kern.asp).2,
        data := low size data, swap := low size swap, tr := s.trace (wordOf i) none, merged := [] }
  match i with
  | .rst _ d a size => some (none, elem (s.rS d) .store false size (s.rS a) 0)
  | .rat _ d a op size comb =>
    some (none, elem (s.rS d) op comb size (s.rS a) (if op = .cas then s.me.regS s.cyc (a.toNat + 1) else 0))
  | .hflush _ d all q =>
    some (q.tagOf, .flush s.curSlot (if all then none else some (elemDest (s.rS d) s.kern.asp).1) (s.trace (wordOf i) q.tagOf))
  | _ => none

/-- The remote request of a word: its tag, kind, address, whether that is of memory, and the SRAM offset of the answer (R307,
R317). -/
def requestOut (i : Instr) (s : State) : Option (Option Nat × ReqKind × W64 × Bool × Nat) :=
  match i with
  | .ratf _ d a b op size q =>
    some (q.tagOf, .ratf op size.toNat (s.rS a) (if op = .cas then s.me.regS s.cyc (a.toNat + 1) else 0), s.rS d, false,
      s.kern.sbase + (s.rS b).toNat)
  | .rld _ d a size q => some (q.tagOf, .rld size.toNat, s.rS d, false, s.kern.sbase + (s.rS a).toNat)
  | .bari _ d a mem q => some (q.tagOf, .bari (s.barCount (s.rS a)), s.rS d, mem, 0)
  | .bara _ d mem q => some (q.tagOf, .arrive, s.rS d, mem, 0)
  | _ => none

/-- What a word changes in the tables of its tile or its slot's registers, two cycles after its issue (R38). -/
def tableOut (i : Instr) (s : State) : Option (Nat × PEffect) :=
  match i with
  | .mts _ n a => some (2, .sys n.toNat (sysWriteValue n.toNat (s.rS a)))
  | .hcfg _ a => some (2, .sys 0x20 (clampHcfg (s.rS a)))
  | .tclr _ a => some (3, .tclr (s.rS a))
  | .hset _ a b => some (2, .hset (fld (s.rS a) 0 5) (s.rS b))
  | .hmsk _ a b => some (2, .hmsk (s.rS b) (s.rS a))
  | .bkinit _ k d a => some (2, .bkinit k.toNat ((s.rS d).toNat / 64) (s.rS a))
  | .bkpost _ k a b => some (2, .bkpost k.toNat (s.rS a).toNat (s.rS b))
  | .bkrel _ k a => some (2, .bkrel k.toNat (s.rS a).toNat)
  | .keep _ d a plain =>
    let lo := (s.rS d).toNat
    let n := (s.rS a).toNat
    some (2, .marks (lo / 64) (if n = 0 then lo / 64 else (lo + n + 63) / 64) (if plain then 0 else 1))
  | .disc _ d a => some (2, .marks (((s.rS d).toNat + 63) / 64) (((s.rS d).toNat + (s.rS a).toNat) / 64) 2)
  | _ => none

/-- A word that puts something into a queue of its tile: the slot goes on with its registers as they were but for the write e,
its tag counts one more (R296), the tile's other parts are as q leaves them, and outside the tile the machine is as u. -/
def State.enqueued (s t u : State) (g : Guard) (tag : Option Nat) (e : Option PEffect) (q : Tile → Tile) : Prop :=
  s.wentOn t g ∧ s.me.sameRegs t.me e ∧ s.memSame t ∧ t = { u with tiles := t.tiles } ∧
    (∀ n, n ≠ s.curSite → t.tile n = s.tile n) ∧ (∀ k, k ≠ s.curSlot → t.here.slot k = s.here.slot k) ∧
    (∀ o, t.here.kernelOf o = { s.here.kernelOf o with tagUse := (t.here.kernelOf o).tagUse }) ∧
    t.here = { q (s.here.tagStart tag) with slots := t.here.slots, kernels := t.here.kernels, progress := t.here.progress }

/-- The entry of a queued instruction with the operands it has captured (R262). -/
def State.queueEntry (s : State) (i : Instr) (tag : Option Nat) (d a b : W64) (lanes : List W32) (held : Option (Nat × Nat)) : QEntry :=
  { i := i, tr := s.trace (wordOf i) tag, d := d, a := a, b := b, lanes := lanes, bslot := held, iss := s.cyc }

/-- A word that puts its slot to sleep: its registers are as they were, nothing outside its tile is changed, and of the tile
only what q changes. -/
def State.sleptWith (s t u : State) (g : Guard) (w : Wake) (q : Tile → Tile) : Prop :=
  s.slept t g w ∧ s.me.sameRegs t.me none ∧ s.memSame t ∧ t = { u with tiles := t.tiles } ∧
    (∀ n, n ≠ s.curSite → t.tile n = s.tile n) ∧ (∀ k, k ≠ s.curSlot → t.here.slot k = s.here.slot k) ∧
    t.here = { q s.here with slots := t.here.slots, progress := t.here.progress }

/-- The state in which a request of the issuing tile has left, or is held while the routing tables wait to be rewritten (R510). -/
def State.withRequest (s : State) (i : Instr) (tag : Option Nat) (kind : ReqKind) (addr : W64) (mem : Bool) : State :=
  let r : Req := { src := s.pkg * 1024 + s.curSite, id := s.here.nextId, kind := kind, addr := addr, phys := none, mem := mem,
                   tr := s.trace (wordOf i) tag }
  if s.rewriting then { s with heldMsgs := s.heldMsgs ++ [(none, s.pkg, .req r)] }
  else { s with wire := s.wire ++ [⟨s.nextMsg, none, .req r⟩], nextMsg := s.nextMsg + 1 }

/-- The entry of the remote request queue of the issuing word. -/
def State.requestEntry (s : State) (i : Instr) (tag : Option Nat) (kind : ReqKind) (addr : W64) (mem : Bool) (dst : Nat)
    (barw : Bool) : RReq :=
  let r : Req := { src := s.pkg * 1024 + s.curSite, id := s.here.nextId, kind := kind, addr := addr, phys := none, mem := mem,
                   tr := s.trace (wordOf i) tag }
  { id := s.here.nextId, req := r, dst := dst, since := s.cyc, sent := true, stopped := false, gen := none, barw := barw, gone := none }

/-! ### What the commands of a copy engine write -/

/-- The place some bytes further on. -/
def Mem.plus (m : Mem) (i : Nat) : Mem :=
  match m with
  | .sram k a => .sram k (a + i)
  | .plane k a => .plane k (a + i)
  | .vault k a => .vault k (a + i)
  | .mail k a => .mail k (a + i)
  | .hbm a => .hbm (a + i)
  | .host k a => .host k (a + i)

/-- Two runs of bytes share none. -/
def Mem.apartFrom (m : Mem) (n : Nat) (m' : Mem) (n' : Nat) : Prop := ∀ i j, i < n → j < n' → m.plus i ≠ m'.plus j

/-- The place of n bytes of a tile memory of this package, where a command of a copy engine reaches them (R110, R111, R397). -/
def State.tilePlace (s : State) (c : ECmd) (k : AKind) (x : W64) (n : Nat) : Option Mem :=
  match gaddr x with
  | .tile coord bank off =>
    if bank < 3 ∧ off + n ≤ bankBytes bank ∧ s.windowBad coord bank = false ∧ coordPkg coord = s.pkg ∧
        s.reachTrap (s.engineSite c.eng) c.tr.owner k ⟨.tile coord bank, off, n, x, false, false⟩ = none then
      some (memAt (.tile coord bank) off)
    else none
  | _ => none

/-- No store to an SRAM is still to be performed. -/
def State.settledAt (s : State) (m : Mem) : Bool :=
  match m with
  | .sram k _ => (s.tile k).shadow.isEmpty
  | _ => true

/-- A run of a copy as the places of its destination and of its source, with its length. -/
def State.legOf (s : State) (c : ECmd) (r : Run) : Option (Mem × Mem × Nat) :=
  match s.tilePlace c .write r.1 r.2.2, s.tilePlace c .read r.2.1 r.2.2 with
  | some d, some m => if s.settledAt m then some (d, m, r.2.2) else none
  | _, _ => none

/-- The runs of a copy, as destination address, source address and length: one, the rows of a CPY2, or the entries of a CPYL,
whose list is read when it starts (R301 to R303). -/
def State.runsOut (s : State) (c : ECmd) : Option (List Run) :=
  match c.op with
  | .cpy d y n => some [(d, y, n)]
  | .cpy2 (some w) => some ((List.range (fld (nth w 2 0) 32 32)).map fun (k : Nat) =>
      (nth w 0 0 + BitVec.ofInt 64 (k * svOf 32 (fld (nth w 3 0) 32 32)),
        nth w 1 0 + BitVec.ofInt 64 (k * svOf 32 (fld (nth w 3 0) 0 32)), fld (nth w 2 0) 0 32))
  | .cpyl a n none =>
    let word (k j : Nat) : Nat := loadNat (s.tile c.tr.site).sram (a + 24 * k + 8 * j) 8
    if anyPoison 3 (s.tile c.tr.site).sramPoison a (24 * n) || (List.range n).any fun k => decide (2 ^ 32 ≤ word k 2) then none
    else some ((List.range n).map fun k => (BitVec.ofNat 64 (word k 0), BitVec.ofNat 64 (word k 1), word k 2))
  | _ => none

/-- The bytes at a source in a tile memory. -/
def State.sourceBytes (s : State) (c : ECmd) (y : W64) (n : Nat) : Option (List Byte) :=
  match s.tilePlace c .read y n with
  | some m => if s.settledAt m then some ((List.range n).map fun i => BitVec.ofNat 8 (s.valueAt (m.plus i) 1)) else none
  | none => none

/-- The bytes that a command writes over one range, with its address: those of its source, of its pattern, or of its elements
converted (R301, R304). -/
def State.bytesOut (s : State) (c : ECmd) : Option (W64 × List Byte) :=
  match c.op with
  | .fill d pat n => some (d, (List.range n).map fun i => BitVec.ofNat 8 (pat.toNat / 2 ^ (8 * (i % 8))))
  | .cpy d y n => (s.sourceBytes c y n).map fun b => (d, b)
  | .cpyc (some w) =>
    let f := nth w 3 0
    let n := (nth w 2 0).toNat
    let wd := fld f 20 4 + 1
    let uns := fld f 24 1 == 1
    match Ty.ofCode (fld f 0 5), Ty.ofCode (fld f 8 5) with
    | some st, some dt =>
      if cpycBad w then none
      else
        let blocks := st.isMX || st == .pl
        let len := if blocks then (n + 1023) / 1024 * groupBytes st wd else n * (tyWidth st / 8)
        (s.sourceBytes c (nth w 1 0) len).map fun b => (nth w 0 0,
          (outBytes dt (if dt.isMX || dt == .pl then 4 else fld f 16 3) wd uns
            ((elemsOf st wd uns (b.map (·, false))).take n)).map (·.1))
    | _, _ => none
  | _ => none

/-- The rucksack of a late command after it has completed: LATE falls by one, and so does the count of its tag, which is set when
none is left (R387). -/
def Ruck.wentOn (r r' : Ruck) (tag : Option Nat) : Prop :=
  r' = { r with late := r.late - 1, pendSave := r'.pendSave, tagSave := r'.tagSave } ∧
    (∀ k, getD 0 r'.pendSave k = getD 0 r.pendSave k - (if tag = some k then 1 else 0)) ∧
    ∀ k, k < 64 → r'.tagSave.getLsbD k = (r.tagSave.getLsbD k || (tag == some k && decide (getD 0 r.pendSave k ≤ 1)))

/-- The combination of a run of values in order, the first as child 0 (R104); and of any number of them, in runs of eight (R409). -/
def runReduced (op : AOp) (size : Nat) : List Nat → Nat
  | [] => 0
  | x :: t => t.foldl (fun a y => performOp op size (BitVec.ofNat 64 y) 0 a) x
def reduced (op : AOp) (size : Nat) : Nat → List Nat → Nat
  | 0, l => runReduced op size l
  | n + 1, l => if l.length ≤ 1 then l.headD 0 else reduced op size n ((chunks 8 l.length l).map (runReduced op size))

/-! ### What the entries of the array queue leave -/

/-- The block products of row r and column col, of n blocks a line, added into an element (R99, R268). -/
def blockSums (phiA phiB : Int) (n : Nat) (a b : Nat → PBlock) (old : FB) (r col : Nat) : FB :=
  (List.range n).foldl (fun x j => (accStep phiA phiB x.1 (a (r * n + j)) (b (col * n + j)),
    x.2 || (a (r * n + j)).bad || (b (col * n + j)).bad)) old

/-- The operands of an MMA entry. -/
def State.opA (s : State) (e : QEntry) (w : Nat) (uns : Bool) : Nat → PBlock := s.planeBlock (s.arr e.tr) e.a.toNat w uns
def State.opB (s : State) (e : QEntry) (w : Nat) (uns sram : Bool) : Nat → PBlock :=
  if sram then s.sramBlock (s.arr e.tr) e.b.toNat w uns else s.planeBlock (s.arr e.tr) e.b.toNat w uns

/-- The elements that an array entry leaves in accumulators of its kernel, as numbers and functions of row and column, each
with its poison (R264, R268 to R272); none where it writes elsewhere. -/
def accOut (e : QEntry) (s : State) : List (Nat × (Nat → Nat → FB)) :=
  let c := s.arr e.tr
  let at4 (base r : Nat) : FB := s.rdF c (base + 4 * r)
  match e.i with
  | .az _ acc _ => [(acc.toNat, fun _ _ => (0, false))]
  | .mma _ _ _ acc wa npl ua ub bs nb _ => [(acc.toNat, fun r col =>
      blockSums (phiOf (widthOf wa) ua) (phiOf (widthOf npl) ub) (nb.toNat + 1) (s.opA e (widthOf wa) ua)
        (s.opB e (widthOf npl) ub bs) (s.accAt c acc.toNat r col) r col)]
  | .awr _ _ _ acc _ => [(acc.toNat, fun r col =>
      if rowFirst e.a ≤ r ∧ r < rowFirst e.a + rowCount e.a then at4 (e.b.toNat + (r - rowFirst e.a) * rowStride e.a) col
      else s.accAt c acc.toNat r col)]
  | .ascl _ _ acc _ => [(acc.toNat, fun r col =>
      let x := s.accAt c acc.toNat r col
      (fmul .f32 x.1 (at4 e.a.toNat r).1, x.2 || (at4 e.a.toNat r).2))]
  | .aexp _ _ acc _ => [(acc.toNat, fun r col =>
      let x := s.accAt c acc.toNat r col
      if (at4 e.a.toNat r).1 = 0xFF800000 then (0, (at4 e.a.toNat r).2 || x.2)
      else (fexp2 (fsub .f32 x.1 (at4 e.a.toNat r).1), x.2 || (at4 e.a.toNat r).2))]
  | .amask _ image _ acc _ => [(acc.toNat, fun r col =>
      let x := s.accAt c acc.toNat r col
      let a := c.sb + e.a.toNat + 8 * r + col / 8
      if min e.b.toNat 64 ≤ col then (0xFF800000, false)
      else if image = 0 then x
      else if (byteAt (s.tile c.site).sram a).getLsbD (col % 8) then
        (x.1, x.2 || anyPoison 3 (s.tile c.site).sramPoison a 1)
      else (0xFF800000, anyPoison 3 (s.tile c.site).sramPoison a 1))]
  | .anrm _ _ acc d128 _ => (List.range (if d128 then 2 else 1)).map fun k => (acc.toNat + k, fun r col =>
      let x := s.accAt c (acc.toNat + k) r col
      (if (at4 e.a.toNat r).1 % 2 ^ 31 = 0 then 0 else fdiv .f32 x.1 (at4 e.a.toNat r).1, x.2 || (at4 e.a.toNat r).2))
  | _ => []

/-- An accumulator holds elements with their poison; it holds codes, whatever their poison. -/
def State.accIs (t : State) (c : Arr) (acc : Nat) (f : Nat → Nat → FB) : Prop :=
  ∀ r col, r < 64 → col < 64 → t.accAt c acc r col = ((f r col).1 % 2 ^ 32, (f r col).2)
def State.accCodes (t : State) (c : Arr) (acc : Nat) (f : Nat → Nat → Nat) : Prop :=
  ∀ r col, r < 64 → col < 64 → (t.accAt c acc r col).1 = f r col % 2 ^ 32

/-- Of the accumulators of a tile only some of a kernel's are changed. -/
def State.accsBut (s t : State) (c : Arr) (l : List Nat) : Prop :=
  ∀ key, (∀ a, a ∈ l → key / 4096 ≠ nth c.accs a 0) →
    getD 0 (t.tile c.site).acc key = getD 0 (s.tile c.site).acc key ∧
      inSet key (t.tile c.site).accPoison = inSet key (s.tile c.site).accPoison

/-- Of the plane store of a tile only the blocks of an operand are changed, from block q on: each reads as the exponent and the
mantissas given (R266). -/
def State.wrotePlanes (s t : State) (c : Arr) (p w : Nat) (uns : Bool) (q : Nat) (l : List PBlock) : Prop :=
  (∀ i b, l[i]? = some b → (t.planeBlock c p w uns (q + i)).e = b.e ∧
    ∀ k, k < 32 → nth (t.planeBlock c p w uns (q + i)).m k 0 = nth b.m k 0) ∧
  ∀ x, (∀ i, i < l.length → x ≠ c.pb + blockExpAt p w (q + i) ∧
      ¬(c.pb + blockPlanesAt p w (q + i) ≤ x ∧ x < c.pb + blockPlanesAt p w (q + i) + 4 * w)) →
    byteAt (t.tile c.site).plane x = byteAt (s.tile c.site).plane x

/-- The blocks that an array entry writes to the plane store: the offset of their operand, its width and signedness, the first
block and the blocks (R267, R271). -/
def planesOut (e : QEntry) (s : State) : Option (Nat × Nat × Bool × Nat × List PBlock) :=
  let c := s.arr e.tr
  let blocks (w : Nat) (uns : Bool) (x : List FVal) : List PBlock :=
    (List.range (x.length / 32)).map fun q => toPlane w uns (((x.drop (32 * q)).take 32).map (rne .f32)) false
  match e.i with
  | .pld _ _ _ _ ty uns npl _ =>
    let w := widthOf npl
    some (e.d.toNat, w, uns, 0,
      if ty = .pl then (List.range (32 * e.b.toNat)).map (s.sramBlock c e.a.toNat w uns)
      else blocks w uns ((elemsOf ty w uns
        ((s.tile c.site).getBytes (c.sb + e.a.toNat) (e.b.toNat * groupBytes ty w))).map (·.1)))
  | .pldv _ _ _ _ ty uns npl _ =>
    some (e.d.toNat, widthOf npl, uns, e.b.toNat, blocks (widthOf npl) uns (e.lanes.map fun x => laneVal ty x.toNat))
  | .acvt _ _ acc uns npl _ =>
    some (e.a.toNat, widthOf npl, uns, 0, (List.range 128).map fun q =>
      toPlane (widthOf npl) uns ((List.range 32).map fun k => (s.accAt c acc.toNat (q / 2) (32 * (q % 2) + k)).1) false)
  | _ => none

/-- The FP32 codes of a row vector as bytes, and its value at a row as an entry finds it. -/
def rowBytes (f : Nat → Nat) : List Byte := (List.range 64).flatMap fun r => leBytes 4 (f r)
def State.rowAt (s : State) (c : Arr) (off r : Nat) : Nat := (s.rdF c (off + 4 * r)).1

/-- The rescaling step of R270: the new maximum of a row with its elements x, the factor α, and the new sum. -/
def newMax (m : Nat) (x : Nat → Nat) : Nat :=
  fmaxC .f32 m ((List.range 63).foldl (fun y k => fmaxC .f32 y (x (k + 1))) (x 0))
def alphaOf (m mn : Nat) : Nat := if mn = 0xFF800000 then 0x3F800000 else fexp2 (fsub .f32 m mn)
def newSum (l alpha : Nat) (x : Nat → Nat) : Nat := fadd .f32 (fmul .f32 l alpha) (sumSeq ((List.range 64).map x))
def expOf (m x : Nat) : Nat := if m = 0xFF800000 then 0 else fexp2 (fsub .f32 x m)

/-- Two values brought to a common maximum and added (R272). -/
def merged (m1 m2 x y : Nat) : Nat :=
  fadd .f32 (fmul .f32 x (alphaOf m1 (fmaxC .f32 m1 m2))) (fmul .f32 y (alphaOf m2 (fmaxC .f32 m1 m2)))

end Sys2Proof.Machine
end

