-- ==== Sys2Proof/Certificates/Slice0/Obligations.lean ====
section
/-!
DEFINITION. The statements about the model. Each says which rules of spec/ it formalises; the tables that several statements
speak of stand in Safety.lean.
-/

open Sys2Proof Sys2Proof.Machine

/-! ### Decoding and the step -/

/-- Decoding the word of a well-formed instruction gives it back, and every well-formed instruction word has a word. -/
def Obligations.DecodeOfEncode : Prop :=
  ∀ (i : Instr) (g : Guard), i.guard = some g → i.wf = true → ∃ w, encode i = some w ∧ decode w = .ok i

/-- A word that decodes is the encoding of what it decodes to, which is well-formed: no two words mean the same instruction. -/
def Obligations.EncodeOfDecode : Prop :=
  ∀ (w : BitVec 64) (i : Instr), decode w = .ok i → i.wf = true ∧ encode i = some w

/-- A word with a reserved opcode is no instruction: its code is 0x01 (R186, R474). -/
def Obligations.ReservedOpcodeRefused : Prop :=
  ∀ w : BitVec 64, (majorOpcodes.any fun r => decide (r.1 ≤ w.toNat / 2 ^ 54) && decide (w.toNat / 2 ^ 54 ≤ r.2)) = false →
    decode w = .encodingFault 1

/-- Words of several families, written out from the encodings of the spec, decode to the instructions they stand for. -/
def Obligations.DecodeWords : Prop :=
  decode 0x0054850C1C00C000 = .ok (.add ⟨2, true, 1⟩ 5 6 7 .i64 false) ∧
  decode 0x4000040484000010 = .ok (.ld ⟨0, false, 0⟩ 4 2 2 true 0x10) ∧
  decode 0x204800FFFFFFFFFD = .ok (.br ⟨1, false, 0⟩ (-3)) ∧
  decode 0x078063C388000004 = .ok (.plog ⟨0, false, 0⟩ 3 1 2 4) ∧
  decode 0x0F00610600000C92 = .ok (.cmpImm ⟨0, false, 0⟩ 1 3 .lt true 100) ∧
  decode 0x214009FFFFFFFFFC = .ok (.loop ⟨0, false, 0⟩ 9 (-4)) ∧
  decode 0xE000040A18546080 = .ok (.cpy ⟨0, false, 0⟩ 4 5 6 ⟨2, 3⟩ ⟨5, true⟩) ∧
  decode 0x4100050C1C008001 = .ok (.latom ⟨0, false, 0⟩ 5 6 7 0 .i32 .add) ∧
  decode 0x22C0040004000000 = .ok (.mfs ⟨0, false, 0⟩ 4 0x20) ∧
  decode 0x60C043830A221000 = .ok (.vfma ⟨0, false, 0⟩ 3 1 2 4 .f32 ⟨2, false⟩) ∧
  decode 0x64C0428200030044 = .ok (.vcvt ⟨0, false, 0⟩ 2 1 .e5m2 .f32 4 ⟨0, false⟩) ∧
  decode 0xA0C0000815738383 = .ok (.mma ⟨0, false, 0⟩ 4 5 1 7 7 false false false 3 ⟨3, true⟩) ∧
  decode 0xC04000E824000000 = .ok (.tfwd ⟨0, false, 0⟩ 0 9 ⟨0, false⟩) ∧
  decode 0xE380071000000071 = .ok (.rat ⟨0, false, 0⟩ 7 8 .add 3 true) ∧
  decode 0xE500000000000900 = .ok (.fence ⟨0, false, 0⟩ .rel .die)

/-- A step runs the decoded instruction: at the position of a slot in RUN that is not to stop, the word at its program counter is
fetched from the tile's SRAM (R129, R222), and where it decodes the step is exec of it. Where no older value of the word may still be
fetched (R130), the word is that of the eight bytes at the program counter. -/
def Obligations.StepRunsDecodedWord : Prop :=
  ∀ (s : State) (site : Nat) (rest : List Nat) (i : Instr),
    let u : State := { s with issues := rest, curSite := site, curSlot := fld (s.tile site).wheel (4 * (s.cyc % 16)) 4 }
    s.mg.tripped = false → s.todo = [] → s.issues = site :: rest → u.curSlot < 8 → u.me.state = .run →
    u.me.deferredDue s.cyc = none → u.slotStops site u.curSlot = false → u.overLimit = false →
    (u.me.hslot = true → u.me.hnd.isSome = true) →
    8 * u.me.pc + 8 ≤ u.kern.sram → u.fetch.2.fetchPoisoned = false → u.fetch.2.wordCode u.fetch.1.toNat = none →
    decode u.fetch.1 = .ok i →
    step s = exec i u.fetch.2 ∧
      (getD [] u.me.ahead (u.kern.sbase / 8 + u.me.pc) = [] → getD [] u.here.fetch (u.kern.sbase / 8 + u.me.pc) = [] →
        u.fetch = (BitVec.ofNat 64 (loadNat u.here.sram (8 * (u.kern.sbase / 8 + u.me.pc)) 8), u))

/-- What a step takes when no tile's position stands next: what falls due before the positions of the cycle, then the steps of
hampers after them, then an asynchronous step whose stamp has come, else the cycle passes. The order is the model's (notes/assumptions/1.md). -/
def Obligations.StepTakesDueSteps : Prop :=
  ∀ (s : State), s.mg.tripped = false →
    (∀ i r, s.todo = i :: r → step s = exec i { s with todo := r }) ∧
    (∀ i r, s.todo = [] → s.issues = [] → s.late = i :: r → step s = exec i { s with late := r }) ∧
    (∀ c i r, s.todo = [] → s.issues = [] → s.late = [] → s.agenda = (c, i) :: r → c ≤ s.cyc → encode i = none →
      step s = exec i { s with agenda := r }) ∧
    (∀ c i r, s.todo = [] → s.issues = [] → s.late = [] → s.agenda = (c, i) :: r → c ≤ s.cyc → encode i ≠ none →
      step s = .refused .agendaNotEvent) ∧
    (s.todo = [] → s.issues = [] → s.late = [] → (∀ c i r, s.agenda = (c, i) :: r → s.cyc < c) →
      ∃ t, step s = .next t ∧ t = s.tick ∧ t.cyc = s.cyc + 1)

/-! ### The order of decision of an instruction word (R481) -/

/-- The checks of the encoding, the use mask and the palette come first, and their fault is taken against the word.
The checks of the operands come next, in the order of the table, and their fault is taken against the word.
A word that traps has not issued: no unit's queue has it, no tag is cleared, the interval of its class and its slot's hold stand
as if it were not there (R483). -/
def Obligations.ChecksTrap : Prop :=
  (∀ (i : Instr) (g : Guard) (s : State) (f : Trap), i.guard = some g → headTrap i s = some f →
    exec i s = .next (s.trapAt (wordOf i) f)) ∧
  (∀ (i : Instr) (g : Guard) (s : State) (f : Trap), i.guard = some g → headTrap i s = none → s.rP g.pred ≠ g.pneg →
    checksOf i s = some f → exec i s = .next (s.trapAt (wordOf i) f)) ∧
  (∀ (w : Nat) (f : Trap) (s : State), s.me.state = .run → s.me.hold = 0 →
    let t := s.trapAt w f
    t.me.hold = 0 ∧ t.me.lastDiv = s.me.lastDiv ∧ t.me.lastSfu = s.me.lastSfu ∧ t.me.pend = s.me.pend ∧
      t.here.arrayQ = s.here.arrayQ ∧ t.here.netQ = s.here.netQ ∧ t.here.shardQ = s.here.shardQ ∧
      t.here.engPort = s.here.engPort ∧ t.here.insQ = s.here.insQ ∧ t.here.remote = s.here.remote ∧
      t.here.collQ = s.here.collQ ∧ t.here.accesses = s.here.accesses ∧ t.here.hampers = s.here.hampers ∧
      t.here.tags = s.here.tags ∧ t.here.tagCount = s.here.tagCount)

/-- A word with a false predicate takes its position and its hold and has no other effect (R185). -/
def Obligations.FalsePredicateHasNoEffect : Prop :=
  ∀ (i : Instr) (g : Guard) (s : State), i.guard = some g → headTrap i s = none → s.overLimit = false →
    s.rP g.pred = g.pneg → ∃ t, exec i s = .next t ∧ s.wroteOnly t g none

/-- A word that finds its queue or its tag full does not issue: its slot is BACKED and keeps its program counter, and at its next own
position it is in RUN again, where it tries the word anew (R44). -/
def Obligations.FullQueueBacks : Prop :=
  ∀ (i : Instr) (g : Guard) (s : State), i.guard = some g → s.ready i g = true → checksOf i s = none → roomOf i s = false →
    ∃ t, exec i s = .next t ∧ s.memSame t ∧ t.here = { s.here with slots := t.here.slots } ∧
      (∀ n, n ≠ s.curSite → t.tile n = s.tile n) ∧ (∀ k, k ≠ s.curSlot → t.here.slot k = s.here.slot k) ∧
      t.me = { s.me with state := .backed, hold := 0 } ∧
      ∀ u : State, u.slot s.curSite s.curSlot = t.me → ∃ v, exec (.backedRetry s.curSite s.curSlot) u = .next v ∧
        u.onlySlot v s.curSite s.curSlot ∧ v.slot s.curSite s.curSlot = { t.me with state := .run }

/-- A running handler over its budget raises its overrun in place of any word that passes its checks (R59, R524). -/
def Obligations.OverrunTakesThePosition : Prop :=
  ∀ (i : Instr) (g : Guard) (s : State), i.guard = some g → headTrap i s = none → s.overLimit = true →
    (s.rP g.pred = g.pneg ∨ checksOf i s = none) →
    exec i s = .next (s.takeFault (s.faultRec (s.trace (wordOf i) none) ⟨14, 0, 0, 0⟩ false) s.me.pc)

/-! ### Registers -/

/-- The hardwired entries read as the table of R169 says, in every slot and at every cycle. A read returns the value of the last
write whose landing cycle has come, of two in one landing cycle that of the later issue, and where none has come what the
register held (R38): for each register file the reading is this one view of the pending writes. -/
def Obligations.RegisterReads : Prop :=
  (∀ (x : Slot) (c k : Nat), x.regS c 0 = 0 ∧ x.regP c 0 = true ∧ (k < x.vlen → x.maskBit c 0 k = true) ∧
    (x.vlen ≤ k → ∀ r, x.maskBit c r k = false)) ∧
  ∀ (x : Slot) (c r k : Nat),
    let reads := fun (α : Type) (sel : PEffect → Option α) (base a : α) =>
      ((∀ p, p ∈ x.pend → sel p.eff ≠ none → c < p.land) → a = base) ∧
      ∀ p v, p ∈ x.pend → sel p.eff = some v → p.land ≤ c →
        (∀ q, q ∈ x.pend → sel q.eff ≠ none → q.land ≤ c →
          q = p ∨ q.land < p.land ∨ (q.land = p.land ∧ q.iss < p.iss)) → a = v
    (r ≠ 0 → reads W64 (selS r) (getD 0 x.s r) (x.regS c r) ∧ reads Bool (selP r) (getD false x.p r) (x.regP c r)) ∧
    (r ≠ 0 → k < x.vlen → reads Bool (selM r k) (bitOf (getD 0 x.m r) k) (x.maskBit c r k)) ∧
    reads W32 (selV r k) (getD 0 x.v (128 * r + k)) (x.lane c r k)

/-- Every scalar result, one clause for each instruction that gives one: the word completes, writes its destination with its
latency (R39) the value its own rule gives, until then its destination reads as before (R38), a write to s0 is discarded, and
nothing else of the machine changes but the slot's position in its code. The forms are add, addImm, sub, subImm, mul, mulImm,
mulh, div, rem, and, andImm, or, orImm, xor, xorImm, andn, shl, shlImm, shr, shrImm, sar, sarImm, rotl, rotlImm, min, minImm,
max, maxImm, abs, clz, ctz, popc, bswap, bfx, bfi, lea, leaImm, movi, movhi, mov, csel, pmov (.pk, .ps), cycle, time, capq,
widq, mfs, tfirst, hstat, drainq, vredadd, vredmax, vredmin, vired, vext, mfirst, mpopc and mget. -/
def Obligations.ScalarResults : Prop :=
  ∀ (g : Guard) (s : State), s.me.timely s.cyc = true →
    let result := fun (i : Instr) (lat : Nat) (d : SReg) (v : W64) => s.runs i g = true →
      ∃ t, exec i s = .next t ∧ t.me.regS (s.cyc + lat) d.toNat = (if d = 0 then 0 else v) ∧
        (∀ c, c < s.cyc + lat → t.me.regS c d.toNat = s.me.regS c d.toNat) ∧
        s.wroteOnly t g (if d = 0 then none else some (.s d.toNat v)) (divWord i)
    (∀ d a b ty sat, result (.add g d a b ty sat) 2 d (extOf ty (satIf sat ty (valS ty s a + valS ty s b)))) ∧
    (∀ d a b ty sat, result (.sub g d a b ty sat) 2 d (extOf ty (satIf sat ty (valS ty s a - valS ty s b)))) ∧
    (∀ d a b ty sat, result (.mul g d a b ty sat) 4 d (extOf ty (satIf sat ty (valS ty s a * valS ty s b)))) ∧
    (∀ d a b ty, result (.mulh g d a b ty) 4 d (extOf ty (Int.fdiv (valS ty s a * valS ty s b) (2 ^ tyWidth ty : Nat)))) ∧
    (∀ d a b ty, result (.div g d a b ty) 24 d
      (extOf ty (if valS ty s b = 0 then -1 else (valS ty s a).tdiv (valS ty s b)))) ∧
    (∀ d a b ty, result (.rem g d a b ty) 24 d
      (extOf ty (if valS ty s b = 0 then valS ty s a else (valS ty s a).tmod (valS ty s b)))) ∧
    (∀ d a b ty, result (.and g d a b ty) 2 d (extOf ty ((s.rS a &&& s.rS b).toNat : Nat))) ∧
    (∀ d a b ty, result (.or g d a b ty) 2 d (extOf ty ((s.rS a ||| s.rS b).toNat : Nat))) ∧
    (∀ d a b ty, result (.xor g d a b ty) 2 d (extOf ty ((s.rS a ^^^ s.rS b).toNat : Nat))) ∧
    (∀ d a b ty, result (.andn g d a b ty) 2 d (extOf ty ((s.rS a &&& ~~~(s.rS b)).toNat : Nat))) ∧
    (∀ d a b ty, result (.shl g d a b ty) 2 d
      (extOf ty (shlN (tyWidth ty) (uvOf (tyWidth ty) (s.rS a).toNat) (s.rS b).toNat : Nat))) ∧
    (∀ d a b ty, result (.shr g d a b ty) 2 d
      (extOf ty (shrN (tyWidth ty) (uvOf (tyWidth ty) (s.rS a).toNat) (s.rS b).toNat : Nat))) ∧
    (∀ d a b ty, result (.sar g d a b ty) 2 d (extOf ty (sarI (tyWidth ty) (s.rS a).toNat (s.rS b).toNat))) ∧
    (∀ d a b ty, result (.rotl g d a b ty) 2 d
      (extOf ty (rotlN (tyWidth ty) (uvOf (tyWidth ty) (s.rS a).toNat) (s.rS b).toNat : Nat))) ∧
    (∀ d a b ty, result (.min g d a b ty) 2 d (extOf ty (min (valS ty s a) (valS ty s b)))) ∧
    (∀ d a b ty, result (.max g d a b ty) 2 d (extOf ty (max (valS ty s a) (valS ty s b)))) ∧
    (∀ d a ty sat, result (.abs g d a ty sat) 2 d
      (extOf ty (satIf sat ty ((svOf (tyWidth ty) (s.rS a).toNat).natAbs : Int)))) ∧
    (∀ d a ty, result (.clz g d a ty) 2 d (BitVec.ofNat 64 (clzN (tyWidth ty) (uvOf (tyWidth ty) (s.rS a).toNat)))) ∧
    (∀ d a ty, result (.ctz g d a ty) 2 d (BitVec.ofNat 64 (ctzN (tyWidth ty) (uvOf (tyWidth ty) (s.rS a).toNat)))) ∧
    (∀ d a ty, result (.popc g d a ty) 2 d (BitVec.ofNat 64 (popNat (s.rS a).toNat (tyWidth ty)))) ∧
    (∀ d a ty, result (.bswap g d a ty) 2 d (extOf ty (bswapN (tyWidth ty) (uvOf (tyWidth ty) (s.rS a).toNat) : Nat))) ∧
    (∀ d a pos wid, result (.bfx g d a pos wid) 2 d (s.rS a >>> pos.toNat &&& BitVec.ofNat 64 (2 ^ wid.toNat - 1))) ∧
    (∀ d a pos wid, let f := BitVec.ofNat 64 (2 ^ wid.toNat - 1) <<< pos.toNat; result (.bfi g d a pos wid) 2 d
      ((s.rS d &&& ~~~f) ||| (s.rS a <<< pos.toNat &&& f))) ∧
    (∀ d a imm, result (.addImm g d a imm) 2 d (s.rS a + imm.signExtend 64)) ∧
    (∀ d a imm, result (.subImm g d a imm) 2 d (s.rS a - imm.signExtend 64)) ∧
    (∀ d a imm, result (.mulImm g d a imm) 4 d (s.rS a * imm.signExtend 64)) ∧
    (∀ d a imm, result (.andImm g d a imm) 2 d (s.rS a &&& imm.signExtend 64)) ∧
    (∀ d a imm, result (.orImm g d a imm) 2 d (s.rS a ||| imm.signExtend 64)) ∧
    (∀ d a imm, result (.xorImm g d a imm) 2 d (s.rS a ^^^ imm.signExtend 64)) ∧
    (∀ d a imm, result (.shlImm g d a imm) 2 d (s.rS a <<< (imm.signExtend 64).toNat)) ∧
    (∀ d a imm, result (.shrImm g d a imm) 2 d (s.rS a >>> (imm.signExtend 64).toNat)) ∧
    (∀ d a imm, result (.sarImm g d a imm) 2 d ((s.rS a).sshiftRight (imm.signExtend 64).toNat)) ∧
    (∀ d a imm, result (.rotlImm g d a imm) 2 d ((s.rS a).rotateLeft ((imm.signExtend 64).toNat % 64))) ∧
    (∀ d a imm, result (.minImm g d a imm) 2 d (if (s.rS a).sle (imm.signExtend 64) then s.rS a else imm.signExtend 64)) ∧
    (∀ d a imm, result (.maxImm g d a imm) 2 d (if (s.rS a).sle (imm.signExtend 64) then imm.signExtend 64 else s.rS a)) ∧
    (∀ d a b k, result (.lea g d a b k) 2 d (s.rS a + s.rS b * BitVec.ofNat 64 (2 ^ k.toNat))) ∧
    (∀ d a imm, result (.leaImm g d a imm) 2 d (s.rS a + imm.signExtend 64 <<< 3)) ∧
    (∀ d imm, result (.movi g d imm) 2 d (imm.signExtend 64)) ∧
    (∀ d a imm, result (.movhi g d a imm) 2 d (imm.zeroExtend 64 <<< 32 ||| (s.rS a &&& 0xFFFFFFFF))) ∧
    (∀ d a ty, result (.mov g d a ty) 2 d (extOf ty (valS ty s a))) ∧
    (∀ d a b p, result (.csel g d a b p) 2 d (if s.rP p then s.rS a else s.rS b)) ∧
    (∀ d, result (.pmov g (.pk d)) 2 d (BitVec.ofNat 64 (maskOf 8 fun k => s.me.regP s.cyc k))) ∧
    (∀ d p, result (.pmov g (.ps d p)) 2 d (if s.rP p then 1 else 0)) ∧
    (∀ d, result (.cycle g d) 2 d (BitVec.ofNat 64 s.cyc)) ∧
    (∀ d, result (.time g d) 2 d (BitVec.ofNat 64 (4 * s.cyc / 5))) ∧
    (∀ d a, result (.capq g d a) 6 d (s.capOf (s.rS a))) ∧
    (∀ d f k, result (.widq g d f k) 2 d (widqValue f k.toNat s)) ∧
    (∀ d n, result (.mfs g d n) 2 d ((s.sysRead n.toNat).getD 0)) ∧
    (∀ d a, result (.tfirst g d a) 2 d (BitVec.ofNat 64 ((lowestSet (s.here.tags &&& s.rS a).toNat 64).getD 64))) ∧
    (∀ d a dst, result (.hstat g d a dst) 2 d
      (if dst then s.here.hdst (fld (s.rS a) 0 4) else s.here.hstat s.cyc (fld (s.rS a) 0 4))) ∧
    (∀ d, result (.drainq g d) 2 d (s.drainWord)) ∧
    (∀ d a m, result (.vredadd g d a m) 5 d
      (BitVec.ofNat 64 (s.reduce m 0x80000000 (fadd .f32) fun k => (s.rLane a k).toNat))) ∧
    (∀ d a m, result (.vredmax g d a m) 5 d
      (BitVec.ofNat 64 (s.reduce m 0xFF800000 (fmaxC .f32) fun k => (s.rLane a k).toNat))) ∧
    (∀ d a m, result (.vredmin g d a m) 5 d
      (BitVec.ofNat 64 (s.reduce m 0x7F800000 (fminC .f32) fun k => (s.rLane a k).toNat))) ∧
    (∀ d a ty op m, result (.vired g d a ty op m) 5 d
      (extOf ty (s.reduce m (redIdent op (tyWidth ty)) (redI op (tyWidth ty))
        fun k => uvOf (tyWidth ty) (s.rLane a k).toNat : Nat))) ∧
    (∀ d a b ty, result (.vext g d a b ty) 3 d
      (if (s.rS b).toNat < s.vlen then extOf ty ((s.rLane a (s.rS b).toNat).toNat : Nat) else 0)) ∧
    (∀ d a, result (.mfirst g d a) 3 d (BitVec.ofNat 64 (((List.range s.vlen).find? (s.inLane a)).getD s.vlen))) ∧
    (∀ d a, result (.mpopc g d a) 3 d (BitVec.ofNat 64 ((List.range s.vlen).filter (s.inLane a)).length)) ∧
    (∀ d a hi, result (.mget g d a hi) 3 d (BitVec.ofNat 64 (maskOf 64 fun k => s.inLane a ((if hi then 64 else 0) + k))))

/-- Every predicate result, of cmp, cmpImm, plog and pmov (.sp), lands two cycles after the issue; a write to p0 is discarded;
pmov .upk writes p1 to p7 at once. Every lane mask that an instruction writes, of vcmpf, vicmp, mlog and mset, lands with the
latency of its class in the lanes its rule gives, and every other lane's bit reads as before; a write to m0 is discarded. Each
of these words completes. -/
def Obligations.PredicateAndMaskResults : Prop :=
  (∀ (g : Guard) (s : State), s.me.timely s.cyc = true →
    let result := fun (i : Instr) (d : PReg) (v : Bool) => s.runs i g = true →
      ∃ t, exec i s = .next t ∧ t.me.regP (s.cyc + 2) d.toNat = (d == 0 || v) ∧
        s.wroteOnly t g (if d = 0 then none else some (.p d.toNat v))
    (∀ d a b ty cc, result (.cmp g d a b ty cc) d (condI cc (valS ty s a) (valS ty s b))) ∧
    (∀ d a cc uns imm, result (.cmpImm g d a cc uns imm) d
      (if uns then condI cc ((s.rS a).toNat : Int) ((imm.signExtend 64).toNat : Int)
        else condI cc (s.rS a).toInt (imm.signExtend 64).toInt)) ∧
    (∀ d a b tt, result (.plog g d a b tt) d (truth tt (s.rP a) (s.rP b))) ∧
    (∀ d a, result (.pmov g (.sp d a)) d (s.rS a != 0))) ∧
  (∀ (g : Guard) (a : SReg) (s : State), s.runs (.pmov g (.upk a)) g = true → s.me.timely s.cyc = true →
    ∃ t, exec (.pmov g (.upk a)) s = .next t ∧ s.wentOn t g ∧ s.memSame t ∧ s.onlyMe t ∧
      (∀ r, 1 ≤ r → r < 8 → t.me.regP (s.cyc + 2) r = (s.rS a).getLsbD r) ∧
      t.me = { s.me with pc := t.me.pc, state := t.me.state, hold := t.me.hold, lastTr := t.me.lastTr,
                         pend := s.me.pend ++ (List.range 7).map fun r =>
                           ⟨s.cyc + 2, s.cyc, .p (r + 1) ((s.rS a).getLsbD (r + 1)), false⟩ } ∧
      ∀ c r k, t.me.regS c r = s.me.regS c r ∧ t.me.maskBit c r k = s.me.maskBit c r k ∧ t.me.lane c r k = s.me.lane c r k) ∧
  (∀ (g : Guard) (s : State), s.me.timely s.cyc = true →
    let result := fun (i : Instr) (lat : Nat) (d : MReg) (f : Nat → Option Bool) => s.runs i g = true →
      ∃ t, exec i s = .next t ∧
        (∀ k v, f k = some v → t.me.maskBit (s.cyc + lat) d.toNat k = (d == 0 || v)) ∧
        (∀ c k, f k = none → t.me.maskBit c d.toNat k = s.me.maskBit c d.toNat k) ∧
        ∃ e, s.wroteOnly t g e ∧ (e = none ∨ ∃ en v, e = some (.m d.toNat en v))
    (∀ d a b ty cc m, result (.vcmpf g d a b ty cc m) 5 d
      (s.maskedBit m fun k => condF (Ty.fmt ty) cc (codeOf ty (s.rLane a k)) (codeOf ty (s.rLane b k)))) ∧
    (∀ d a b ty cc m, result (.vicmp g d a b ty cc m) 5 d
      (s.maskedBit m fun k => condI cc (valOf ty (s.rLane a k).toNat) (valOf ty (s.rLane b k).toNat))) ∧
    (∀ d a b tt, result (.mlog g d a b tt) 3 d
      (fun k => if k < s.vlen then some (truth tt (s.inLane a k) (s.inLane b k)) else none)) ∧
    (∀ d a b first, result (.mset g d a b first) 3 d
      (fun k => if k < s.vlen then some (if first then decide (k < (s.rS a).toNat)
        else (s.rS b ++ s.rS a).getLsbD k) else none)))

/-- Every vector result, by the table vectorOut: the word completes, the lanes that the table gives read their new values after the
latency of the class, and every other lane reads as before. The forms are vadd, vsub, vmul, vfma, vfms, vmin, vmax, vabs, vneg,
vclass, vexp2, vlog2, vrcp, vrsq, vscan, vcvt, vpack, vunpk, viadd, visub, vimul, vimulh, vand, vor, vxor, vshl, vshr, vsar, vimin,
vimax, vbcast, vins, vsel, vpermb, vshuf, vslide and viota. -/
def Obligations.VectorResults : Prop :=
  ∀ (i : Instr) (g : Guard) (s : State) (lat : Nat) (d : VReg) (f : Nat → Option W32), i.guard = some g →
    vectorOut i s = some (lat, d, f) → s.runs i g = true → s.me.timely s.cyc = true →
    ∃ t, exec i s = .next t ∧
      (∀ k v, f k = some v → t.me.lane (s.cyc + lat) d.toNat k = v) ∧
      (∀ c k, f k = none → t.me.lane c d.toNat k = s.me.lane c d.toNat k) ∧
      ∃ l, s.wroteOnly t g (some (.v d.toNat l)) false (sfuWord i)

/-- A divide or special-function instruction that follows the slot's previous one of its class too soon raises an
issue-interval fault, of which VALUE is the number of cycles between them (R40, R475), and has no effect. -/
def Obligations.IssueIntervals : Prop :=
  ∀ (i : Instr) (g : Guard) (s : State) (c : Nat), i.guard = some g → headTrap i s = none → s.rP g.pred ≠ g.pneg →
    ((∃ d a b ty, i = .div g d a b ty ∨ i = .rem g d a b ty) → s.me.lastDiv = some c → s.cyc - c < 24 →
      exec i s = .next (s.trapAt (wordOf i) ⟨4, 1, BitVec.ofNat 64 (s.cyc - c), 0⟩)) ∧
    ((∃ d a m, i = .vexp2 g d a m ∨ i = .vlog2 g d a m ∨ i = .vrcp g d a m ∨ i = .vrsq g d a m) → s.me.lastSfu = some c →
      s.cyc - c < 4 → exec i s = .next (s.trapAt (wordOf i) ⟨4, 2, BitVec.ofNat 64 (s.cyc - c), 0⟩))

/-! ### Flow of control (R213 to R218) -/

/-- NOP and the branches (nop, br, jmp, call, ret, loop): the slot goes on at the target, and CALL and LOOP write their register
after two cycles. yield holds its slot for YIMM positions and its hold (R216); endSlot leaves a main slot DONE (R218), and on a handler
slot it is a state fault. -/
def Obligations.FlowOfControl : Prop :=
  (∀ (i : Instr) (g : Guard) (s : State) (link : Option (SReg × W64)) (target : Int) (taken : Bool), i.guard = some g →
    flowOut i s = some (link, target, taken) → s.runs i g = true → s.me.timely s.cyc = true →
    ∃ t, exec i s = .next t ∧ (t.me.pc : Int) = target ∧ t.me.hold = g.hold.toNat ∧
      t.me.state = (if g.hold = 0 then .run else .held) ∧ s.memSame t ∧ s.onlyMe t ∧
      (∀ lc v, link = some (lc, v) → lc ≠ 0 → t.me.regS (s.cyc + 2) lc.toNat = v) ∧
      s.me.sameRegs t.me (link.bind fun l => if l.1 = 0 then none else some (.s l.1.toNat l.2))) ∧
  (∀ (g : Guard) (s : State),
    (∀ imm : BitVec 21, s.runs (.yield g imm) g = true →
      ∃ t, exec (.yield g imm) s = .next t ∧ t.me.pc = s.me.pc + 1 ∧ t.me.hold = imm.toNat + g.hold.toNat ∧
        t.me.state = (if imm.toNat + g.hold.toNat = 0 then .run else .held) ∧ s.me.sameRegs t.me none ∧ s.memSame t ∧
        s.onlyMe t) ∧
    (s.runs (.endSlot g) g = true →
      ∃ t, exec (.endSlot g) s = .next t ∧ t.me.state = .done ∧ t.me.pc = s.me.pc + 1 ∧ s.me.sameRegs t.me none ∧ s.memSame t) ∧
    (headTrap (.endSlot g) s = none → s.rP g.pred ≠ g.pneg → s.me.hslot = true →
      exec (.endSlot g) s = .next (s.trapAt (wordOf (.endSlot g)) ⟨8, 1, 0, 0⟩)))

/-- sleep, cwb, fetchb and twait put their slot to sleep on their condition, where no recorded fault is theirs to deliver. -/
def Obligations.WaitsSleep : Prop :=
  ∀ (i : Instr) (g : Guard) (s : State) (w : Wake), i.guard = some g → sleepOut i s = some w → s.runs i g = true →
    s.me.faults = [] →
    ∃ t, exec i s = .next t ∧ s.slept t g w ∧ s.me.sameRegs t.me none ∧ s.memSame t ∧ s.onlyMe t

/-! ### System registers and tables -/

/-- mts and hcfg write their system register, HCFG clamped (R165) and the reserved bits of TVEC zero (R462); after two cycles
the slot reads the new value. MTS of TSCR leaves the value whole.
A reserved system register is a state fault for MFS and MTS, and so is the write of a read-only one (R228, R480). -/
def Obligations.SystemRegisters : Prop :=
  (∀ (g : Guard) (s : State), s.me.timely s.cyc = true →
    (∀ n a, s.runs (.mts g n a) g = true → ∃ t, exec (.mts g n a) s = .next t ∧
      t.me.sysReg (s.cyc + 2) n.toNat = (if n = 0x20 then clampHcfg (s.rS a)
        else if n = 0x30 then s.rS a &&& 0x8000FFFE0003FFFF else s.rS a) ∧
      ∃ v, s.wroteOnly t g (some (.sys n.toNat v))) ∧
    (∀ a, s.runs (.hcfg g a) g = true → ∃ t, exec (.hcfg g a) s = .next t ∧
      t.me.sysReg (s.cyc + 2) 0x20 = clampHcfg (s.rS a) ∧ s.wroteOnly t g (some (.sys 0x20 (clampHcfg (s.rS a)))))) ∧
  (∀ (g : Guard) (s : State) (n : BitVec 12) (r : SReg), s.rP g.pred ≠ g.pneg →
    (s.sysRead n.toNat = none → headTrap (.mfs g r n) s = none →
      exec (.mfs g r n) s = .next (s.trapAt (wordOf (.mfs g r n)) ⟨8, 3, 0, 0⟩)) ∧
    (s.sysRead n.toNat = none → headTrap (.mts g n r) s = none →
      exec (.mts g n r) s = .next (s.trapAt (wordOf (.mts g n r)) ⟨8, 3, 0, 0⟩)) ∧
    (s.sysRead n.toNat ≠ none → n ≠ 0x20 → n ≠ 0x30 → n ≠ 0x34 → headTrap (.mts g n r) s = none →
      exec (.mts g n r) s = .next (s.trapAt (wordOf (.mts g n r)) ⟨8, 4, 0, 0⟩)))

/-- The words that change the tables of their tile leave one pending effect, which lands by R38: tclr, hset, hmsk, bkinit,
bkpost, bkrel, keep and disc, with the system registers of mts and hcfg. -/
def Obligations.TableWritesPend : Prop :=
  ∀ (i : Instr) (g : Guard) (s : State) (lat : Nat) (e : PEffect), i.guard = some g → tableOut i s = some (lat, e) →
    s.runs i g = true →
    ∃ t, exec i s = .next t ∧ t.me.pend = s.me.pend ++ [⟨s.cyc + lat, s.cyc, e, false⟩] ∧ s.wroteOnly t g (some e)

/-! ### Local memory -/

/-- Every local memory word leaves its access for the SRAM cycle, three cycles after its issue, and goes on (R132, R219 to R226,
R243, R244): ld, ldp, st, stp, latom, iinv, vld, vst, vlds, vsts, vgath and vscat. -/
def Obligations.LocalAccessesQueued : Prop :=
  ∀ (i : Instr) (g : Guard) (s : State) (a : LAct), i.guard = some g → accessOut i s = some a → s.runs i g = true →
    ∃ t, exec i s = .next t ∧ s.enqueued t s g none none (fun u =>
      { u with accesses := u.accesses ++ [⟨s.cyc + 3, s.trace (wordOf i) none, a⟩] })

/-- A local access in its SRAM cycle. A load of one or two registers (ld, ldp): three cycles later, six after its issue, its slot
reads in each destination the element there, its first byte the least significant, extended by the form (R3, R39, R219, R220), and
in every other register what it read. A load of lanes (vld, vlds, vgath): four cycles later, seven after its issue, each lane of
the list reads its element, each lane to be cleared reads zero, and every other lane and register as before (R236, R243, R244).
Neither changes a byte of any memory. A store (st, stp, vst, vsts, vscat) writes the bytes of its pieces at their addresses, of
two lanes on one byte those of the later, and every other byte of every memory is as it was (R132, R133, R219, R246). An atomic:
its bytes become PERFORM of the operation on what they held, its destination reads the old value extended by its type, and
every other byte of every memory is as it was (R149, R224). An invalidation: no older value of a word of its lines stays in the
tile's fetch buffer, the values kept of every other word stay, and no memory is changed (R226). -/
def Obligations.LocalAccessesPerform : Prop :=
  (∀ (s : State) (site size : Nat) (sx : Bool) (dst : List (Nat × Nat)) (a : LAccess), a.act = .load dst size sx →
    a.tr.site = site → (dst.map (·.1)).Nodup → 3 ≤ s.cyc → (s.slot site a.tr.slot).clearAt s.cyc (s.cyc + 3) = true →
    (∀ d, d ∈ dst → anyPoison 3 (s.tile site).sramPoison d.2 (2 ^ size) = false) →
    let t := s.performAccess site a
    (∀ d, d ∈ dst → d.1 ≠ 0 → (t.slot site a.tr.slot).regS (s.cyc + 3) d.1 =
      extElem 64 size sx (loadNat (s.tile site).sram d.2 (2 ^ size))) ∧
      (∀ c r, (∀ d, d ∈ dst → d.1 ≠ r) → (t.slot site a.tr.slot).regS c r = (s.slot site a.tr.slot).regS c r) ∧ s.memSame t) ∧
  (∀ (s : State) (site r size : Nat) (sx : Bool) (lanes : List (Nat × Nat)) (zero : List Nat) (a : LAccess),
    a.act = .vload r lanes size sx zero → a.tr.site = site → (lanes.map (·.1)).Nodup →
    (∀ d, d ∈ lanes → d.1 ∉ zero) → 3 ≤ s.cyc → (s.slot site a.tr.slot).clearAt s.cyc (s.cyc + 4) = true →
    (∀ d, d ∈ lanes → anyPoison 3 (s.tile site).sramPoison d.2 (2 ^ size) = false) →
    let t := s.performAccess site a
    (∀ d, d ∈ lanes → (t.slot site a.tr.slot).lane (s.cyc + 4) r d.1 =
      extElem 32 size sx (loadNat (s.tile site).sram d.2 (2 ^ size))) ∧
      (∀ k, k ∈ zero → (t.slot site a.tr.slot).lane (s.cyc + 4) r k = 0) ∧
      (∀ c q k, (q = r → k ∉ zero ∧ ∀ d, d ∈ lanes → d.1 ≠ k) →
        (t.slot site a.tr.slot).lane c q k = (s.slot site a.tr.slot).lane c q k) ∧
      (∀ c q, (t.slot site a.tr.slot).regS c q = (s.slot site a.tr.slot).regS c q) ∧ s.memSame t) ∧
  (∀ (s : State) (site : Nat) (pieces : List (Nat × List Byte)) (rel ordered : Bool) (a : LAccess),
    a.act = .store pieces rel ordered → s.wroteSram (s.performAccess site a) site pieces) ∧
  (∀ (s : State) (site p : Nat) (l : List Byte) (rel ordered : Bool) (a : LAccess),
    a.act = .store (splitAligned p l) rel ordered → s.wroteSram (s.performAccess site a) site [(p, l)]) ∧
  (∀ (s : State) (site d p size : Nat) (op : AOp) (data swap : W64) (sx : Bool) (a : LAccess),
    a.act = .atom d p op size data swap sx → a.tr.site = site → 3 ≤ s.cyc →
    (s.slot site a.tr.slot).clearAt s.cyc (s.cyc + 3) = true → anyPoison 3 (s.tile site).sramPoison p (2 ^ size) = false →
    let t := s.performAccess site a
    let old := loadNat (s.tile site).sram p (2 ^ size)
    s.wroteSram t site [(p, leBytes (2 ^ size) (performOp op size data swap old))] ∧
      (d ≠ 0 → (t.slot site a.tr.slot).regS (s.cyc + 3) d = extElem 64 size sx old) ∧
      ∀ c r, r ≠ d → (t.slot site a.tr.slot).regS c r = (s.slot site a.tr.slot).regS c r) ∧
  (∀ (s : State) (site lo hi : Nat) (a : LAccess), a.act = .iinv lo hi →
    anyPoison 3 (s.tile site).sramPoison lo (hi - lo) = false →
    let t := s.performAccess site a
    s.memSame t ∧ ∀ w, getD [] (t.tile site).fetch w =
      if lo < hi ∧ lo / 64 ≤ w / 8 ∧ w / 8 ≤ (hi - 1) / 64 then [] else getD [] (s.tile site).fetch w)

/-! ### Queues of the shared units -/

/-- The array instructions enter the array queue with their operands captured (R260 to R262): pld, pldv, az, mma, ard, awr, ascl,
arowmax, aexp, arowsum, acvt, amask, attv, acmb and anrm.
The network commands tsend, tfwd, tfork, eos and cfgld enter their queue with their operands captured; TFWD and TFORK release the latch they name (R261, R279,
R281, R286). -/
def Obligations.ArrayAndNetworkCommandsQueued : Prop :=
  (∀ (i : Instr) (g : Guard) (s : State) (q : QTag) (d a b : W64) (lanes : List W32), i.guard = some g →
    arrayOut i s = some (q, d, a, b, lanes) → s.runs i g = true →
    ∃ t, exec i s = .next t ∧ s.enqueued t s g q.tagOf none (fun u =>
      { u with arrayQ := u.arrayQ ++ [s.queueEntry i q.tagOf d a b lanes none] })) ∧
  (∀ (i : Instr) (g : Guard) (s : State) (q : QTag) (d a b : W64) (held : Option (Nat × Nat)), i.guard = some g →
    netOut i s = some (q, d, a, b, held) → s.runs i g = true →
    ∃ t, exec i s = .next t ∧ s.enqueued t s g q.tagOf none (fun u =>
      { u with netQ := u.netQ ++ [s.queueEntry i q.tagOf d a b [] held] }) ∧
      (held.isSome = true → ∀ h, t.me.hnd = some h → h.held = false))

/-- The shard instructions shlk, shmap, shunmap and shref enter their queue; until the entry completes their destination reads a value that the spec leaves
open, the model's free value (R43; notes/assumptions/5.md).
The copy-engine commands cpy, cpy2, cpyl, cpyc, fill and qfence enter the engine port with the number of the command; CPY2 and CPYC read their descriptor in the
SRAM cycle (R300 to R305). -/
def Obligations.ShardAndEngineCommandsQueued : Prop :=
  (∀ (i : Instr) (g : Guard) (s : State) (q : QTag) (d : SReg) (x a b : W64), i.guard = some g →
    shardOut i s = some (q, d, x, a, b) → s.runs i g = true →
    ∃ t, exec i s = .next t ∧ s.enqueued t { s with free := s.free + 1 } g q.tagOf
      (if d = 0 then none else some (.s d.toNat (Config.freeWord s.free)))
      (fun u => { u with shardQ := u.shardQ ++ [s.queueEntry i q.tagOf x a b [] none] })) ∧
  (∀ (i : Instr) (g : Guard) (s : State) (q : QTag) (e : EngQ) (op : EOp) (desc : Option Nat), i.guard = some g →
    engineOut i s = some (q, e, op, desc) → s.runs i g = true →
    ∃ t, exec i s = .next t ∧ s.enqueued t { s with nextCmd := s.nextCmd + 1 } g q.tagOf none (fun u =>
      { u with
        engPort := u.engPort ++ [{ id := s.nextCmd, iss := s.cyc, tr := s.trace (wordOf i) q.tagOf,
                                   eng := s.curSite / 256 * 16 + e.eng.toNat, queue := e.queue.toNat, op := op, bad := false,
                                   stopped := false, late := false, acks := [], ran := false, failed := none, beats := [] }],
        accesses := u.accesses ++ (desc.toList.map fun p => ⟨s.cyc + 3, s.trace (wordOf i) q.tagOf, .desc s.nextCmd p⟩) }))

/-- rst, rat and hflush enter the insertion queue, which their entry leaves three cycles after the issue at the earliest (R150,
R306, R308).
ratf, rld, bari and bara enter the remote request queue, and their request leaves the tile (R307, R317). -/
def Obligations.ElementsAndRequestsQueued : Prop :=
  (∀ (i : Instr) (g : Guard) (s : State) (tag : Option Nat) (it : InsItem), i.guard = some g →
    insertOut i s = some (tag, it) → s.runs i g = true →
    ∃ t, exec i s = .next t ∧ s.enqueued t s g tag none (fun u => { u with insQ := u.insQ ++ [(s.cyc + 3, it)] })) ∧
  (∀ (i : Instr) (g : Guard) (s : State) (tag : Option Nat) (kind : ReqKind) (addr : W64) (mem : Bool) (dst : Nat),
    i.guard = some g → requestOut i s = some (tag, kind, addr, mem, dst) → s.runs i g = true →
    ∃ t, exec i s = .next t ∧ s.enqueued t (s.withRequest i tag kind addr mem) g tag none (fun u =>
      { u with nextId := s.here.nextId + 1, remote := u.remote ++ [s.requestEntry i tag kind addr mem dst false] }))

/-- nred and nbcast enter the collective queue with the number of their collective in their group; one whose group asks for no
contribution completes at once (R323, R324). -/
def Obligations.CollectivesQueued : Prop :=
  ∀ (g : Guard) (s : State) (i : Instr) (d a b : SReg) (size : BitVec 2) (op : Option AOp) (root : Bool) (q : QTag),
    ((∃ o, op = some o ∧ root = false ∧ i = .nred g d a b o size q) ∨ (op = none ∧ i = .nbcast g d a b size root q)) →
    s.runs i g = true →
    let c : CEntry := { tr := s.trace (wordOf i) q.tagOf, iss := s.cyc, d := s.kern.sbase + (s.rS d).toNat,
                        a := s.kern.sbase + (s.rS a).toNat, n := groupN (s.rS b), size := size.toNat, op := op, root := root,
                        group := s.rS b, count := s.groupCount (s.rS b), level := fld (s.rS b) 16 3,
                        index := s.here.collCount s.kern.l (s.kern.groupKey (fld (s.rS b) 16 3)) }
    ∃ t, exec i s = .next t ∧ s.wentOn t g ∧ s.me.sameRegs t.me none ∧ s.memSame t ∧ t = { s with tiles := t.tiles } ∧
      t.here.collCount s.kern.l (s.kern.groupKey (fld (s.rS b) 16 3)) = c.index + 1 ∧
      (c.count ≠ 0 → t.here.collQ = s.here.collQ ++ [c] ∧ t.here.tagCount = (s.here.tagStart q.tagOf).tagCount) ∧
      (c.count = 0 → t.here.collQ = s.here.collQ ∧
        t.here.tagCount = ((s.here.tagStart q.tagOf).tagDone q.tagOf).tagCount)

/-! ### Handlers, tokens and synchronisation -/

/-- ttake delivers a word of its latch and may release it (R283): only then is the latch free for selections from the cycle after
the landing cycle.
tjoin goes by word 1 of the held token as its basket slot holds it, which an earlier TJOIN may have lowered: that it is this word
and not the latch is the model's reading (notes/assumptions/13.md). With a sibling in the table, an entry of the kernel with the
token's TOKID, DEPTH and its PATH without bit DEPTH - 1, the entry is removed, D receives FOUND, FIRST of this token, and the
sibling's basket, slot index and offset, and in SRAM cycle c + 3 word 1 of this token's slot gets DEPTH - 1 and a PATH with that
bit cleared. With none and room among the 16 entries, D is 0 and a new entry records this token; with none and no room D has only
FULL set, and nothing else changes (R282). A write to s0 is discarded. -/
def Obligations.TokenReads : Prop :=
  (∀ (g : Guard) (d : SReg) (l : LReg) (word : BitVec 3) (rel : Bool) (s : State),
    s.runs (.ttake g d l word rel) g = true → s.me.timely s.cyc = true →
    let v := nth (getD [] s.here.latches l.toNat) word.toNat 0
    ∃ t, exec (.ttake g d l word rel) s = .next t ∧ s.wentOn t g ∧ s.memSame t ∧ s.onlyMe t ∧
      t.me.regS (s.cyc + 2) d.toNat = (if d = 0 then 0 else v) ∧
      s.me.sameRegs t.me (if d = 0 then none else some (.s d.toNat v)) ∧
      t.me = { s.me with pc := t.me.pc, state := t.me.state, hold := t.me.hold, lastTr := t.me.lastTr,
                         hnd := if rel then s.me.hnd.map fun h => { h with held := false } else s.me.hnd,
                         pend := s.me.pend ++ (if d = 0 then [] else [⟨s.cyc + 2, s.cyc, .s d.toNat v, false⟩]) ++
                           (if rel then [⟨s.cyc + 3, s.cyc, .latch l.toNat, false⟩] else []) }) ∧
  (∀ (g : Guard) (d : SReg) (l : LReg) (s : State), s.runs (.tjoin g d l) g = true → s.me.timely s.cyc = true →
    let w := s.joinWord l
    let basket := fld (s.latch l 0) 48 4
    let slot := fld (s.latch l 0) 32 16
    let bk := s.here.basket basket
    let bit := fld w 12 4 - 1
    let path := fld w 0 8 - (if bitOf (fld w 0 8) bit then 2 ^ bit else 0)
    let waits := fun j : Join => j.kern = s.me.kern ∧ j.tokid = fld w 16 48 ∧ j.depth = fld w 12 4 ∧ j.path = path
    let gives := fun (t : State) (v : W64) => t.me.regS (s.cyc + 6) d.toNat = (if d = 0 then 0 else v) ∧
      s.me.sameRegs t.me (if d = 0 then none else some (.s d.toNat v)) ∧
      s.me.pends t.me s.cyc (if d = 0 then none else some (.s d.toNat v))
    ∃ t, exec (.tjoin g d l) s = .next t ∧ s.wentOn t g ∧ s.memSame t ∧ t = { s with tiles := t.tiles } ∧
      (∀ n, n ≠ s.curSite → t.tile n = s.tile n) ∧ (∀ k, k ≠ s.curSlot → t.here.slot k = s.here.slot k) ∧
      t.here = { s.here with slots := t.here.slots, progress := t.here.progress, joins := t.here.joins, accesses := t.here.accesses } ∧
      (∀ e j, (e, j) ∈ s.here.joins → waits j → (∀ x, x ∈ s.here.joins → waits x.2 → x = (e, j)) →
        t.here.joins = erase e s.here.joins ∧
        gives t (word64 [(63, 1), (62, bitNat !bitOf (fld w 0 8) bit), (48, j.basket), (32, j.slot), (0, j.off)]) ∧
        t.here.accesses = s.here.accesses ++ [⟨s.cyc + 3, s.trace (wordOf (.tjoin g d l)) none,
          .store [((s.here.kernelOf bk.owner).sbase + 64 * bk.base + 64 * bk.sz * slot + 8,
            leBytes 8 (word64 [(16, fld w 16 48), (12, fld w 12 4 - 1), (8, fld w 8 4), (0, path)]).toNat)] false true⟩]) ∧
      ((∀ x, x ∈ s.here.joins → ¬ waits x.2) → t.here.accesses = s.here.accesses ∧
        ((∀ e, e < 16 → ∃ x, x ∈ s.here.joins ∧ x.1 = e) → t.here.joins = s.here.joins ∧ gives t 0x2000000000000000) ∧
        ((∃ e, e < 16 ∧ ∀ x, x ∈ s.here.joins → x.1 ≠ e) → gives t 0 ∧
          ∃ e, e < 16 ∧ (∀ x, x ∈ s.here.joins → x.1 ≠ e) ∧
            t.here.joins = put e { kern := s.me.kern, tokid := fld w 16 48, depth := fld w 12 4, path := path,
                                   first := !bitOf (fld w 0 8) bit, basket := basket, slot := slot,
                                   off := 64 * bk.base + 64 * bk.sz * slot, word1 := w } s.here.joins)))

/-- hret ends the handler, releasing a latch that it still holds: its entry no longer runs, and is runnable again with AGE = 0 while
PEND is above 0; what the handler has queued goes on; outside a handler it is a state fault (R57, R284). -/
def Obligations.HandlerReturns : Prop :=
  ∀ (g : Guard) (s : State), wordOf (.hret g) % 2 ^ 47 = 0 ∧
    (headTrap (.hret g) s = none → s.rP g.pred ≠ g.pneg → s.handler = none →
      exec (.hret g) s = .next (s.trapAt (wordOf (.hret g)) ⟨8, 1, 0, 0⟩)) ∧
    ∀ h : Handler, s.runs (.hret g) g = true → s.me.hnd = some h → s.me.faults = [] →
      ∃ t, exec (.hret g) s = .next t ∧ s.wentOn t g ∧ s.me.sameRegs t.me none ∧ s.memSame t ∧ t.me.hnd = none ∧
        t.me.pend = s.me.pend ∧ t.here.arrayQ = s.here.arrayQ ∧ t.here.netQ = s.here.netQ ∧ t.here.sends = s.here.sends ∧
        t.here.shardQ = s.here.shardQ ∧ t.here.engPort = s.here.engPort ∧ t.here.insQ = s.here.insQ ∧
        t.here.remote = s.here.remote ∧ t.here.collQ = s.here.collQ ∧ t.here.accesses = s.here.accesses ∧
        (t.here.hsteOf h.entry).running = false ∧ (t.here.hsteOf h.entry).pend = (s.here.hsteOf h.entry).pend ∧
        (0 < (s.here.hsteOf h.entry).pend → (t.here.hsteOf h.entry).age = 0)

/-- bkaw claims the next free slot of its basket and delivers its index and offset; with none free .try delivers all ones and
the plain form sleeps (R313, R314). -/
def Obligations.BasketClaims : Prop :=
  ∀ (g : Guard) (k : BitVec 4) (d : SReg) (once : Bool) (s : State), s.runs (.bkaw g k d once) g = true →
    s.me.timely s.cyc = true → d ≠ 0 →
    (∀ n, (s.here.basket k.toNat).pick false = some n → ∃ t, exec (.bkaw g k d once) s = .next t ∧ s.wentOn t g ∧ s.memSame t ∧
      (t.here.basket k.toNat).stateOf n = .claimed ∧
      t.me.regS (s.cyc + 2) d.toNat =
        word64 [(32, n), (0, 64 * (s.here.basket k.toNat).base + 64 * (s.here.basket k.toNat).sz * n)]) ∧
    ((s.here.basket k.toNat).pick false = none → once = true → ∃ t, exec (.bkaw g k d once) s = .next t ∧
      t.me.regS (s.cyc + 2) d.toNat = 0xFFFFFFFFFFFFFFFF ∧ s.wroteOnly t g (some (.s d.toNat 0xFFFFFFFFFFFFFFFF))) ∧
    ((s.here.basket k.toNat).pick false = none → once = false → ∃ t, exec (.bkaw g k d once) s = .next t ∧
      s.sleptWith t s g (.bkaw k.toNat d) id)

/-- The waits that do more than wait: a wide release or full fence and phase put a marker behind the slot's elements, barw sends
its arrival, waitm takes the lowest free monitor (the model's choice: notes/assumptions/81.md) and arms it in the SRAM cycle, cfgswap stands at the swap, and prep sleeps
where a compact pre-emption of its node stands and else goes on (R138, R288, R310, R311, R317, R319, R321). -/
def Obligations.SynchronisingWaits : Prop :=
  ∀ (g : Guard) (s : State),
    (∀ k scope, s.runs (.fence g k scope) g = true → s.me.faults = [] → ∃ t, exec (.fence g k scope) s = .next t ∧
      s.sleptWith t s g (.fence k scope s.loadsLanded)
        (if k ≠ .acq ∧ 2 ≤ scope.code then fun u => { u with insQ := u.insQ ++ [(s.cyc + 3, .fence s.curSlot)] } else id)) ∧
    (s.runs (.phase g) g = true → (∀ k, k ∈ s.phaseSlots → (s.here.slot k).faults = []) → ∃ t, exec (.phase g) s = .next t ∧
      s.sleptWith t s g (.phase false) (fun u => { u with insQ := u.insQ ++ [(s.cyc + 3, .fence s.curSlot)] })) ∧
    (∀ d mem, s.runs (.barw g d mem) g = true → ∃ t, exec (.barw g d mem) s = .next t ∧
      s.sleptWith t (s.withRequest (.barw g d mem) none .arrive (s.rS d) mem) g (.bar (s.rS d) mem none false) (fun u =>
        { u with nextId := s.here.nextId + 1,
                 remote := u.remote ++ [s.requestEntry (.barw g d mem) none .arrive (s.rS d) mem 0 true] })) ∧
    (∀ d a cc n, s.runs (.waitm g d a cc) g = true → s.here.freeMon = some n → ∃ t, exec (.waitm g d a cc) s = .next t ∧
      s.sleptWith t s g (.mon n false) (fun u =>
        { u with mons := put n ⟨s.curSlot, cc, (s.kern.sbase + (s.rS d).toNat) / 8, s.rS a, false⟩ u.mons,
                 accesses := u.accesses ++ [⟨s.cyc + 3, s.trace (wordOf (.waitm g d a cc)) none, .arm n⟩] })) ∧
    (s.runs (.cfgswap g) g = true → ∃ t, exec (.cfgswap g) s = .next t ∧ s.sleptWith t s g (.swap false) (fun u =>
      { u with box := { u.box with swapTr := some (s.trace (wordOf (.cfgswap g)) none), swapWait := true } })) ∧
    (s.runs (.prep g) g = true → s.compactStands s.kern = true → ∃ t, exec (.prep g) s = .next t ∧ s.sleptWith t s g .prep id) ∧
    (s.runs (.prep g) g = true → s.compactStands s.kern = false → ∃ t, exec (.prep g) s = .next t ∧ s.wroteOnly t g none)

/-! ### Traps (R456 to R467) -/

/-- A fault that its slot takes: the slot goes on in RUN at the vector of TVEC, TCAUSE, TEPC and TVAL hold what R464 says, the
eight words of the record are written at the fault's place in the allocation, and no other byte of any memory is changed: tiles'
SRAM and plane stores, vaults, HBM, the hosts' and the scheduler's memories.
A fault that its slot does not take goes to the scheduler: the slot stops, and the fault is logged and counted (R466,
R467). -/
def Obligations.FaultsTaken : Prop :=
  (∀ (s : State) (slot : Nat) (f : FaultRec) (tepc : Nat) (covered : List Nat),
    let x := s.slot f.tr.site slot
    let k := (s.tile f.tr.site).kernelOf x.kern
    let at' := k.sbase + 64 * fld (x.sysReg s.cyc 0x30) 33 15
    let t := s.takeFaultAt slot f tepc covered
    let y := t.slot f.tr.site slot
    fld (x.sysReg s.cyc 0x30) 63 1 = 1 → fld x.tcause 63 1 = 0 → f.cls ≠ 3 → f.cls ≠ 13 → f.cls ≠ 14 →
    64 * fld (x.sysReg s.cyc 0x30) 33 15 + 64 ≤ k.sram → tepc < 2 ^ 18 → f.cls < 256 → f.code < 256 →
    y.state = .run ∧ y.pc = fld (x.sysReg s.cyc 0x30) 0 18 ∧ fld y.tcause 63 1 = 1 ∧ fld y.tcause 0 8 = f.cls ∧
      fld y.tcause 8 8 = f.code ∧ fld y.tcause 62 1 = bitNat f.async ∧
      (fld y.tcause 61 1 = 1 ↔ ∃ n, n ∈ covered ∧ (s.slot f.tr.site n).faults ≠ []) ∧ y.tepc.toNat = tepc ∧ y.tval = f.value ∧ y.s = x.s ∧ y.p = x.p ∧ y.m = x.m ∧ y.v = x.v ∧
      y.pend = x.pend ∧ s.wroteSram t f.tr.site [(at', wordBytes (recordWords (s.coord f.tr.site) f false))]) ∧
  (∀ (s : State) (slot : Nat) (f : FaultRec) (tepc : Nat) (covered : List Nat),
    let x := s.slot f.tr.site slot
    (fld (x.sysReg s.cyc 0x30) 63 1 = 0 ∨ fld x.tcause 63 1 = 1 ∨ f.cls = 3 ∨ f.cls = 13 ∨ f.cls = 14) → f.tr.slot = slot →
    x.state ≠ .done →
    let t := s.takeFaultAt slot f tepc covered
    (t.slot f.tr.site slot).state = .stopped ∧ (t.slot f.tr.site slot).pc = tepc ∧
      t.mg.fltcnt = (s.mg.fltcnt + 1) % 2 ^ 32 ∧
      getD [] t.mg.fltlog (s.mg.fltcnt % 1024) = recordWords (s.coord f.tr.site) f (fld x.tcause 63 1 == 1) ∧ s.memSame t)

/-- trap takes a software trap with VALUE = YIMM and TEPC the next word (R229); eret leaves trap handling and resumes at TEPC, or
past it with .skip (R465). -/
def Obligations.TrapAndReturn : Prop :=
  ∀ (g : Guard) (s : State),
    (∀ imm : BitVec 21, s.runs (.trap g imm) g = true → ∃ t f, exec (.trap g imm) s = .next t ∧ f.cls = 9 ∧ f.code = 0 ∧
      f.value = imm.zeroExtend 64 ∧ f.async = false ∧ f.tr = s.trace (wordOf (.trap g imm)) none ∧
      t = (s.noteIssue (.trap g imm)).takeFault f (s.me.pc + 1)) ∧
    (∀ skip : Bool, s.runs (.eret g skip) g = true → ∃ t, exec (.eret g skip) s = .next t ∧
      t.me.pc = fld s.me.tepc 0 18 + (if skip then 1 else 0) ∧ fld t.me.tcause 63 1 = 0 ∧
      fld t.me.tcause 0 63 = fld s.me.tcause 0 63 ∧ t.me.tepc = s.me.tepc ∧ t.me.tval = s.me.tval ∧
      t.me.hold = g.hold.toNat ∧ t.me.state = (if g.hold = 0 then .run else .held) ∧ s.me.sameRegs t.me none ∧ s.memSame t ∧
      s.onlyMe t)

/-! ### The steps of slots and handlers -/

/-- What a slot's position brings about. landingCycle: effects that land change no register's reading from then on (R38); holdExpiry:
a hold passes (R36); slotWake: a slot wakes when its condition holds and not before (R49), a BKAW with its claim (R314); backedRetry: a
slot in BACKED tries again (R44). -/
def Obligations.SlotEvents : Prop :=
  ∀ (s : State) (site slot : Nat),
    let x := s.slot site slot
    (∃ t, exec (.landingCycle site slot) s = .next t ∧
      (∀ p, p ∈ (t.slot site slot).pend ↔ p ∈ x.pend ∧ s.cyc < p.land) ∧
      (∀ c r k, s.cyc ≤ c → k < 128 → (t.slot site slot).regS c r = x.regS c r ∧ (t.slot site slot).regP c r = x.regP c r ∧
        (t.slot site slot).maskBit c r k = x.maskBit c r k ∧ (t.slot site slot).lane c r k = x.lane c r k) ∧
      ∀ c n, s.cyc ≤ c → n = 0x20 ∨ n = 0x30 ∨ n = 0x34 → (t.slot site slot).sysReg c n = x.sysReg c n) ∧
    (x.state = .held → ∃ t, exec (.holdExpiry site slot) s = .next t ∧ s.onlySlot t site slot ∧
      t.slot site slot = { x with hold := x.hold - 1, state := if x.hold ≤ 1 then .run else .held }) ∧
    (∀ w, x.state = .asleep → x.wake = some w →
      (∀ c, w = .time c → (s.wakeMet site slot = true ↔ c ≤ s.cyc)) ∧
      (∀ m, w = .tags m true → (s.wakeMet site slot = true ↔ m = 0 ∨ (s.tile site).tags &&& m ≠ 0)) ∧
      (∀ m, w = .tags m false → (s.wakeMet site slot = true ↔ (s.tile site).tags &&& m = m)) ∧
      (s.wakeMet site slot = false → exec (.slotWake site slot) s = .next s) ∧
      ((∀ k d, w ≠ .bkaw k d) → s.wakeMet site slot = true → ∃ t, exec (.slotWake site slot) s = .next t ∧ s.onlyTile t site ∧
        s.memSame t ∧ t.slot site slot = { x with wake := none, wakeHold := 0, hold := x.wakeHold - 1,
                                                  state := if 1 < x.wakeHold then .held else .run }) ∧
      (∀ k d n, w = .bkaw k d → d ≠ 0 → x.timely s.cyc = true → ((s.tile site).basket k).pick false = some n →
        ∃ t, exec (.slotWake site slot) s = .next t ∧ s.onlyTile t site ∧ s.memSame t ∧
          (t.slot site slot).state = (if 1 < x.wakeHold then .held else .run) ∧
          ((t.tile site).basket k).stateOf n = .claimed ∧ (t.slot site slot).regS (s.cyc + 2) d.toNat =
            word64 [(32, n), (0, 64 * ((s.tile site).basket k).base + 64 * ((s.tile site).basket k).sz * n)])) ∧
    (x.state = .backed → ∃ t, exec (.backedRetry site slot) s = .next t ∧ s.onlySlot t site slot ∧
      t.slot site slot = { x with state := .run })

/-- What an instruction leaves pending for its tile comes about in its landing cycle, by landingCycle: tclr, hset, hmsk, bkinit,
bkpost, bkrel, keep and disc (R285, R297, R312 to R314, R322). -/
def Obligations.EffectsLand : Prop :=
  ∀ (s : State) (site slot c iss : Nat) (e : PEffect) (load : Bool), (s.slot site slot).pend = [⟨c, iss, e, load⟩] → c ≤ s.cyc →
    let u := s.tile site
    ∃ t, exec (.landingCycle site slot) s = .next t ∧
      let v := t.tile site
      (∀ n, n ≠ site → t.tile n = s.tile n) ∧
      (∀ m, e = .tclr m → v.tags = u.tags &&& ~~~m ∧ s.onlyTile t site ∧ s.memSame t) ∧
      (∀ n w, e = .hset n w → s.onlyTile t site ∧ s.memSame t ∧ (∀ k, k ≠ n → v.hentOf k = u.hentOf k) ∧
        hentOwner (v.hentOf n) = hentOwner (u.hentOf n) ∧ hentValid (v.hentOf n) = hentValid w ∧
        hentPrio (v.hentOf n) = hentPrio w ∧ hentMask (v.hentOf n) = hentMask w ∧ hentLatch (v.hentOf n) = hentLatch w ∧
        hentBasket (v.hentOf n) = hentBasket w ∧ hentChan (v.hentOf n) = hentChan w ∧ hentPc (v.hentOf n) = hentPc w) ∧
      (∀ sel new, e = .hmsk sel new → s.onlyTile t site ∧ s.memSame t ∧ ∀ k, k < 32 →
        hentMask (v.hentOf k) = (if sel.getLsbD k then new.getLsbD k else hentMask (u.hentOf k)) ∧
        ∀ j, j < 64 → j ≠ 59 → (v.hentOf k).getLsbD j = (u.hentOf k).getLsbD j) ∧
      (∀ n base w, e = .bkinit n base w → s.onlyTile t site ∧ s.memSame t ∧
        v.basket n = { valid := true, rsv := fld w 31 1 == 1, nm1 := fld w 16 8, sz := fld w 0 10, next := 0,
                       owner := (u.kernelOf (s.slot site slot).kern).owner, base := base, st := [] }) ∧
      (∀ n i w, e = .bkpost n i w → (v.basket n).stateOf i = .ready ∧
        ∃ words, v.arrivals = u.arrivals ++ [{ chan := fld w 0 8, kind := fld w 60 4, basket := n, slot := some i,
                                               len := fld w 16 32, words := words, due := s.cyc + 2, entry := none }]) ∧
      (∀ n i, e = .bkrel n i → (v.basket n).stateOf i = .free ∧ s.memSame t) ∧
      (∀ lo hi mark, e = .marks lo hi mark → u.kernels.any (·.owner == (s.slot site slot).kern) = true →
        s.onlyTile t site ∧ s.memSame t ∧ ∀ k, getD 0 (v.kernelOf (s.slot site slot).kern).marks k =
          if lo ≤ k ∧ k < hi then mark else getD 0 (u.kernelOf (s.slot site slot).kern).marks k)

/-- The handler table at work: PEND rises with each arrival that counts in its entry (R54; that it wraps at 2^16 is the model's
choice, notes/assumptions/84.md), an entry that has waited 4,096 cycles is aged
(R56), a free handler slot takes the runnable entry that R55 and R56 put first, with its oldest arrival (R57, R276), and a
handler over its budget is overrun (R59, R524).
Its steps are arrivalCounts, handlerAged, handlerSelection and handlerOverrun. -/
def Obligations.HandlerEvents : Prop :=
  ∀ (s : State) (site : Nat),
    let u := s.tile site
    (∃ t, exec (.arrivalCounts site) s = .next t ∧ s.onlyTile t site ∧ s.memSame t ∧
      (∀ n, ((t.tile site).hsteOf n).pend % 2 ^ 16 = ((u.hsteOf n).pend +
        (u.arrivals.filter fun a => decide (a.due ≤ s.cyc) && a.entry.isNone && u.entryFor a.chan == some n).length) % 2 ^ 16) ∧
      (∀ a, a ∈ (t.tile site).arrivals → a.due ≤ s.cyc → (u.entryFor a.chan).isSome = true → a.entry.isSome = true) ∧
      ∀ a i, a ∈ u.arrivals → a.due ≤ s.cyc + 2 → a.slot = some i → (u.basket a.basket).stateOf i = .filling →
        ((t.tile site).basket a.basket).stateOf i = .ready) ∧
    (∀ n, 0 < (u.hsteOf n).pend → (u.hsteOf n).running = false → 4096 ≤ (u.hsteOf n).age →
      ∃ t, exec (.handlerAged site n) s = .next t ∧ s.onlyTile t site ∧ s.memSame t ∧ ((t.tile site).hsteOf n).aged = true) ∧
    (∀ slot, let x := s.slot site slot
      let rank (n : Nat) : Nat := if (u.hsteOf n).aged then 8 else hentPrio (u.hentOf n)
      x.state = .run → x.hslot = true → x.hnd = none → u.writesOpen s.cyc slot = false →
      s.selectionMasked (u.kernelOf x.kern) = false → u.candidates (u.kernelOf x.kern).owner ≠ [] →
      (∀ n, n ∈ u.candidates (u.kernelOf x.kern).owner →
        u.arrivals.any (·.entry == some n) = true) →
      ∃ t n a, exec (.handlerSelection site slot) s = .next t ∧ s.onlyTile t site ∧ s.memSame t ∧
        n ∈ u.candidates (u.kernelOf x.kern).owner ∧
        (∀ m, m ∈ u.candidates (u.kernelOf x.kern).owner →
          rank m < rank n ∨ (rank m = rank n ∧ hentChan (u.hentOf n) ≤ hentChan (u.hentOf m))) ∧
        u.arrivals.find? (·.entry == some n) = some a ∧
        t.slot site slot = { x with pc := hentPc (u.hentOf n), lastTr := none,
                                    hnd := some ⟨n, hentChan (u.hentOf n), hentLatch (u.hentOf n), true, 0⟩ } ∧
        getD [] (t.tile site).latches (hentLatch (u.hentOf n)) =
          arrivalWord a.kind a.chan a.basket (a.slot.getD 0xFFFF) a.len :: a.words ∧
        (t.tile site).hsteOf n = ⟨(u.hsteOf n).age, (u.hsteOf n).pend - 1, false, true⟩ ∧
        ∀ i, a.slot = some i → ((t.tile site).basket a.basket).stateOf i = .held) ∧
    ∀ slot, ({ s with curSite := site, curSlot := slot } : State).overLimit = true →
      let v : State := { s with curSite := site, curSlot := slot }
      exec (.handlerOverrun site slot) s = .next (v.takeFault (v.faultRec
        (v.trace (loadNat v.here.sram (v.kern.sbase + 8 * v.me.pc) 8) none) ⟨14, 0, 0, 0⟩ false) v.me.pc)

/-- Faults that a slot takes at its position: a recorded fault under the wait that covers it, whose share of its tag is
withdrawn (R458, R459), a deferred fault of poison that is due (R460), and the end of the allocation (R477). That a deferred trap
saves the program counter as it stands in TEPC, in a slot that is held, asleep or backed too, is the model's reading
(notes/assumptions/14.md).
Its steps are faultDelivery, deferredTrap and sequentialPcFault. -/
def Obligations.FaultEvents : Prop :=
  ∀ (s : State) (site slot : Nat),
    let x := s.slot site slot
    (∀ f, (s.tile site).coveredFault slot = some f → f.tr.site = site →
      x.takes s.cyc ((s.tile site).kernelOf x.kern).sram f.cls = true →
      ∃ t, exec (.faultDelivery site slot) s = .next t ∧ (t.slot site slot).state = .run ∧ (t.slot site slot).wake = none ∧
        (t.slot site slot).pc = fld (x.sysReg s.cyc 0x30) 0 18 ∧ (t.slot site slot).tepc = BitVec.ofNat 64 ((x.pc - 1) % 2 ^ 18) ∧
        fld (t.slot site slot).tcause 0 8 = f.cls % 256 ∧ (t.slot site slot).tval = f.value ∧
        (t.slot site f.tr.slot).faults = (s.slot site f.tr.slot).faults.erase f ∧ (t.tile site).tags = (s.tile site).tags ∧
        ∀ k, f.tr.tag = some k → getD 0 (t.tile site).tagCount k = getD 0 (s.tile site).tagCount k - 1) ∧
    (∀ d, x.deferredDue s.cyc = some d → d.2.tr.site = site → d.2.tr.slot = slot →
      x.takes s.cyc ((s.tile site).kernelOf x.kern).sram d.2.cls = true →
      ∃ t, exec (.deferredTrap site slot) s = .next t ∧
        (t.slot site slot).state = (if x.state = .stopped then .stopped else .run) ∧ (t.slot site slot).wake = none ∧
        (x.state = .stopped → (t.slot site slot).resume = .run) ∧
        (t.slot site slot).hold = 0 ∧ (t.slot site slot).deferred = x.deferred.erase d ∧
        (t.slot site slot).pc = fld (x.sysReg s.cyc 0x30) 0 18 ∧ (t.slot site slot).tepc = BitVec.ofNat 64 (x.pc % 2 ^ 18) ∧
        (t.slot site slot).tval = d.2.value ∧ fld (t.slot site slot).tcause 0 8 = d.2.cls % 256) ∧
    (let v : State := { s with curSite := site, curSlot := slot }
     x.state = .run → v.kern.sram / 8 ≤ x.pc → v.overLimit = false →
      exec (.sequentialPcFault site slot) s = .next (match x.lastTr with
        | some tr => v.takeFault (v.faultRec tr ⟨6, 2, 0, 0⟩ false) x.pc
        | none => v.takeFault (v.faultRec (v.trace 0 none) ⟨6, 4, 0, 0⟩ false) x.pc))

/-! ### Tokens between tiles -/

/-- The network command queue and the claims of its sends: a TSEND reads its header and makes its claim, or fails with the code of
a bad image (R281, R345); a claim waits at its basket, or is refused at a gateway on its way, where no entry binds its channel or
where no slot is as large (R506); the first claim takes the slot that is free, and the oldest token the reserved one (R345, R346).
A granted send forms its image and sends it, and one whose claim is refused fails with the code of the refusal (R281, R506).
A hop of a pod ring goes by the circuit bound for it, and what answers goes back along it (R407).
A token image arrives in the slot granted to its send, word 0 naming its basket and slot, as an arrival of its channel, and is
acknowledged; one that a gateway rejects is not delivered (R277, R281, R420, R505).
Its steps are networkCommandExecute, claimRequest, claimGrant and tokenSendPerform. -/
def Obligations.TokenSends : Prop :=
  (∀ (s : State) (site a off limit : Nat) (e : QEntry) (g : Guard) (x y : SReg) (q : QTag),
    s.netHead site = some e → e.i = .tsend g x y q → s.imageAt site e = (a, off, limit) → 64 ≤ limit →
    anyPoison 3 (s.tile site).sramPoison a 24 = false →
    let w (j : Nat) : W64 := BitVec.ofNat 64 (loadNat (s.tile site).sram (a + 8 * j) 8)
    let dst := s.sendDest site e e.b
    (imageBad (w 0) limit = false → fld (w 2) 63 1 = 1 → s.sendReach site e e.b dst = true →
      (coordPkg dst = s.pkg ∨ s.gatePkg e.tr.owner = none) →
      ∃ t, exec (.networkCommandExecute site) s = .next t ∧ s.memSame t ∧ (t.tile site).netQ = (s.tile site).netQ.drop 1 ∧
        (t.tile site).sends = (s.tile site).sends ++
          [{ id := (s.tile site).nextId, e := e, dst := dst, chan := fld e.b 0 8, len := fld (w 0) 0 32, branch := none, born := false,
             since := s.cyc }] ∧
        s.postedOn t (s.hopCircuit e e.b dst) (coordPkg dst) (.claim
          { src := s.coord site, id := (s.tile site).nextId, dst := dst, chan := fld e.b 0 8, len := fld (w 0) 0 32,
            tokid := fld (w 1) 16 48, born := true, l := e.tr.l, asp := e.tr.asp, owner := e.tr.owner })) ∧
    (imageBad (w 0) limit = true → e.tr.site = site → (s.slot site e.tr.slot).keeps = true →
      ∃ t, exec (.networkCommandExecute site) s = .next t ∧ s.memSame t ∧ (t.tile site).netQ = (s.tile site).netQ.drop 1 ∧
        s.recorded t e.tr 7 0x12 (w 0) ∧ s.tagsSame t site)) ∧
  (∀ (s u : State) (n k : Nat) (via : Option Nat) (c : Claim), s.taken n = some (⟨k, via, .claim c⟩, u) →
    coordPkg c.dst = s.pkg → u.windowBad c.dst 0 = false →
    let d := u.tile (coordSite c.dst)
    let turned (code : Nat) : Prop := ∃ t, exec (.claimRequest n) s = .next t ∧ u.memSame t ∧ (∀ j, t.tile j = u.tile j) ∧
      t.mg.errGW = (u.mg.errGW + 1) % 2 ^ 16 ∧
      u.postedOn t (u.circuitOf via) (coordPkg c.src) (.grant c.src c.dst c.id none code)
    (u.refusal via c.src c.owner (.tile c.dst 0) = none →
      (∀ e, d.entryFor c.chan = some e →
        let b := d.basket (hentBasket (d.hentOf e))
        (b.valid = false ∨ c.len ≤ b.bytes → ∃ t, exec (.claimRequest n) s = .next t ∧ u.onlyTile t (coordSite c.dst) ∧
          t.tile (coordSite c.dst) = { d with claims := d.claims ++ [{ c with circ := u.circuitOf via }] }) ∧
        (b.valid = true → b.bytes < c.len → turned 0x0E)) ∧
      (d.entryFor c.chan = none → turned 9)) ∧
    ∀ code, u.refusal via c.src c.owner (.tile c.dst 0) = some code → turned code) ∧
  (∀ (s : State) (site k : Nat),
    let u := s.tile site
    (∀ c, c ∈ u.claims → coordPkg c.src = s.pkg → (s.tile (coordSite c.src)).sends.any (·.id == c.id) = true) →
    (∀ c, c ∈ u.claimsAt k → c.len ≤ (u.basket k).bytes) →
    (∀ c i, (u.claimsAt k).head? = some c → (u.basket k).pick false = some i →
      ∃ t, exec (.claimGrant site k) s = .next t ∧ s.memSame t ∧ (∀ n, n ≠ site → t.tile n = s.tile n) ∧
        t.tile site = { u with claims := u.claims.erase c, grants := u.grants ++ [(k, i, c.src, c.id)],
                               baskets := (t.tile site).baskets } ∧
        ((t.tile site).basket k).stateOf i = .filling ∧ (∀ j, j ≠ k → (t.tile site).basket j = u.basket j) ∧
        s.postedOn t c.circ (coordPkg c.src) (.grant c.src c.dst c.id (some (k, i)) 0)) ∧
    (∀ c, (u.basket k).pick false = none → (u.basket k).pick true = some (u.basket k).nm1 →
      (u.claimsAt k).find? (fun c => c.born && (u.oldest.find? (·.1 == c.l)).any (·.2 == c.tokid)) = some c →
      ∃ t, exec (.claimGrant site k) s = .next t ∧ s.memSame t ∧ (t.tile site).claims = u.claims.erase c ∧
        (t.tile site).grants = u.grants ++ [(k, (u.basket k).nm1, c.src, c.id)] ∧
        ((t.tile site).basket k).stateOf (u.basket k).nm1 = .filling ∧
        s.postedOn t c.circ (coordPkg c.src) (.grant c.src c.dst c.id (some (k, (u.basket k).nm1)) 0))) ∧
  (∀ (s u : State) (n j dst src id code : Nat) (via : Option Nat) (slot : Option (Nat × Nat)) (x : Send),
    s.taken n = some (⟨j, via, .grant dst src id slot code⟩, u) → dst = s.coord (coordSite dst) →
    let site := coordSite dst
    (u.tile site).sends.find? (·.id == id) = some x →
    let a := (u.imageAt site x.e).1
    let w (j : Nat) : W64 := BitVec.ofNat 64 (loadNat (u.tile site).sram (a + 8 * j) 8)
    let image := sentImage x (w 0) (w 1) (w 2) ((u.tile site).getBytes a x.len)
    (∀ b i, slot = some (b, i) → coordPkg x.dst = s.pkg ∨ u.gatePkg x.e.tr.owner = none →
      let m : TokenMsg := { src := u.coord site, dst := x.dst, chan := x.chan, basket := b, slot := i, id := x.id,
                            asp := x.e.tr.asp, owner := x.e.tr.owner, image := image }
      ∃ t, exec (.tokenSendPerform site n) s = .next t ∧ u.memSame t ∧
        u.postedOn t (u.hopCircuit x.e x.route x.dst) (coordPkg x.dst) (.token m) ∧
        (t.tile site).tokensOut = (u.tile site).tokensOut ++ [({ x with since := s.cyc }, m)] ∧
        (∀ y, y ∈ (t.tile site).sends ↔ y ∈ (u.tile site).sends ∧ y.id ≠ x.id) ∧
        ((t.tile site).sends.any (·.e == x.e) = false → x.e.tr.site = site → u.completed t x.e.tr)) ∧
    (slot = none → x.born = false → x.e.tr.site = site → (u.slot site x.e.tr.slot).keeps = true →
      ∃ t, exec (.tokenSendPerform site n) s = .next t ∧ u.memSame t ∧ u.recorded t x.e.tr 12 code 0 ∧ u.tagsSame t site ∧
        ∀ y, y ∈ (t.tile site).sends ↔ y ∈ (u.tile site).sends ∧ y.e ≠ x.e)) ∧
  ∀ (s u : State) (n k : Nat) (via : Option Nat) (m : TokenMsg), s.taken n = some (⟨k, via, .token m⟩, u) →
    m.dst = s.coord (coordSite m.dst) →
    let d := coordSite m.dst
    let dest := (u.tile d).basketAt m.basket m.slot
    (u.refusal via m.src m.owner (.tile m.dst 0) = none →
      (u.tile d).grants.contains (m.basket, m.slot, m.src, m.id) = true → m.basket < 16 → m.slot < 2 ^ 16 → 64 ≤ m.image.length →
      ∃ t words len, exec (.tokenSendPerform d n) s = .next t ∧
        (∀ p, (p < dest ∨ dest + m.image.length ≤ p) → byteAt (t.tile d).sram p = byteAt (u.tile d).sram p) ∧
        (∀ k, k ≠ d → t.tile k = u.tile k) ∧
        (∀ j, 8 ≤ j → j < m.image.length → byteAt (t.tile d).sram (dest + j) = (nth m.image j (0, false)).1) ∧
        (let h := BitVec.ofNat 64 (loadNat (t.tile d).sram dest 8); fld h 48 4 = m.basket ∧ fld h 32 16 = m.slot) ∧
        (t.tile d).arrivals = (u.tile d).arrivals ++ [⟨m.chan, 1, m.basket, some m.slot, len, words, s.cyc + 3, none⟩] ∧
        (t.tile d).grants = (u.tile d).grants.erase (m.basket, m.slot, m.src, m.id) ∧
        u.postedOn t (u.circuitOf via) (coordPkg m.src) (.ack m.src m.dst m.id [])) ∧
    ∀ code, u.refusal via m.src m.owner (.tile m.dst 0) = some code →
      ∃ t, exec (.tokenSendPerform d n) s = .next t ∧ u.memSame t ∧
        (u.unclaim m.dst m.src m.id).postedOn t (u.circuitOf via) (coordPkg m.src) (.ack m.src m.dst m.id [⟨0, 12, code⟩])

/-! ### Hampers -/

/-- The insertion stage: an element joins the hamper of its destination, combined with the last one that it may combine with,
or takes the lowest free hamper with AGE and THRESH of its slot, which closes at its threshold (R150 to R154); a fence closes the
hampers with elements of its slot; and AGE cycles after its first element a hamper closes (R154, R167).
Its steps are insertionStage and hamperAgeTrigger. -/
def Obligations.InsertionEvents : Prop :=
  (∀ (s : State) (site c asp : Nat) (dst : HDest) (e : Elem) (r : List (Nat × InsItem)),
    let u := s.tile site
    let e' : Elem := { e with eseq := u.eseq }
    let cfg := (u.slot e.slot).sysReg s.cyc 0x20
    u.insQ = (c, .elem asp dst e) :: r → c ≤ s.cyc → s.preempting site e.tr.kern = false →
    (∀ n, u.hamperFor dst = none → (List.range 16).find? (fun n => !u.hampers.any (·.1 == n)) = some n →
      ∃ t h, exec (.insertionStage site) s = .next t ∧ s.onlyTile t site ∧ s.memSame t ∧ (t.tile site).insQ = r ∧
        (t.tile site).hampers.find? (·.1 == n) = some (n, h) ∧ h.dst = dst ∧ h.elems = [e'] ∧ h.first = s.cyc ∧
        h.age = fld cfg 8 16 ∧ h.thresh = fld cfg 0 6 ∧ h.stopped = false ∧
        h.closed = (if fld cfg 0 6 ≤ e.positions then some s.cyc else none) ∧ (t.tile site).eseq = (u.eseq + 1) % 2 ^ 16) ∧
    (∀ n h, u.hamperFor dst = some (n, h) → u.hampers.find? (·.1 == n) = some (n, h) → h.closed = none →
      (∀ l f, h.elems = l ++ [f] → f.touches e' = true → f.takes e' = true →
        ∃ t h', exec (.insertionStage site) s = .next t ∧ s.onlyTile t site ∧ s.memSame t ∧ (t.tile site).insQ = r ∧
          (t.tile site).hampers.find? (·.1 == n) = some (n, h') ∧
          h'.elems = l ++ [{ f with data := f.sum e', merged := f.merged ++ [e.tr] }] ∧ h'.first = h.first) ∧
      ((∀ f, f ∈ h.elems → f.touches e' = false) → h.count + e.positions ≤ 32 →
        ∃ t h', exec (.insertionStage site) s = .next t ∧ s.onlyTile t site ∧ s.memSame t ∧ (t.tile site).insQ = r ∧
          (t.tile site).hampers.find? (·.1 == n) = some (n, h') ∧ h'.elems = h.elems ++ [e'] ∧ h'.first = h.first ∧
          h'.closed = (if h.thresh ≤ h.count + e.positions then some s.cyc else none)))) ∧
  (∀ (s : State) (site c slot : Nat) (r : List (Nat × InsItem)), (s.tile site).insQ = (c, .fence slot) :: r → c ≤ s.cyc →
    ∃ t, exec (.insertionStage site) s = .next t ∧ s.onlyTile t site ∧ s.memSame t ∧ (t.tile site).insQ = r ∧
      ∀ n h, (s.tile site).hampers.find? (·.1 == n) = some (n, h) → h.closed = none → h.ofSlot slot = true →
        (t.tile site).hampers.find? (·.1 == n) = some (n, { h with closed := some s.cyc }) ∧ getD 0 (t.tile site).hlast n = 4) ∧
  ∀ (s : State) (site n : Nat) (h : Hamper), (s.tile site).hampers.find? (·.1 == n) = some (n, h) → h.closed = none →
    (s.cyc < h.first + h.age → exec (.hamperAgeTrigger site n) s = .next s) ∧
    (h.first + h.age ≤ s.cyc → ∃ t, exec (.hamperAgeTrigger site n) s = .next t ∧ s.onlyTile t site ∧ s.memSame t ∧
      (t.tile site).hampers.find? (·.1 == n) = some (n, { h with closed := some s.cyc }) ∧ getD 0 (t.tile site).hlast n = 2 ∧
      getD 0 (t.tile site).hdeps n = (getD 0 (s.tile site).hdeps n + 1) % 2 ^ 32)

/-- A closed hamper leaves as one packet, which its tile holds until it is acknowledged (R157 to R159); its elements are performed
at the destination one by one in their order, the last sending the acknowledgement, or fail as one where a gateway or the window
refuses them (R149, R162, R420, R500); and the acknowledgement ends the holding, each failed element leaving a fault of its instruction
and a record (R500 to R502). That a whole packet is refused before its first element only, and its later elements are performed
whatever the gateway then says, is the model's choice (notes/assumptions/77.md).
Its steps are handOff, hamperPacketPerform and hamperAcknowledgement. -/
def Obligations.PacketEvents : Prop :=
  (∀ (s : State) (site n coord bank asp : Nat) (h : Hamper),
    let u := s.tile site
    u.egress.length < 8 → u.hampers.find? (fun x => x.2.closed.any (· < s.cyc) && !x.2.stopped) = some (n, h) →
    h.dst = .tile coord bank asp → s.windowBad coord bank = false → (s.wayTo site (.tile coord bank)).isSome = true →
    coordPkg coord = s.pkg → ∃ t p, exec (.handOff site) s = .next t ∧ s.onlyTile t site ∧ s.memSame t ∧
      p.elems = h.elems ∧ p.dst = .tile coord bank ∧ p.asp = asp ∧ p.owner = s.ownerOf asp ∧ p.src = s.coord site ∧ p.seq = none ∧
      t.tile site = { u with hampers := erase n u.hampers, nextId := u.nextId + 1, egress := u.egress ++ [(s.cyc, p)],
                             unacked := u.unacked ++ [{ id := u.nextId, since := s.cyc, pkt := p }] }) ∧
  (∀ (s u : State) (k j coord : Nat) (via : Option Nat) (p : HPacket) (e : Elem), s.taken k = some (⟨j, via, .packet p⟩, u) →
    p.dst = .tile coord 0 → coordPkg coord = s.pkg → p.seq = none → p.elems[p.done]? = some e →
    let site := coordSite coord
    let old := loadNat (s.tile site).sram e.offset (2 ^ e.size)
    ((p.done = 0 → s.packetFail via p = none) → p.bad.contains p.done = false →
      s.opFail (.sram site e.offset) e.op (2 ^ e.size) p.asp = none →
      ∃ t, exec (.hamperPacketPerform k) s = .next t ∧
        (∀ x, byteAt (t.tile site).sram x = if e.offset ≤ x ∧ x < e.offset + 2 ^ e.size
          then nth (leBytes (2 ^ e.size) (performOp e.op e.size e.data e.swap old)) (x - e.offset) 0
          else byteAt (s.tile site).sram x) ∧ (∀ n, n ≠ site → t.tile n = s.tile n) ∧
        (p.done + 1 < p.elems.length → t.outbox = s.outbox ∧
          t.wire = s.wire.map fun f => if f.n = k then { f with m := .packet { p with done := p.done + 1 } } else f) ∧
        (p.done + 1 = p.elems.length →
          (s.takeMsg k).posted t (coordPkg p.src) (.ack p.src (s.coord site) p.id p.fails))) ∧
    (∀ code, p.done = 0 → p.elems = [e] → s.packetFail via p = some (12, code) →
      ∃ t, exec (.hamperPacketPerform k) s = .next t ∧ s.memSame t ∧ (∀ n, t.tile n = s.tile n) ∧
        t.mg.errGW = (if gateCode code then (s.mg.errGW + 1) % 2 ^ 16 else s.mg.errGW) ∧
        (s.takeMsg k).posted t (coordPkg p.src) (.ack p.src (s.coord site) p.id [⟨0, 12, code⟩]))) ∧
  ∀ (s u : State) (k j : Nat) (via : Option Nat) (dst src id : Nat) (fails : List ElemFail),
    s.taken k = some (⟨j, via, .ack dst src id fails⟩, u) → coordPkg dst = s.pkg →
    let site := coordSite dst
    (∀ (x : HeldPkt) (e : Elem), (u.tile site).unacked.find? (·.id == id) = some x →
      (u.tile site).tokensOut.find? (·.1.id == id) = none → (u.tile site).flushes = [] →
      (fails = [] → ∃ t, exec (.hamperAcknowledgement k) s = .next t ∧ u.onlyTile t site ∧ u.memSame t ∧
        (∀ y, y ∈ (t.tile site).unacked ↔ y ∈ (u.tile site).unacked ∧ y.id ≠ id) ∧ (t.tile site).slots = (u.tile site).slots) ∧
      (∀ cls code, fails = [⟨0, cls, code⟩] → x.pkt.elems = [e] → e.merged = [] → e.slot = e.tr.slot → e.slot < 8 →
        e.tr.site = site → (u.slot site e.slot).keeps = true →
        ∃ t, exec (.hamperAcknowledgement k) s = .next t ∧ u.memSame t ∧
          (∀ y, y ∈ (t.tile site).unacked ↔ y ∈ (u.tile site).unacked ∧ y.id ≠ id) ∧
          u.recorded t e.tr cls code (if cls = 12 then 0 else x.pkt.hdst.address e.offset) ∧
          (t.tile site).hflWr = ((u.tile site).hflWr + 1) % 2 ^ 32)) ∧
    ∀ (x : Send) (m : TokenMsg), (u.tile site).unacked.find? (·.id == id) = none →
      (u.tile site).tokensOut.find? (·.1.id == id) = some (x, m) → x.e.tr.site = site →
      (u.slot site x.e.tr.slot).keeps = true →
      ∃ t, exec (.hamperAcknowledgement k) s = .next t ∧ u.memSame t ∧ u.tagsSame t site ∧
        (∀ y, y ∈ (t.tile site).tokensOut ↔ y ∈ (u.tile site).tokensOut ∧ y.1.id ≠ id) ∧
        (fails = [] → (t.tile site).slots = (u.tile site).slots) ∧
        ∀ f r, fails = f :: r → u.recorded t { x.e.tr with tag := none } 12 f.code 0

/-! ### Remote requests and barriers -/

/-- A remote load and a fetching atomic on the SRAM of a tile: the answer carries the old value, and the atomic leaves PERFORM of
it (R136, R142, R307); one that a gateway, or the place, refuses is answered with the failure (R420, R491). At its tile the answer
is written at its offset and the instruction completes; a failure is recorded (R307, R505).
Its steps are remoteRequestPerform and remoteRequestResponse. -/
def Obligations.RemoteRequests : Prop :=
  (∀ (s u : State) (n j coord off : Nat) (via : Option Nat) (r : Req), s.taken n = some (⟨j, via, .req r⟩, u) →
    (via.isSome = true ∨ s.reqReady r = true) → s.answerOf via r = none → r.phys = none → gaddr r.addr = .tile coord 0 off →
    u.windowBad coord 0 = false → coordPkg coord = s.pkg →
    let site := coordSite coord
    let back (t : State) (a : Answer) : Prop :=
      u.posted t (coordPkg r.src) (.resp r.src (if turnedAway a then r.src else u.coord site) r.id r.tr.asp r.tr.owner a)
    (u.spotFail via r (.tile coord 0) off = none →
      (∀ size, r.kind = .rld size → (u.tile site).shadow = [] → anyPoison 3 (u.tile site).sramPoison off (2 ^ size) = false →
        ∃ t, exec (.remoteRequestPerform n) s = .next t ∧ u.memSame t ∧
          back t (.data (BitVec.ofNat 64 (loadNat (u.tile site).sram off (2 ^ size))) false)) ∧
      (∀ op size data swap, r.kind = .ratf op size data swap → u.opFail (.sram site off) op (2 ^ size) r.tr.asp = none →
        let old := loadNat (u.tile site).sram off (2 ^ size)
        ∃ t, exec (.remoteRequestPerform n) s = .next t ∧ (∀ m, m ≠ site → t.tile m = u.tile m) ∧
          (∀ x, byteAt (t.tile site).sram x = if off ≤ x ∧ x < off + 2 ^ size
            then nth (leBytes (2 ^ size) (performOp op size data swap old)) (x - off) 0 else byteAt (u.tile site).sram x) ∧
          back t (.data (BitVec.ofNat 64 old) false))) ∧
    ∀ cls code, u.spotFail via r (.tile coord 0) off = some (cls, code) →
      ((∃ size, r.kind = .rld size) ∨ ∃ op size data swap, r.kind = .ratf op size data swap) →
      ∃ t, exec (.remoteRequestPerform n) s = .next t ∧ u.memSame t ∧ t.tiles = u.tiles ∧ back t (.fail cls code)) ∧
  ∀ (s u : State) (n j : Nat) (via : Option Nat) (dst src id asp owner : Nat) (a : Answer) (q : RReq),
    s.taken n = some (⟨j, via, .resp dst src id asp owner a⟩, u) → coordPkg dst = s.pkg →
    let site := coordSite dst
    (∀ code, u.refusal via src owner (.tile dst 0) = some code →
      ∃ t, exec (.remoteRequestResponse n) s = .next t ∧ u.memSame t ∧ t.tiles = u.tiles) ∧
    (u.refusal via src owner (.tile dst 0) = none → (u.tile site).remote.find? (·.id == id) = some q → q.id = id →
      q.req.tr.site = site →
      (∀ v size, a = .data v false → q.gen = none → q.req.kind = .rld size → ∃ t, exec (.remoteRequestResponse n) s = .next t ∧
        (∀ x, byteAt (t.tile site).sram x = if q.dst ≤ x ∧ x < q.dst + 2 ^ size
          then nth (leBytes (2 ^ size) v.toNat) (x - q.dst) 0 else byteAt (u.tile site).sram x) ∧
        (∀ y, y ∈ (t.tile site).remote ↔ y ∈ (u.tile site).remote ∧ y.id ≠ id) ∧ u.completed t q.req.tr ∧
        ∀ m, m ≠ site → t.tile m = u.tile m) ∧
      (a = .done → ∃ t, exec (.remoteRequestResponse n) s = .next t ∧ u.onlyTile t site ∧ u.memSame t ∧ u.completed t q.req.tr ∧
        ∀ y, y ∈ (t.tile site).remote ↔ y ∈ (u.tile site).remote ∧ y.id ≠ id) ∧
      ∀ cls code, a = .fail cls code → cls ≠ 10 → (u.slot site q.req.tr.slot).keeps = true →
        ∃ t, exec (.remoteRequestResponse n) s = .next t ∧ u.memSame t ∧ u.tagsSame t site ∧
          u.recorded t q.req.tr cls code (if cls = 5 ∨ cls = 11 then reqAddr q.req else if cls = 7 then q.req.addr else 0) ∧
          ∀ y, y ∈ (t.tile site).remote ↔ y ∈ (u.tile site).remote ∧ y.id ≠ id)

/-- A hardware barrier object at its home: BARI sets its count where no arrival stands; an arrival joins the generation, and the
last one completes it and answers, after itself, all that wait for it; a wait request is answered at once where GEN has moved on, and
waits else; arrivals and counts that R316 and R317 forbid fail (R316, R317, R536). A memory-backed pair, wherever it lies, is set,
counted, completed and refused the same way in its two words, and no other byte of any memory is changed (R318). At the tile that
waits, an answer that has joined a generation leaves the request waiting for it, a complete one completes it and lets a BARW wake; a waiter on a
pair reads GEN again, 256 cycles after the time before, and goes on once GEN has changed (R318, R536).
Its steps are barrierInitAtHome, barrierArrivalAtHome, remoteRequestPerform, barrierPoll, barrierWaitRequest and
remoteRequestResponse. -/
def Obligations.BarrierEvents : Prop :=
  (∀ (s u : State) (m j site n : Nat) (via : Option Nat) (r : Req), s.taken m = some (⟨j, via, .req r⟩, u) → r.mem = false →
    (via.isSome = true ∨ s.reqReady r = true) → s.objectOf r = (site, n) → u.windowBad (s.coord site) 0 = false →
    u.spotFail via r (.tile (s.coord site) 0) 0 = none →
    let b := (u.tile site).bobj n
    let resp (src id asp owner : Nat) (a : Answer) : Nat × Msg := (coordPkg src, .resp src (u.coord site) id asp owner a)
    let back (t : State) (a : Answer) : Prop := u.postedAll t [resp r.src r.id r.tr.asp r.tr.owner a]
    let others (t : State) : Prop := u.memSame t ∧ (∀ k, k ≠ site → t.tile k = u.tile k) ∧
      ∀ k, k ≠ n → (t.tile site).bobj k = (u.tile site).bobj k
    (∀ c, r.kind = .bari c → b.arrived = 0 → ∃ t, exec (.barrierInitAtHome m) s = .next t ∧ others t ∧
      (t.tile site).bobj n = ⟨true, c, 0, b.gen, some ⟨r.tr.l, r.tr.node, r.tr.wid⟩, coordSite r.src⟩ ∧ back t .done) ∧
    (∀ c, r.kind = .bari c → 0 < b.arrived → ∃ t, exec (.barrierInitAtHome m) s = .next t ∧ u.memSame t ∧
      (∀ k, t.tile k = u.tile k) ∧ back t (.fail 7 0x14)) ∧
    (r.kind = .arrive → b.valid = false → ∃ t, exec (.barrierArrivalAtHome m) s = .next t ∧ u.memSame t ∧
      (∀ k, t.tile k = u.tile k) ∧ back t (.fail 7 0x15)) ∧
    (r.kind = .arrive → b.valid = true → b.arrived + 1 ≠ b.count → ∃ t, exec (.barrierArrivalAtHome m) s = .next t ∧ others t ∧
      (t.tile site).bobj n = { b with arrived := b.arrived + 1 } ∧
      (t.tile site).bwaits = (u.tile site).bwaits ++ [⟨n, b.gen, r.src, r.id, r.tr.asp, r.tr.owner⟩] ∧
      back t (.joined (BitVec.ofNat 64 b.gen) false)) ∧
    (r.kind = .arrive → b.valid = true → b.arrived + 1 = b.count → ∃ t, exec (.barrierArrivalAtHome m) s = .next t ∧ others t ∧
      (t.tile site).bobj n = { b with arrived := 0, gen := (b.gen + 1) % 2 ^ 16 } ∧
      (t.tile site).bwaits = (u.tile site).bwaits.filter (fun w => !(w.obj == n && w.gen == b.gen)) ∧
      u.postedAll t (resp r.src r.id r.tr.asp r.tr.owner (.joined (BitVec.ofNat 64 b.gen) true) ::
        ((u.tile site).bwaits.filter fun w => w.obj == n && w.gen == b.gen).map fun w =>
          resp w.src w.id w.asp w.owner (.joined (BitVec.ofNat 64 b.gen) true))) ∧
    (∀ g, r.kind = .waitGen g → ∃ t, exec (.barrierArrivalAtHome m) s = .next t ∧ others t ∧ (t.tile site).bobj n = b ∧
      (b.gen ≠ g → (t.tile site).bwaits = (u.tile site).bwaits ∧ back t (.joined (BitVec.ofNat 64 g) true)) ∧
      (b.gen = g → (t.tile site).bwaits = (u.tile site).bwaits ++ [⟨n, g, r.src, r.id, r.tr.asp, r.tr.owner⟩] ∧
        u.postedAll t []))) ∧
  (∀ (s u v : State) (m j off : Nat) (via : Option Nat) (r : Req) (p : PDest), s.taken m = some (⟨j, via, .req r⟩, u) →
    r.mem = true → (via.isSome = true ∨ s.reqReady r = true) → s.answerOf via r = none → u.spotOf r = (.at p off, v) →
    destPackage s.pkg p = s.pkg → s.mustWait (memAt p off) (ReqKind.access r.kind).2 = false → v.spotFail via r p off = none →
    let place := memAt p off
    let fails := v.opFailWith place .add 16 (v.keysFor r.src r.tr.asp r.key)
    let old := v.valueAt place 16
    let arrived := old % 2 ^ 32
    let count := old / 2 ^ 32 % 2 ^ 32
    let gen := old / 2 ^ 64
    let back (t : State) (a : Answer) : Prop :=
      v.posted t (coordPkg r.src) (.resp r.src (v.coord ((v.destSite p).getD 0)) r.id r.tr.asp r.tr.owner a)
    let leaves (t : State) (arrived count gen : Nat) : Prop :=
      t.valueAt place 16 = arrived + 2 ^ 32 * count + 2 ^ 64 * gen ∧ v.memButAt t place 16
    (∀ k o, place ≠ .mail k o) →
    (∀ c, r.kind = .bari c → c < 2 ^ 32 → fails = none →
      (arrived = 0 → ∃ t, exec (.barrierInitAtHome m) s = .next t ∧ leaves t 0 c gen ∧ back t .done) ∧
      (0 < arrived → ∃ t, exec (.barrierInitAtHome m) s = .next t ∧ v.memSame t ∧ back t (.fail 7 0x14))) ∧
    (r.kind = .arrive → fails = none →
      (count = 0 → ∃ t, exec (.barrierArrivalAtHome m) s = .next t ∧ v.memSame t ∧ back t (.fail 7 0x15)) ∧
      (count ≠ 0 → arrived + 1 = count → ∃ t, exec (.barrierArrivalAtHome m) s = .next t ∧
        leaves t 0 count ((gen + 1) % 2 ^ 64) ∧ back t (.joined (BitVec.ofNat 64 gen) true)) ∧
      (count ≠ 0 → arrived + 1 ≠ count → ∃ t, exec (.barrierArrivalAtHome m) s = .next t ∧
        leaves t ((arrived + 1) % 2 ^ 32) count gen ∧ back t (.joined (BitVec.ofNat 64 gen) false))) ∧
    (∀ cls code, fails = some (cls, code) →
      (r.kind = .arrive → ∃ t, exec (.barrierArrivalAtHome m) s = .next t ∧ v.memSame t ∧ back t (.fail cls code)) ∧
      ∀ c, r.kind = .bari c → ∃ t, exec (.barrierInitAtHome m) s = .next t ∧ v.memSame t ∧ back t (.fail cls code)) ∧
    (r.kind = .poll → (∀ k o, place = .sram k o → (v.tile k).shadow = []) →
      ∃ t bad, exec (.remoteRequestPerform m) s = .next t ∧ v.memSame t ∧
        back t (.data (BitVec.ofNat 64 (v.valueAt place 8)) bad) ∧
        ∀ k o, place = .vault k o → anyPoison 6 v.vaultPoison (2 ^ 25 * k + o) 8 = false → bad = false)) ∧
  (∀ (s : State) (site id : Nat) (q : RReq) (g : W64), (s.tile site).remote.find? (·.id == id) = some q → q.id = id → q.gen = some g →
    (q.sent = false → q.req.mem = false → ∃ t, exec (.barrierWaitRequest site id) s = .next t ∧ s.memSame t ∧
      s.posted t s.pkg (.req { q.req with kind := .waitGen g.toNat }) ∧ ∀ n, n ≠ site → t.tile n = s.tile n) ∧
    (q.req.mem = true → q.stopped = false → s.cyc < q.since + 256 → exec (.barrierPoll site id) s = .next s) ∧
    (q.req.mem = true → q.stopped = false → q.since + 256 ≤ s.cyc → ∃ t, exec (.barrierPoll site id) s = .next t ∧ s.memSame t ∧
      s.posted t s.pkg (.req { q.req with kind := .poll }) ∧ (∀ n, n ≠ site → t.tile n = s.tile n) ∧
      (t.tile site).remote.find? (·.id == id) = some { q with since := s.cyc })) ∧
  ∀ (s u : State) (n j : Nat) (via : Option Nat) (dst src id asp owner : Nat) (a : Answer) (q : RReq),
    s.taken n = some (⟨j, via, .resp dst src id asp owner a⟩, u) → coordPkg dst = s.pkg →
    u.refusal via src owner (.tile dst 0) = none →
    let site := coordSite dst
    let x := u.slot site q.req.tr.slot
    let joins (t : State) (g : W64) (complete : Bool) : Prop :=
      (q.barw = false → t.slot site q.req.tr.slot = x) ∧
      ∀ h mm gn met, q.barw = true → x.wake = some (.bar h mm gn met) →
        t.slot site q.req.tr.slot = { x with wake := some (.bar h mm (some g) (met || complete)) }
    let gone (t : State) : Prop :=
      u.completed t q.req.tr ∧ ∀ y, y ∈ (t.tile site).remote ↔ y ∈ (u.tile site).remote ∧ y.id ≠ id
    (u.tile site).remote.find? (·.id == id) = some q → q.id = id → q.req.tr.site = site →
    (∀ g, a = .joined g false → ∃ t, exec (.remoteRequestResponse n) s = .next t ∧ u.onlyTile t site ∧ u.memSame t ∧
      u.tagsSame t site ∧ joins t g false ∧
      (t.tile site).remote.find? (·.id == id) = some { q with gen := some g, since := u.cyc, gone := none }) ∧
    (∀ g, a = .joined g true → ∃ t, exec (.remoteRequestResponse n) s = .next t ∧ u.onlyTile t site ∧ u.memSame t ∧
      joins t g true ∧ gone t) ∧
    (∀ v g, a = .data v false → q.gen = some g → ∃ t, exec (.remoteRequestResponse n) s = .next t ∧ u.onlyTile t site ∧ u.memSame t ∧
      (v = g → u.tagsSame t site ∧ (t.tile site).remote.find? (·.id == id) = some { q with gone := none }) ∧
      (v ≠ g → joins t g true ∧ gone t))

/-! ### Array, shard and engine commands at their completion -/

/-- The array performs the head entry of its queue once its busy cycles and eight more have passed (R264, R275): AZ, MMA, AWR,
ASCL, AEXP, AMASK and ANRM leave in their accumulators what the instruction gives; PLD, PLDV and ACVT write their blocks to the
plane store; ARD, AROWMAX and AROWSUM write their rows to SRAM; ACMB and ATTV write their state, their output and, ATTV, its
scores and its P scratch (R272, R274); every other element and byte stays, and the entry leaves the queue with its tag. What is
written in the plane store and by ACMB and ATTV is given without its poison. An element of an MMA whose sum fails the residue
check is poisoned too, unless every pair of its blocks has an exponent of 0xFF, and is counted (R515); no other entry but ATTV
has such a check. A vector that an entry writes and one that it also writes do not overlap here.
A shard instruction at the shard table of its address space: its destination receives the location word of the entry with its
key, or of none; SHMAP makes an entry with one reference in the first empty place of the bucket (R43, R290, R291, R351, R352).
Its steps are arrayEntryComplete and shardOperation. -/
def Obligations.QueuedUnitsPerform : Prop :=
  (∀ (s : State) (site : Nat) (e : QEntry) (rest : List QEntry), (s.tile site).arrayQ = e :: rest → e.tr.site = site →
    let c := s.arr e.tr
    let apart (x y : Nat) : Prop := x + 256 ≤ y ∨ y + 256 ≤ x
    let left (t : State) : Prop :=
      (t.tile site).arrayQ = rest ∧ s.completed t e.tr ∧ ∀ n, n ≠ site → t.tile n = s.tile n
    let codes (acc r col : Nat) : Nat := (s.accAt c acc r col).1
    let st := e.d.toNat
    c.accs.Nodup →
    (s.cyc < e.iss + busyOf e + 8 → ∀ res, exec (.arrayEntryComplete site res) s = .next s) ∧
    (e.iss + busyOf e + 8 ≤ s.cyc →
    (∀ res, (∀ g a b acc wa npl ua ub bs nb q, e.i ≠ .mma g a b acc wa npl ua ub bs nb q) →
      (∀ g d a b acc wa npl ub mk d128 q, e.i ≠ .attv g d a b acc wa npl ub mk d128 q) →
      exec (.arrayEntryComplete site res) s = exec (.arrayEntryComplete site []) s) ∧
    (accOut e s ≠ [] → (∀ acc f, (acc, f) ∈ accOut e s → acc < c.accs.length) →
      ∃ t, exec (.arrayEntryComplete site []) s = .next t ∧ s.onlyTile t site ∧ s.memSame t ∧ left t ∧
        (∀ acc f, (acc, f) ∈ accOut e s → t.accIs c acc f) ∧ s.accsBut t c ((accOut e s).map (·.1))) ∧
    (∀ g a b acc wa npl ua ub bs nb q res, e.i = .mma g a b acc wa npl ua ub bs nb q → acc.toNat < c.accs.length →
      let n := nb.toNat + 1
      let failed (r col : Nat) : Bool := res.contains (4096 * nth c.accs acc.toNat 0 + 64 * r + col) &&
        (List.range n).any fun j => (s.opA e (widthOf wa) ua (r * n + j)).e != 0xFF &&
          (s.opB e (widthOf npl) ub bs (col * n + j)).e != 0xFF
      ∃ t, exec (.arrayEntryComplete site res) s = .next t ∧ s.memSame t ∧ left t ∧
        (∀ acc f, (acc, f) ∈ accOut e s → t.accIs c acc fun r col => ((f r col).1, (f r col).2 || failed r col)) ∧
        (let hits := (res.filter fun k => k / 4096 == nth c.accs acc.toNat 0 && failed (k % 4096 / 64) (k % 64)).length
         t.mg.katResid = if hits = 0 then s.mg.katResid else min (s.mg.katResid + hits) 255)) ∧
    (∀ p w uns q l, planesOut e s = some (p, w, uns, q, l) →
      (∀ g d a b ty u npl q, e.i = .pld g d a b ty u npl q → ty.isInt = false) →
      (∀ g d a b ty u npl q, e.i = .pldv g d a b ty u npl q → e.lanes.length % 32 = 0) →
      ∃ t, exec (.arrayEntryComplete site []) s = .next t ∧ s.onlyTile t site ∧ left t ∧ s.memButTile t site ∧
        s.wrotePlanes t c p w uns q l ∧ (∀ x, byteAt (t.tile site).sram x = byteAt (s.tile site).sram x) ∧
        (t.tile site).acc = (s.tile site).acc ∧ (t.tile site).accPoison = (s.tile site).accPoison) ∧
    (∀ g a b acc q, e.i = .ard g a b acc q → 256 ≤ rowStride e.a →
      ∃ t, exec (.arrayEntryComplete site []) s = .next t ∧ left t ∧ (t.tile site).acc = (s.tile site).acc ∧
        s.wroteSram t site ((List.range (rowCount e.a)).map fun k =>
          (c.sb + e.b.toNat + k * rowStride e.a, rowBytes (codes acc.toNat (rowFirst e.a + k))))) ∧
    (∀ g a b acc q, e.i = .arowmax g a b acc q → apart e.a.toNat e.b.toNat →
      let m (r : Nat) : Nat := s.rowAt c e.a.toNat r
      ∃ t, exec (.arrayEntryComplete site []) s = .next t ∧ left t ∧ (t.tile site).acc = (s.tile site).acc ∧
        s.wroteSram t site [(c.sb + e.a.toNat, rowBytes fun r => newMax (m r) (codes acc.toNat r)),
          (c.sb + e.b.toNat, rowBytes fun r => alphaOf (m r) (newMax (m r) (codes acc.toNat r)))]) ∧
    (∀ g a b acc q, e.i = .arowsum g a b acc q →
      ∃ t, exec (.arrayEntryComplete site []) s = .next t ∧ left t ∧ (t.tile site).acc = (s.tile site).acc ∧
        s.wroteSram t site [(c.sb + e.a.toNat, rowBytes fun r =>
          newSum (s.rowAt c e.a.toNat r) (s.rowAt c e.b.toNat r) (codes acc.toNat r))]) ∧
    (∀ g d a b acc d128 q, e.i = .acmb g d a b acc d128 q → acc.toNat + (if d128 then 2 else 1) ≤ c.accs.length →
      let n := if d128 then 2 else 1
      let m1 := s.rowAt c st
      let m2 := s.rowAt c e.a.toNat
      ∃ t, exec (.arrayEntryComplete site []) s = .next t ∧ left t ∧
        s.wroteSram t site [(c.sb + st, rowBytes fun r => fmaxC .f32 (m1 r) (m2 r)),
          (c.sb + st + 256, rowBytes fun r =>
            merged (m1 r) (m2 r) (s.rowAt c (st + 256) r) (s.rowAt c (e.a.toNat + 256) r))] ∧
        (∀ k, k < n → t.accCodes c (acc.toNat + k) fun r col => merged (m1 r) (m2 r) (codes (acc.toNat + k) r col)
          (s.rowAt c (e.b.toNat + 4 * (64 * n * r + 64 * k)) col)) ∧
        s.accsBut t c ((List.range n).map (acc.toNat + ·))) ∧
    (∀ g d a b acc wa npl ub mk d128 q, e.i = .attv g d a b acc wa npl ub mk d128 q →
      let n := if d128 then 2 else 1
      acc.toNat + n < c.accs.length →
      let wA := widthOf wa
      let wB := widthOf npl
      let pAt := e.a.toNat + opSize (2 * n) wA
      let vAt (k : Nat) : Nat := e.b.toNat + 0x40 + opSize (2 * n) wB + k * opSize 2 wB
      let valid := loadNat (s.tile site).plane (c.pb + e.b.toNat + 8) 1 % 128
      let kept (r col : Nat) : Bool := decide (col < min valid 64) &&
        (!mk || (byteAt (s.tile site).sram (c.sb + st + 512 + 8 * r + col / 8)).getLsbD (col % 8))
      let score (r col : Nat) : Nat := if kept r col then
        (blockSums (phiOf wA false) (phiOf wB ub) (2 * n) (s.planeBlock c e.a.toNat wA false)
          (s.planeBlock c (e.b.toNat + 0x40) wB ub) (0, false) r col).1 % 2 ^ 32 else 0xFF800000
      let m (r : Nat) : Nat := newMax (s.rowAt c st r) (score r)
      let alpha (r : Nat) : Nat := alphaOf (s.rowAt c st r) (m r)
      let p (r col : Nat) : Nat := expOf (m r % 2 ^ 32) (score r col) % 2 ^ 32
      ∃ t, exec (.arrayEntryComplete site []) s = .next t ∧ left t ∧ s.memButTile t site ∧
        s.sramHolds t site [(c.sb + st, rowBytes m),
          (c.sb + st + 256, rowBytes fun r => newSum (s.rowAt c (st + 256) r) (alpha r) (p r))] ∧
        s.wrotePlanes t c pAt wA true 0 ((List.range 128).map fun q =>
          toPlane wA true ((List.range 32).map fun k => p (q / 2) (32 * (q % 2) + k)) false) ∧
        t.accCodes c acc.toNat p ∧
        (∀ k, k < n → t.accCodes c (acc.toNat + 1 + k) fun r col =>
          (blockSums (phiOf wA true) (phiOf wB ub) 2 (t.planeBlock c pAt wA true) (t.planeBlock c (vAt k) wB ub)
            (fmul .f32 (codes (acc.toNat + 1 + k) r col) (alpha r) % 2 ^ 32, false) r col).1) ∧
        s.accsBut t c ((List.range (n + 1)).map (acc.toNat + ·))))) ∧
  (∀ (s : State) (site : Nat) (e : QEntry) (rest : List QEntry) (base : Nat) (found free : Option Nat), (s.tile site).shardQ = e :: rest →
    e.iss < s.cyc → e.tr.site = site → s.shardAt e.tr.asp e.a e.b = some base → s.shardFind base e.a e.b = (found, free) →
    s.slicing base = false → (granules 6 base 256).any (s.lineBad e.tr.asp) = false →
    (s.slot site e.tr.slot).timely s.cyc = true →
    (s.slot site e.tr.slot).pend.all (fun p => decide (p.land ≤ s.cyc)) = true →
    let word (p : Nat) : W64 := BitVec.ofNat 64 (loadNat s.hbm (p + 16) 8)
    let done (t : State) (d : SReg) (v : W64) : Prop :=
      (t.tile site).shardQ = rest ∧ s.completed t e.tr ∧ (t.slot site e.tr.slot).regS s.cyc d.toNat = (if d = 0 then 0 else v) ∧
        ∀ n, n ≠ site → t.tile n = s.tile n
    (∀ g d a b q, e.i = .shlk g d a b q → ∃ t, exec (.shardOperation site) s = .next t ∧ s.memSame t ∧
      done t d ((found.map word).getD 0)) ∧
    (∀ g d a b new q p, e.i = .shmap g d a b new q → found = none → free = some p → ∃ t, exec (.shardOperation site) s = .next t ∧
      done t d 0 ∧ loadNat t.hbm p 8 = e.a.toNat ∧ loadNat t.hbm (p + 8) 8 = fld e.b 0 16 ∧
      (let w := BitVec.ofNat 64 (loadNat t.hbm (p + 16) 8)
       fld w 62 2 = fld e.d 62 2 ∧ fld w 45 16 = 1 ∧ fld w 0 45 = fld e.d 0 45) ∧ loadNat t.hbm (p + 24) 8 = 0 ∧
      ∀ x, (x < p ∨ p + 32 ≤ x) → byteAt t.hbm x = byteAt s.hbm x) ∧
    (∀ g d a b new q, e.i = .shmap g d a b new q → found = none → free = none → ∃ t, exec (.shardOperation site) s = .next t ∧
      s.memSame t ∧ done t d 0x2000000000000000) ∧
    (∀ g d a b cond q p, e.i = .shunmap g d a b cond q → found = some p → ∃ t, exec (.shardOperation site) s = .next t ∧
      done t d (word p) ∧ (cond = true → fld (word p) 45 16 ≠ 0 → s.memSame t) ∧
      (cond = false ∨ fld (word p) 45 16 = 0 →
        ∀ x, byteAt t.hbm x = if p ≤ x ∧ x < p + 32 then 0 else byteAt s.hbm x)) ∧
    (∀ g d a b q p, e.i = .shref g d a b false q → found = some p → ∃ t, exec (.shardOperation site) s = .next t ∧
      (∀ x, (x < p + 16 ∨ p + 24 ≤ x) → byteAt t.hbm x = byteAt s.hbm x) ∧
      fld (BitVec.ofNat 64 (loadNat t.hbm (p + 16) 8)) 45 16 = min (fld (word p) 45 16 + 1) 0xFFFF ∧
      done t d (BitVec.ofNat 64 (loadNat t.hbm (p + 16) 8))))

/-- A copy engine: a port passes its head command to a queue with room, a QFENCE with the commands it waits for (R300, R305);
CPY, CPY2, CPYL, CPYC and FILL between tile memories of the package bring their bytes to the destination and to no other place
of any memory, and complete; one of length 0 writes nothing (R301 to R304, R137); a CPYC whose descriptor breaks its limits
writes nothing and faults; a QFENCE completes once none of the commands it waits for is left (R305). Ranges that a copy reads
and ranges that it writes lie apart here, and nothing is said of the poison of the bytes.
A command of a saved node completes for its rucksack: what it writes within the allocation of the saved tile goes to the store,
everything else to its place, LATE and the count of its tag fall, and with LATE 0 the save block goes into the header (R387).
Its steps are enginePortForward, engineCommandComplete and lateCommandCompletion. -/
def Obligations.EngineCommandsPerform : Prop :=
  (∀ (s : State) (site : Nat) (c : ECmd) (rest : List ECmd), (s.tile site).engPort = c :: rest →
    let q := s.engQueue c.eng c.queue
    (16 ≤ q.length → exec (.enginePortForward site) s = .next s) ∧
    (q.length < 16 → ∃ t c', exec (.enginePortForward site) s = .next t ∧ s.memSame t ∧
      t.tile site = { s.tile site with engPort := rest } ∧ (∀ n, n ≠ site → t.tile n = s.tile n) ∧
      t.engQueue c.eng c.queue = q ++ [c'] ∧ c' = { c with op := c'.op } ∧
      ((∀ m l, c.op ≠ .qfence m l) → c'.op = c.op) ∧
      ∀ m l, c.op = .qfence m l → ∃ ids, c'.op = .qfence m ids ∧
        ∀ id, id ∈ ids ↔ ∃ k d, k < 8 ∧ bitOf m k = true ∧ k ≠ c.queue ∧ d ∈ s.engQueue c.eng k ∧ d.id = id)) ∧
  ∀ (s : State) (eng q : Nat) (c : ECmd) (rest : List ECmd), s.engQueue eng q = c :: rest → c.stopped = false → c.ran = false →
    c.failed = none → c.acks = [] → c.beats = [] → c.bad = false → c.done = 0 → c.iss + 4 ≤ s.cyc →
    s.feeders c.eng c.queue = [] →
    let wrote (t : State) (d : Mem) (b : List Byte) : Prop :=
      (∀ i v, b[i]? = some v → t.valueAt (d.plus i) 1 = v.toNat) ∧ s.memButAt t d b.length ∧ t.engQueue eng q = rest
    let clear (x : W64) (d : Mem) (n : Nat) : Prop :=
      ∀ y m, c.op = .cpy x y n → s.tilePlace c .read y n = some m → m.apartFrom n d n
    (c.late = false →
      (∀ x b d, s.bytesOut c = some (x, b) → s.tilePlace c .write x b.length = some d → clear x d b.length →
        ∃ t, exec (.engineCommandComplete eng q []) s = .next t ∧ wrote t d b ∧ s.completed t c.tr) ∧
      (∀ (runs : List Run) (legs : List (Mem × Mem × Nat)), s.runsOut c = some runs → runs.map (s.legOf c) = legs.map some →
        (∀ (i j : Nat) (d m d' m' : Mem) (n n' : Nat), legs[i]? = some (d, m, n) → legs[j]? = some (d', m', n') →
          m.apartFrom n d' n' ∧ (i ≠ j → d.apartFrom n d' n')) →
        ∃ t, exec (.engineCommandComplete eng q []) s = .next t ∧
          (∀ d m n i, (d, m, n) ∈ legs → i < n → t.valueAt (d.plus i) 1 = s.valueAt (m.plus i) 1) ∧
          s.memButRuns t (legs.map fun x => (x.1, x.2.2)) ∧ t.engQueue eng q = rest ∧ s.completed t c.tr) ∧
      (∀ x y pat, c.op = .fill x pat 0 ∨ c.op = .cpy x y 0 →
        ∃ t, exec (.engineCommandComplete eng q []) s = .next t ∧ s.memSame t ∧ t.engQueue eng q = rest ∧ s.completed t c.tr) ∧
      (∀ w, c.op = .cpyc (some w) → cpycBad w = true → (s.slot c.tr.site c.tr.slot).keeps = true →
        ∃ t, exec (.engineCommandComplete eng q []) s = .next t ∧ s.memSame t ∧ t.engQueue eng q = rest ∧
          s.recorded t c.tr 7 0x11 c.tr.opd) ∧
      (∀ m await, c.op = .qfence m await → (∀ k l d, (k, l) ∈ s.engines → d ∈ l → d.id ∉ await) →
        ∃ t, exec (.engineCommandComplete eng q []) s = .next t ∧ s.memSame t ∧ t.engQueue eng q = rest ∧ s.completed t c.tr)) ∧
    (∀ r, c.late = true → s.ruckOf c.tr = some r → s.ruckWaits c = false → 0 < r.late →
      (∀ m await, c.op = .qfence m await → (∀ k l d, (k, l) ∈ s.engines → d ∈ l → d.id ∉ await) →
        ∃ t r', exec (.lateCommandCompletion eng q []) s = .next t ∧ t.engQueue eng q = rest ∧ (∀ n, t.tile n = s.tile n) ∧
          t.ruckOf c.tr = some r' ∧ r.wentOn r' c.tr.tag ∧ (r.late ≠ 1 → s.memSame t) ∧
          (r.late = 1 → s.memButRuns t [(.hbm (r.addr + 0x38), 72), (.hbm (r.addr + 0x80), 4)] ∧
            loadNat t.hbm (r.addr + 0x38) 8 = r'.tagSave.toNat ∧ loadNat t.hbm (r.addr + 0x80) 4 = 0 ∧
            ∀ k, k < 64 → byteAt t.hbm (r.addr + 0x40 + k) = BitVec.ofNat 8 (getD 0 r'.pendSave k))) ∧
      (∀ x b d, s.bytesOut c = some (x, b) → s.tilePlace c .write x b.length = some d → clear x d b.length → 1 < r.late →
        ∃ t r', exec (.lateCommandCompletion eng q []) s = .next t ∧ t.engQueue eng q = rest ∧
          t.ruckOf c.tr = some r' ∧ r.wentOn r' c.tr.tag ∧
          (∀ coord bank off, gaddr x = .tile coord bank off →
            let base := if bank = 0 then r.kern.sbase else r.kern.pbase
            let size := if bank = 0 then r.kern.sram else r.kern.planes
            (coord ≠ s.coord r.site ∨ bank = 2 ∨ off + b.length ≤ base ∨ base + size ≤ off → wrote t d b) ∧
            (coord = s.coord r.site → bank < 2 → base ≤ off → off + b.length ≤ base + size →
              let saved (i : Nat) : Bool := if bank = 0 then r.holds ((off - base + i) / 64) else !r.compact
              let at' (i : Nat) : Nat :=
                if bank = 0 then r.granuleAt ((off - base + i) / 64) + (off - base + i) % 64 else r.addr + nth r.offs 4 0 + (off - base + i)
              (∀ i v, b[i]? = some v → saved i = true → byteAt t.hbm (at' i) = v) ∧
              s.memButRuns t (((List.range b.length).filter saved).map fun i => (.hbm (at' i), 1))))))

/-! ### What the tiles of a region bring about together -/

/-- A collective whose tiles have all contributed: a reduction gives each contributor the elements combined in the order of their
tiles, in runs of eight (R104, R323, R324, R409), a broadcast gives each the elements of its one root (R323), and no other byte is
changed; contributions that disagree fail with the operand fault of R324, and so do broadcasts of no root or of several; a broken
group fails its contributors (R509). That disagreement is judged once as many contributions stand as the first of them counts,
with the group word as VALUE, is DEDUCED (notes/assumptions/51.md, notes/assumptions/43.md).
Its steps are collectiveComplete and collectiveBroken. -/
def Obligations.CollectiveEvents : Prop :=
  ∀ (s : State) (r : RegionId) (level index n0 : Nat) (c0 : CEntry) (rest : List (Nat × CEntry)),
    let l := s.contributions r level index
    let x := s.coll r.l level (s.fieldsOf r level l) index
    let w := 2 ^ c0.size
    l = (n0, c0) :: rest → (l.map (·.1)).Nodup → (∀ n c, (n, c) ∈ l → c.tr.site = n) →
    let alike : Prop := ∀ n c, (n, c) ∈ l → c.op = c0.op ∧ c.size = c0.size ∧ c.n = c0.n ∧ c.count = c0.count
    let given (n k : Nat) (c : CEntry) : Nat := loadNat (s.tile n).sram (c.a + k * w) w
    let gives (t : State) (z : Nat → Nat) : Prop :=
      s.memButRuns t (l.map fun (n, c) => (.sram n c.d, c0.n * w)) ∧ ∀ n c, (n, c) ∈ l →
        (∀ k, k < c0.n → loadNat (t.tile n).sram (c.d + k * w) w = z k % 2 ^ (8 * w)) ∧
        (t.tile n).collQ = (s.tile n).collQ.erase c ∧ s.completed t c.tr
    let fails (t : State) (cls code : Nat) (value : CEntry → W64) : Prop :=
      s.memSame t ∧ ∀ n c, (n, c) ∈ l → s.recorded t c.tr cls code (value c) ∧
        (t.tile n).collQ = (s.tile n).collQ.erase c ∧ s.tagsSame t n
    let roots := l.filter (·.2.root)
    let kept : Prop := ∀ n c, (n, c) ∈ l → (s.slot n c.tr.slot).keeps = true
    (x.broken = false → x.result = none →
      (l.length < c0.count → exec (.collectiveComplete r level index []) s = .next s) ∧
      (l.length = c0.count →
        (alike → ∀ op, c0.op = some op → ∃ t, exec (.collectiveComplete r level index []) s = .next t ∧
          gives t fun k => reduced op c0.size 5 (l.map fun (n, c) => given n k c)) ∧
        (alike → c0.op = none → ∀ n c, roots = [(n, c)] → ∃ t, exec (.collectiveComplete r level index []) s = .next t ∧
          gives t fun k => given n k c) ∧
        (kept → ¬alike ∨ (c0.op = none ∧ roots.length ≠ 1) →
          ∃ t, exec (.collectiveComplete r level index []) s = .next t ∧ fails t 7 0x13 (·.group)))) ∧
    (kept → x.broken = true ∨ s.collBroken r level l = true →
      ∃ t, exec (.collectiveBroken r level index) s = .next t ∧ fails t 12 0x0A fun _ => 0)

/-- A monitor fires when its word meets its condition (R319, R320). PHASE completes when every main slot of every tile of the region
has arrived, no handler runs and nothing is under way, and advances the phase number (R66, R311). A configuration swap exchanges
the planes of the boxes of all its tiles at once (R288), strays are a fault (R529). The instance of a kernel completes and gives
back what it held on all its tiles (R64, R65, R140).
Its steps are monitorReread, phaseComplete, configurationSwap, strayAfterSwap and kernelCompletion. -/
def Obligations.RegionEvents : Prop :=
  (∀ (s : State) (site n : Nat) (m : Mon), (s.tile site).mons.find? (·.1 == n) = some (n, m) → m.armed = true →
    (s.slot site m.slot).wake = some (.mon n false) →
    let v := BitVec.ofNat 64 (loadNat (s.tile site).sram (8 * m.word) 8)
    let hit := match m.cond with | .ne => v != m.val | .eq => v == m.val | .geu => decide (m.val.toNat ≤ v.toNat)
    ∃ t, exec (.monitorReread site n) s = .next t ∧ s.onlyTile t site ∧ s.memSame t ∧
      (t.slot site m.slot).wake = some (.mon n hit) ∧
      ((t.tile site).mons.find? (·.1 == n)).isSome = !hit) ∧
  (∀ (s : State) (r : RegionId) (l : List (Nat × Kernel)), s.regionOn r = l → l ≠ [] → (l.map (·.1)).Nodup →
    (∀ n k, (n, k) ∈ l → (s.tile n).kernelOf k.owner = k) →
    let x (n m : Nat) : Slot := s.slot n m
    let waits (n m : Nat) : Prop := (x n m).state = .asleep ∧ (x n m).wake = some (.phase false)
    let calm : Prop := ∀ n k m j, (n, k) ∈ l → (m, j) ∈ k.slots → (x n m).hnd = none ∧ (x n m).faults = [] ∧ (x n m).deferred = []
    let others (t : State) : Prop := s.memSame t ∧ t = { s with tiles := t.tiles } ∧ ∀ n, n ∉ l.map (·.1) → t.tile n = s.tile n
    ((∀ n k m, (n, k) ∈ l → m ∈ k.mains → (x n m).state = .done ∨ waits n m) → (∃ n k m, (n, k) ∈ l ∧ m ∈ k.mains ∧ waits n m) →
      calm → s.regionQuiet r = true →
      ∃ t, exec (.phaseComplete r) s = .next t ∧ others t ∧ ∀ n k, (n, k) ∈ l →
        ((t.tile n).kernelOf k.owner).phno = (k.phno + 1) % 2 ^ 32 ∧
        (∀ m, m ∈ k.mains → waits n m → (t.slot n m).wake = some (.phase true)) ∧
        (∀ h, h ∈ (t.tile n).shadow → h ∈ (s.tile n).shadow ∧ h.kern ≠ k.owner) ∧
        ((∀ h q, h ∈ (s.tile n).shadow → q ∈ (s.tile n).shadow → h.kern ≠ k.owner → q.kern = k.owner → h.leads q = false) →
          ∀ h, h ∈ (s.tile n).shadow → h.kern ≠ k.owner → h ∈ (t.tile n).shadow)) ∧
    ((∃ n k m, (n, k) ∈ l ∧ m ∈ k.mains ∧ (x n m).state = .run) → exec (.phaseComplete r) s = .next s) ∧
    ((∀ n k, (n, k) ∈ l → let b := (s.tile n).box; b.swapWait = true ∧ b.isLocal = true ∧ b.loaded = true ∧ b.strays = []) →
      (s.regionFaulted r = false ∨ s.quiescent r = true) →
      ∃ t, exec (.configurationSwap r) s = .next t ∧ others t ∧ ∀ n k, (n, k) ∈ l →
        let b := (s.tile n).box
        (t.tile n).box.active = b.under ∧ (t.tile n).box.under = b.active ∧ (t.tile n).box.loaded = false ∧
          (t.tile n).box.swapWait = false ∧
          ∀ m, m ∈ k.mains → (x n m).wake = some (.swap false) → (t.slot n m).wake = some (.swap true)) ∧
    ((∃ n k, (n, k) ∈ l ∧ ((s.tile n).box.swapWait = false ∨ (s.tile n).box.loaded = false)) →
      exec (.configurationSwap r) s = .next s) ∧
    ((∀ n k, (n, k) ∈ l → k.started = true ∧ ∀ m, m ∈ k.mains → (x n m).state = .done) → calm → s.regionIdle r = true →
      s.nodeStopped r.l r.node = false →
      ∃ t, exec (.kernelCompletion r) s = .next t ∧ (∀ n k, (n, k) ∈ l →
          (∀ q, q ∈ (t.tile n).kernels ↔ q ∈ (s.tile n).kernels ∧ q.owner ≠ k.owner) ∧
          ∀ m j, (m, j) ∈ k.slots → t.slot n m = Slot.reset) ∧
        ∀ c, c ∈ t.sched.census → c.1 ≠ r)) ∧
  ∀ (s : State) (site input : Nat) (tr : Trace) (c : BoxCfg), (s.tile site).box.active = some c → (s.tile site).box.swapTr = some tr →
    tr.site = site → c.sel.contains input = false → (s.tile site).box.strays.contains input = true →
    (s.slot site tr.slot).keeps = true →
    ∃ t, exec (.strayAfterSwap site input) s = .next t ∧ s.memSame t ∧ s.recorded t tr 12 0x0D 0 ∧
      ∀ k, k ∈ (t.tile site).box.strays ↔ k ∈ (s.tile site).box.strays ∧ k ≠ input

/-- A configured route: CFGLD leaves the boxes of a good image their new plane and fails for a bad one (R287, R402 to R404); a
delivering box forms operand packets in basket slots of its task's channel (R399, R401), and the end of the stream arrives after
them (R286, R400). That other packages answer for the boxes of theirs, and the basket that an end-of-stream arrival names, are
DEDUCED (notes/assumptions/91.md, notes/assumptions/42.md).
Its steps are cfgldComplete, operandPacketDelivery and endOfStreamDelivery. -/
def Obligations.RouteEvents : Prop :=
  (∀ (s u v : State) (site : Nat) (e : QEntry) (g : Guard) (x y : SReg) (q : QTag) (src : List Piece) (b : List (Byte × Bool))
      (ext : List ExtRead),
    s.netHead site = some e → e.i = .cfgld g x y q → e.tr.site = site →
    s.locateAll (portEgress site) site e.tr .read (cutRange e.a e.b.toNat) = (.ok src, u) →
    u.readPieces e.tr.asp (ownSlots e.tr) ext src = .ok (b, v) → anyBad b = false →
    (∀ l far, v.boxesOf e.tr b = some (l, far) → farBoxes ext far = some true →
      ∃ t, exec (.cfgldComplete site ext) s = .next t ∧ v.completed t e.tr ∧
        (t.tile site).netQ = (v.tile site).netQ.drop 1 ∧
        (∀ n c, (n, c) ∈ l → (t.tile n).box = { (v.tile n).box with under := some c, loaded := true }) ∧
        ∀ n, (∀ c, (n, c) ∉ l) → (t.tile n).box = (v.tile n).box) ∧
    (v.boxesOf e.tr b = none ∨ (∃ l far, v.boxesOf e.tr b = some (l, far) ∧ farBoxes ext far = some false) →
      (v.slot site e.tr.slot).keeps = true → ∃ t, exec (.cfgldComplete site ext) s = .next t ∧ v.recorded t e.tr 7 0x10 e.a ∧
        (t.tile site).netQ = (v.tile site).netQ.drop 1 ∧ ∀ n, (t.tile n).box = (v.tile n).box)) ∧
  ∀ (s : State) (site len route task e : Nat) (c : BoxCfg),
    let u := s.tile site
    u.box.active = some c → c.deliver = some (len, route, task) → u.entryFor task = some e →
    let k := hentBasket (u.hentOf e)
    (∀ i, 64 * len ≤ u.box.inbuf.length → 64 * len ≤ (u.basket k).bytes → (u.basket k).pick false = some i →
      ∃ t words, exec (.operandPacketDelivery site route) s = .next t ∧
        (∀ p, byteAt (t.tile site).sram p = if u.basketAt k i ≤ p ∧ p < u.basketAt k i + 64 * len
          then (nth u.box.inbuf (p - u.basketAt k i) (0, false)).1 else byteAt u.sram p) ∧
        (t.tile site).box.inbuf = u.box.inbuf.drop (64 * len) ∧ ((t.tile site).basket k).stateOf i = .filling ∧
        (t.tile site).arrivals = u.arrivals ++ [⟨task, 2, k, some i, 64 * len, words, s.cyc + 3, none⟩] ∧
        ∀ n, n ≠ site → t.tile n = s.tile n) ∧
    (∀ drop, u.box.eos = some drop → u.box.inbuf = [] → 0 < len → route < 16 → ∃ t words, exec (.endOfStreamDelivery site route) s = .next t ∧
      s.memSame t ∧ (t.tile site).box.eos = none ∧ nth words 1 0 = BitVec.ofNat 64 u.box.payload ∧
      fld (nth words 0 0) 4 1 = bitNat drop ∧
      (t.tile site).arrivals = u.arrivals ++ [⟨task, 3, k, none, 0, words, s.cyc + 3, none⟩] ∧ ∀ n, n ≠ site → t.tile n = s.tile n)

/-! ### The fabric, translation records and bring-up -/

/-- What comes over the fabric by a lane group that passes traffic: what is bound for another package is forwarded where there is a
way, and lost where there is none, and a gateway admits it (R408, R420, R505), a hamper packet that its source's window has not seen is
delivered once, before later ones of its tile and destination of which nothing is performed, and one that was seen is acknowledged
again with the same failures (R162, R163), the other messages join those of the package, and a share of a collective is kept for its
level (R407). A write of an engine of another package is performed and acknowledged unless a gateway refuses it, and a refusal goes
back along the circuit that brought it (R137, R407, R420). What is held for a package leaves once more when there is a way to it
again (R505). The place of a packet among those of its tile and destination, and that the gateway of a package also judges what
it only forwards, are DEDUCED (notes/assumptions/89.md, notes/assumptions/93.md).
Its steps are fabricPacketArrival and heldPacketResend. -/
def Obligations.FabricArrivals : Prop :=
  (∀ (s : State) (lane : Nat),
    (s.laneUp lane = false → ∀ m, exec (.fabricPacketArrival ⟨lane, m⟩) s = .next s) ∧
    (s.laneUp lane = true →
      (∀ m, msgPkg m ≠ s.pkg → s.gateIn lane m = none → s.wayOut (msgPkg m) = true →
        exec (.fabricPacketArrival ⟨lane, m⟩) s = .next { s with outbox := s.outbox ++ [.msg (msgPkg m) m] }) ∧
      (∀ m, msgPkg m ≠ s.pkg → s.gateIn lane m = none → s.wayOut (msgPkg m) = false →
        exec (.fabricPacketArrival ⟨lane, m⟩) s = .next s) ∧
      (∀ c code, msgPkg (.claim c) ≠ s.pkg → s.gateIn lane (.claim c) = some code →
        ∃ t, exec (.fabricPacketArrival ⟨lane, (.claim c)⟩) s = .next t ∧ s.memSame t ∧ t.tiles = s.tiles ∧
          t.mg.errGW = (s.mg.errGW + 1) % 2 ^ 16 ∧
          s.postedOn t (s.circuitOf (some lane)) (coordPkg c.src) (.grant c.src c.dst c.id none code)) ∧
      (∀ p q, msgPkg (.packet p) = s.pkg → p.seq = some q →
        let src := coordPkg p.src
        let base := getD 0 s.winBase src
        let seen := getD [] s.winSeen src
        q < 2 ^ 32 → base < 2 ^ 32 →
        (seqBefore q base = false → seen.contains q = false →
          ∃ t l1 l2, exec (.fabricPacketArrival ⟨lane, (.packet p)⟩) s = .next t ∧ s.wire = l1 ++ l2 ∧
            t.wire = l1 ++ ⟨s.nextMsg, some lane, .packet { p with done := 0, fails := [] }⟩ :: l2 ∧
            (∀ f r n, f ∈ l1 → f.m = .packet r → r.seq = some n → r.src = p.src → r.hdst = p.hdst → r.done = 0 →
              seqBefore q n = false) ∧
            (getD [] t.winSeen src).contains q = true ∧
            t = { s with wire := t.wire, nextMsg := s.nextMsg + 1, winSeen := t.winSeen, winBase := t.winBase }) ∧
        (seqBefore q base = true ∨ seen.contains q = true →
          (s.flying src q = true → exec (.fabricPacketArrival ⟨lane, (.packet p)⟩) s = .next s) ∧
          (s.flying src q = false → ∃ t fails from', exec (.fabricPacketArrival ⟨lane, (.packet p)⟩) s = .next t ∧ s.memSame t ∧
            t.tiles = s.tiles ∧ fails = ((getD [] s.winFails src).find? (·.1 == q)).elim [] (·.2) ∧
            s.posted t src (.ack p.src from' p.id fails)))) ∧
      (∀ m, msgPkg m = s.pkg → ((∃ t, m = .token t) ∨ (∃ c, m = .claim c) ∨ (∃ r, m = .req r) ∨ (∃ w, m = .write w) ∨
          (∃ d f i x c, m = .grant d f i x c) ∨ (∃ d f i l, m = .ack d f i l) ∨ (∃ d f i a o x, m = .resp d f i a o x) ∨
          ∃ d i f, m = .wrote d i f) →
        exec (.fabricPacketArrival ⟨lane, m⟩) s = .next
          { s with wire := s.wire ++ [⟨s.nextMsg, some lane, m⟩], nextMsg := s.nextMsg + 1 }) ∧
      ∀ p : Partial, p.dst = s.pkg →
        (s.gateIn lane (.part p) = none → ∃ t, exec (.fabricPacketArrival ⟨lane, (.part p)⟩) s = .next t ∧ t.tiles = s.tiles ∧
          s.memSame t ∧ (p.down = true → (t.coll p.l p.level p.fields p.index).result = some p) ∧
          (p.down = false → p ∈ (t.coll p.l p.level p.fields p.index).parts)) ∧
        ((s.gateIn lane (.part p)).isSome = true → exec (.fabricPacketArrival ⟨lane, (.part p)⟩) s = .next
          { s with mg := { s.mg with errGW := (s.mg.errGW + 1) % 2 ^ 16 } }))) ∧
  (∀ (s u : State) (n j coord : Nat) (via : Option Nat) (w : EWrite), s.taken n = some (⟨j, via, .write w⟩, u) →
    w.dst = .tile coord 0 → coordPkg coord = s.pkg → s.windowBad coord 0 = false →
    (u.refusal via w.src w.owner w.dst = none → ∃ t, exec (.remoteRequestPerform n) s = .next t ∧
      (∀ k, k ≠ coordSite coord → t.tile k = u.tile k) ∧ u.posted t (coordPkg w.src) (.wrote w.src w.id none) ∧
      u.wroteSram t (coordSite coord) [(w.off, w.data.map (·.1))]) ∧
    ∀ code, u.refusal via w.src w.owner w.dst = some code → ∃ t, exec (.remoteRequestPerform n) s = .next t ∧ u.memSame t ∧
      t.tiles = u.tiles ∧ u.postedOn t (u.circuitOf via) (coordPkg w.src) (.wrote w.src w.id (some (12, code, 0)))) ∧
  ∀ (s : State) (pkg : Nat), ((pkg = s.pkg ∨ s.poolGroup pkg = none) → exec (.heldPacketResend pkg) s = .next s) ∧
    (pkg ≠ s.pkg → (s.poolGroup pkg).isSome = true →
      ∃ l, exec (.heldPacketResend pkg) s = .next { s with outbox := s.outbox ++ l } ∧
        (∀ n c u, (n, c) ∈ s.tiles → u ∈ c.unacked → destPackage s.pkg u.pkt.dst = pkg → c.egress.any (·.2.id == u.id) = false →
          .msg pkg (.packet u.pkt) ∈ l) ∧
        (∀ n c x m, (n, c) ∈ s.tiles → (x, m) ∈ c.tokensOut → coordPkg m.dst = pkg → .msg pkg (.token m) ∈ l) ∧
        (∀ n c q r, (n, c) ∈ s.tiles → q ∈ c.remote → q.gone = some r → q.stopped = false →
          destPackage s.pkg (s.reqDest r) = pkg → .msg pkg (.req r) ∈ l) ∧
        ∀ o, o ∈ l → ∃ n c m, (n, c) ∈ s.tiles ∧ o = .msg pkg m ∧ m ∈ s.heldFor pkg c)

/-- Work that is not acknowledged in time is indeterminate: class 12 code 8 (R505, R513). A translation record that is answered has
its V cleared; its generator makes its access again, or its work fails with class 10 (R494, R495). The dirty lines of a bypassed
slice that could not be read are poisoned (R128).
Its steps are indeterminateDeclaration, xfcmdRetry, xfcmdDecline and bypassedSliceEmptied. -/
def Obligations.FailedWork : Prop :=
  ∀ (s : State) (site id n : Nat),
    let u := s.tile site
    (s.answerDue site id = true ∨ (s.expired u).contains id = false → exec (.indeterminateDeclaration site id) s = .next s) ∧
    (∀ x e, s.answerDue site id = false → u.unacked.find? (·.id == id) = some x →
      x.since + s.timeout (destPackage s.pkg x.pkt.dst) ≤ s.cyc → x.pkt.elems = [e] → e.merged = [] → e.slot = e.tr.slot →
      e.slot < 8 → e.tr.site = site → (s.slot site e.slot).keeps = true → u.flushes = [] →
      ∃ t, exec (.indeterminateDeclaration site id) s = .next t ∧ s.memSame t ∧ s.recorded t e.tr 12 8 0 ∧
        ∀ y, y ∈ (t.tile site).unacked ↔ y ∈ u.unacked ∧ y.id ≠ id) ∧
    (∀ q, s.answerDue site id = false → u.unacked.find? (·.id == id) = none → u.remote.find? (·.id == id) = some q → q.id = id →
      q.gen = none → q.stopped = false → q.since + s.timeout (s.reqPkg q) ≤ s.cyc → q.req.tr.site = site →
      (s.slot site q.req.tr.slot).keeps = true →
      ∃ t, exec (.indeterminateDeclaration site id) s = .next t ∧ s.memSame t ∧ s.recorded t q.req.tr 12 8 0 ∧ s.tagsSame t site ∧
        ∀ y, y ∈ (t.tile site).remote ↔ y ∈ u.remote ∧ y.id ≠ id) ∧
    (∀ x m, s.answerDue site id = false → u.unacked.find? (·.id == id) = none → u.remote.find? (·.id == id) = none →
      u.tokensOut.find? (·.1.id == id) = some (x, m) → x.since + s.timeout (coordPkg m.dst) ≤ s.cyc → x.e.tr.site = site →
      (s.slot site x.e.tr.slot).keeps = true →
      ∃ t, exec (.indeterminateDeclaration site id) s = .next t ∧ s.memSame t ∧ s.recorded t { x.e.tr with tag := none } 12 8 0 ∧
        ∀ y, y ∈ (t.tile site).tokensOut ↔ y ∈ u.tokensOut ∧ y.1.id ≠ id) ∧
    ((∀ r, s.mg.xfrec.find? (·.1 == n) = some (n, r) → r.valid = false) →
      exec (.xfcmdRetry n) s = .next s ∧ exec (.xfcmdDecline n) s = .next s) ∧
    (∀ r, s.mg.xfrec.find? (·.1 == n) = some (n, r) → r.valid = true → s.mg.xfWait = [] →
      let answered (t : State) : Prop := t.mg = { s.mg with xfrec := t.mg.xfrec } ∧
        t.mg.xfrec = s.mg.xfrec.map fun (k, x) => (k, if k = n
          then { x with words := word64 [(0, fld (nth x.words 0 0) 0 63)] :: x.words.drop 1 } else x)
      (∀ h x, r.gen = .hamper site h → u.hampers.find? (·.1 == h) = some (h, x) →
        ∃ t, exec (.xfcmdRetry n) s = .next t ∧ s.memSame t ∧ answered t ∧
          (t.tile site).hampers.find? (·.1 == h) = some (h, { x with stopped := false })) ∧
      (∀ e q c rest, r.gen = .eng e q → s.engQueue e q = c :: rest →
        (∃ t, exec (.xfcmdRetry n) s = .next t ∧ t.tiles = s.tiles ∧ answered t ∧
          t.engQueue e q = { c with stopped := false } :: rest) ∧
        (c.late = false → (s.slot c.tr.site c.tr.slot).keeps = true →
          ∃ t, exec (.xfcmdDecline n) s = .next t ∧ s.memSame t ∧ t.engQueue e q = rest ∧ answered t ∧ s.tagsSame t c.tr.site ∧
            s.recorded t c.tr 10 (fld (nth r.words 0 0) 32 8) (nth r.words 2 0))) ∧
      (∀ q, r.gen = .req site id → u.remote.find? (·.id == id) = some q → q.id = id → q.req.tr.site = site →
        (∃ t, exec (.xfcmdRetry n) s = .next t ∧ s.memSame t ∧ answered t ∧
          (t.tile site).remote.find? (·.id == id) = some { q with stopped := false, since := s.cyc } ∧
          (q.gen = none → s.posted t s.pkg (.req q.req))) ∧
        ((s.slot site q.req.tr.slot).keeps = true →
          ∃ t, exec (.xfcmdDecline n) s = .next t ∧ s.memSame t ∧ answered t ∧
            s.recorded t q.req.tr 10 (fld (nth r.words 0 0) 32 8) (reqAddr q.req) ∧
            ∀ y, y ∈ (t.tile site).remote ↔ y ∈ u.remote ∧ y.id ≠ id)) ∧
      (r.gen = .net site → ∃ t, exec (.xfcmdRetry n) s = .next t ∧ s.onlyTile { t with mg := s.mg } site ∧ answered t ∧
        t.tile site = { u with netStopped := false })) ∧
    ∀ lost, (s.mg.emptying.contains site = false → exec (.bypassedSliceEmptied site lost) s = .next s) ∧
      (s.mg.emptying.contains site = true → s.mg.rtsvc.contains site = true →
        ∃ t, exec (.bypassedSliceEmptied site lost) s = .next t ∧ t.tiles = s.tiles ∧ s.memSame t ∧
          t.mg.emptying = delSet site s.mg.emptying ∧
          ∀ line, line ∈ t.hbmPoison ↔ line ∈ s.hbmPoison ∨
            (line ∈ lost ∧ inSet line s.hbmDirty = true ∧ (nth s.mg.slices (s.homeSlice (64 * line)) (0, 0)).1 = site))

/-- Package reset: the registers take their reset values, the fuses, the flash and the hosts' memories stay, and bring-up begins at
stage 0 (R71, R426): packageReset. It passes its stages in order, the self-test in no more than 2^26 cycles (R427), and at the end
of stage 4 the image in flash decides whether firmware starts or recovery is entered (R428). Firmware makes the device ready:
firmwareReady. In recovery a write to MCDOOR begins the check of an image, one during the check is ignored, and its end starts
firmware or sets ERR (R429): recoveryImage.
The commands of the management controller (R430 to R434): BUSY reads 1 from the write to MCDOOR until the reply stands. attest leaves
the report in MCBOX, with a session where the host sends a key; extend extends a measurement; keyload and markkey write the keys
unwrapped under the session key, and a refusal sets ERR and ends the session. Before the device is ready every one of them is
refused. How long a stage of bring-up takes is the model's (notes/assumptions/27.md, DESIGN CHOICE); that EXTEND of a measurement
outside 1 to 7 and a KEYLOAD of a partition in use are refused with ERR (notes/assumptions/28.md), and that a command sees MCBOX as
it stood at its write to MCDOOR, a second one being ignored (notes/assumptions/102.md), are DEDUCED. -/
def Obligations.BringUp : Prop :=
  (∀ (s : State) (tests : List (Nat × TestResult)),
    (∃ t, exec (.packageReset tests) s = .next t ∧ t.cyc = 0 ∧ t.host0 = s.host0 ∧ t.host1 = s.host1 ∧ t.outbox = s.outbox ∧
      t.sched = { Sched.reset with mem := t.sched.mem } ∧ t.mg.flash = s.mg.flash ∧ t.mg.tileEn = s.mg.tileEn ∧ t.mg.routeEn = s.mg.routeEn ∧
      t.mg.step = s.mg.step ∧ t.mg.fmax = s.mg.fmax ∧ t.mg.svc = s.mg.tileEn ∧ t.mg.ready = false ∧ t.mg.tripped = false ∧
      t.mg.pwrCeil = s.mg.fmax ∧ t.mg.failTiles = 0 ∧ t.mg.session = none ∧ t.mg.keys = [] ∧
      (∀ n, (t.tile n).wheel = 0xFFFFFFFFFFFFFFFF ∧ (t.tile n).palette = 0x1FFFFFFFFFFF ∧
        (t.tile n).tags = 0xFFFFFFFFFFFFFFFF ∧ (t.tile n).kernels = [] ∧ ∀ k, t.slot n k = Slot.reset) ∧
      t.mg.stage = 0 ∧ t.mg.boot = some tests) ∧
    (s.mg.boot = some tests →
      let u := { s with free := s.free + 1 }
      (s.bringUp = u ∨ s.bringUp = u.nextStage tests) ∧
      (s.mg.stage = 2 → s.mg.stageAt + 2 ^ 26 ≤ s.cyc + 1 → s.bringUp = u.nextStage tests)) ∧
    (s.mg.boot = none → s.bringUp = s) ∧
    (s.mg.stage < 4 → (s.nextStage tests).mg.stage = s.mg.stage + 1) ∧
    (s.mg.stage = 4 → (s.nextStage tests).mg.boot = none ∧
      (s.acceptsImage s.mg.flash = true → (s.nextStage tests).mg.stage = 6 ∧ (s.nextStage tests).mg.recov = s.mg.recov ∧
        (s.nextStage tests).mg.mcStart = some 256) ∧
      (s.acceptsImage s.mg.flash = false → (s.nextStage tests).mg.stage = 5 ∧ (s.nextStage tests).mg.recov = true)) ∧
    (s.mg.stage = 6 → exec .firmwareReady s = .next { s with mg := { s.mg with stage := 7, ready := true } }) ∧
    (s.mg.stage ≠ 6 → exec .firmwareReady s = .next s) ∧
    (∀ w, s.mg.stage = 5 → s.mg.mcCmd = none → exec (.recoveryImage (some w)) s = .next (s.takeDoor w) ∧
      exec (.recoveryImage none) s = .next s) ∧
    (∀ w x, s.mg.stage = 5 → s.mg.mcCmd = some x → exec (.recoveryImage (some w)) s = .next s) ∧
    (∀ w box, s.mg.stage = 5 → s.mg.mcCmd = some (w, box) → s.mg.mcWrote = [] →
      let l := bytesAt s.sched.mem 0 (fld w 0 24)
      ∃ t, exec (.recoveryImage none) s = .next t ∧ t.tiles = s.tiles ∧ s.memSame t ∧ t.mg.mcBusy = false ∧ t.mg.mcCmd = none ∧
        t.mg.mcbox = s.mg.mcbox ∧
        (s.acceptsImage l = true → t.mg.flash = l ∧ t.mg.stage = 6 ∧ t.mg.mcErr = s.mg.mcErr ∧ t.mg.mcStart = some 256) ∧
        (s.acceptsImage l = false → t.mg.flash = s.mg.flash ∧ t.mg.stage = 5 ∧ t.mg.mcErr = true)) ∧
    ∀ w, s.mg.stage ≠ 5 → exec (.recoveryImage w) s = .next s) ∧
  (∀ (s : State) (w : W64) (i : Option W64 → Instr) (code : Nat),
    (i, code) ∈ [(Instr.attest, 1), (Instr.extend, 2), (Instr.keyload, 3), (Instr.markkey, 4)] →
    (7 ≤ s.mg.stage → s.mg.mcCmd = none → mcCode s = code → exec (i (some w)) s = .next (s.takeDoor w) ∧
      (s.takeDoor w).mg.mcBusy = true) ∧
    (∀ x, s.mg.mcCmd = some x → exec (i (some w)) s = .next s) ∧
    (s.mg.mcCmd = none → exec (i none) s = .next s) ∧
    (s.mg.stage = 6 → s.mg.mcCmd = none → s.mg.mcBusy = false → mcCode s = code →
      exec (i (some w)) s = .next { s with mg := { s.mg with mcErr := true } })) ∧
  ∀ (s : State) (w : W64), 7 ≤ s.mg.stage → s.mg.mcCmd = some (w, s.mg.mcbox) → s.mg.mcWrote = [] →
    let done (m : Mgmt) : Mgmt := { m with mcBusy := false, mcCmd := none, mcWrote := [] }
    (mcCode s = 1 → (s.box 0x28 56).all (· == 0) = true → ∃ t, exec (.attest none) s = .next t ∧
      t = { s with mg := done { s.mg with session := none, mcbox := t.mg.mcbox } } ∧
      bytesAt t.mg.mcbox 0 1024 = s.report (s.box 0x08 32) (List.replicate 56 0) (s.box 0x28 56)) ∧
    (mcCode s = 1 → (s.box 0x28 56).all (· == 0) = false → ∃ t, exec (.attest none) s = .next t ∧
      t.mg.session.isSome = true ∧
      t = { s with free := s.free + 1, mg := done { s.mg with session := t.mg.session, mcbox := t.mg.mcbox } }) ∧
    (let i := (nth (s.box 8 1) 0 0).toNat
     mcCode s = 2 →
      (1 ≤ i → i ≤ 7 → 0x40 ≤ fld w 0 24 → fld w 0 24 ≤ 4096 → ∃ t, exec (.extend none) s = .next t ∧
        t = { s with mg := done { s.mg with meas := t.mg.meas } } ∧
        t.measOf i = fit 64 (Config.shake256 (s.measOf i ++ s.box 0x40 (fld w 0 24 - 0x40)) 64) ∧
        ∀ j, j ≠ i → t.measOf j = s.measOf j) ∧
      ((i = 0 ∨ 7 < i) → exec (.extend none) s = .next { s with mg := done { s.mg with mcErr := true } })) ∧
    (let a := (nth (s.box 8 1) 0 0).toNat
     mcCode s = 3 →
      (∀ l, s.unwrap 104 = some l → a < 16 → s.partBusy a = false → exec (.keyload none) s = .next
        { s with mg := done { s.mg with keys := put a (fit 96 l) s.mg.keys } }) ∧
      ((s.unwrap 104 = none ∨ s.partBusy a = true) → exec (.keyload none) s = .next
        { s with mg := done { s.mg with mcErr := true, session := none } })) ∧
    (let k := (nth (s.box 8 1) 0 0).toNat
     mcCode s = 4 →
      (∀ l, s.unwrap 40 = some l → k < 2 → exec (.markkey none) s = .next
        { s with mg := done { s.mg with mkey := put k (fit 32 l) s.mg.mkey } }) ∧
      (s.unwrap 40 = none → exec (.markkey none) s = .next { s with mg := done { s.mg with mcErr := true, session := none } }))

/-! ### The scheduler -/

/-- Triggers and launches (R368 to R371): schtrig: a trigger is queued, or discarded with OVF. launch: one whose graph has no usable
record ring or lead is refused with REF; with 64 launches live, or a graph of several packages whose serials are not known yet, it
waits; one whose image is bad gets a launch record; else the launch begins, and every node without a predecessor enters its queue
(R372). launchNotice: a notice of another package begins the launch there or is refused (R369), where it can come in; the answer
leaves where it has a way out. That the triggers still pending count among the 64 launches is the model's choice
(notes/assumptions/98.md), as is node 256 in the report for a whole launch (53.md), and that a notice with no way out is lost (119.md). -/
def Obligations.LaunchEvents : Prop :=
  (∀ (s : State) (w : W64),
    (s.mg.stage < 7 → exec (.schtrig w) s = .next s) ∧
    (7 ≤ s.mg.stage → 32 ≤ s.sched.trigs.length → exec (.schtrig w) s = .next { s with sched := { s.sched with ovf := true } }) ∧
    (7 ≤ s.mg.stage → s.sched.trigs.length < 32 → exec (.schtrig w) s = .next { s with sched := { s.sched with
      trigs := s.sched.trigs ++ [w], trigL := s.sched.trigL ++ [s.sched.trigCount],
      trigCount := (s.sched.trigCount + 1) % 2 ^ 32 } })) ∧
  (∀ (s : State) (sigma : Option Nat) (w : W64) (ws : List W64) (l : Nat) (ls : List Nat),
    s.sched.trigs = w :: ws → s.sched.trigL = l :: ls →
    let g := fld w 56 8
    let h := s.graphHdr g
    (s.graphSilent g = true → exec (.launch sigma) s = .next
      { s with sched := { s.sched with trigs := ws, trigL := ls, ref := true, badg := g } }) ∧
    (1 < h.npkg → h.npkg ≤ 512 → s.graphSilent g = false → sigma = none → exec (.launch sigma) s = .next s) ∧
    (s.graphSilent g = false → 64 ≤ s.sched.launches.length + ws.length → exec (.launch sigma) s = .next s) ∧
    (∀ v, s.graphSilent g = false → s.sched.launches.length + ws.length < 64 → h.npkg = 1 → s.serial l 0 = some v →
      let key := launchKey s.pkg l
      (s.graphBad g = true → ∃ t, exec (.launch sigma) s = .next t ∧ t.sched.launches = s.sched.launches ∧ t.sched.trigs = ws ∧
        getD 0 t.sched.schgc g = (getD 0 s.sched.schgc g + 1) % 2 ^ 32) ∧
      (s.graphBad g = false → (s.patches w).any (patchBad h.paLen) = false → s.launchOf key = none →
        ∃ t a, exec (.launch sigma) s = .next t ∧ s.memSame t ∧ t.tiles = s.tiles ∧ t.sched.trigs = ws ∧ t.sched.trigL = ls ∧
          t.launchOf key = some a ∧ a.sigma = v ∧ a.graph = g ∧ a.lead = s.pkg ∧ a.params = s.patched h (s.patches w) ∧
          a.nodes.map (·.1) = List.range h.nnode ∧
          ∀ n, n < h.nnode → ∃ x, a.node n = some x ∧
            x.st = (if (s.edges h).any (·.2 == n) then NState.waiting else NState.ready) ∧
            ((s.edges h).any (·.2 == n) = false →
              (⟨key, n, s.cyc⟩ : QNode) ∈ getD [] t.sched.queues (s.nodeRec h n).queue)))) ∧
  ∀ (s : State) (n : Notice),
    let h := s.graphHdr n.graph
    let ok := fld (getD 0 s.sched.schgr n.graph) 63 1 == 1 && (h.nnode, h.nedge, h.npkg) == n.shape
    let key := launchKey n.lead n.l
    let answer (e : Option Nat) : Out := .report n.lead
      { l := key, node := 256, pkg := s.pkg, ended := e, instances := 0, faults := 0, ftile := 0, pods := [] }
    let told (e : Option Nat) : List Out := if s.wayOut n.lead then s.outbox ++ [answer e] else s.outbox
    (s.hears = false → exec (.launchNotice n) s = .next s) ∧
    (s.hears = true → ok = false → exec (.launchNotice n) s = .next { s with outbox := told (some 1) }) ∧
    (s.hears = true → ok = true → s.launchOf key = none → ∃ t a, exec (.launchNotice n) s = .next t ∧ t.outbox = told none ∧
      t.tiles = s.tiles ∧ t.launchOf key = some a ∧ a.sigma = n.serial ∧ a.graph = n.graph ∧ a.lead = n.lead ∧
      a.params = s.patched h n.patches ∧ a.nodes.map (·.1) = List.range h.nnode)

/-- Selection and placement (R374 to R378): with no head nothing is placed, and a head that can be placed leaves its queue and is
placed on sites in service, of its partition, whose palette has every class that it uses. A start loads the image over zeros, puts
the slots into RUN, and the node is placed. Between packages: the answer to a place request, the release of a part, and the
reports that a lead waits for (R369); a notice comes in only where a lane group of the packet pool passes traffic (R435, R438).
Its steps are selectionRound, startNotice, placePartRequest, releaseNotice and partCompletionReport. That node 256 stands for a whole
launch, and that a node waits for every package's answer, is the model's choice (notes/assumptions/53.md); that an answer with no
way out is lost is 119.md. -/
def Obligations.PlacementEvents : Prop :=
  (∀ (s : State), s.misplaced = [] → s.sched.round = none →
    ((∀ q, q < 64 → s.head q = none) → exec .selectionRound s = .next s) ∧
    ∀ q h a u, s.head q = some h → q < 64 → (∀ p, p < 64 → p ≠ q → s.head p = none) → s.launchOf h.l = some a → a.l = h.l →
      let r := s.nodeRec (s.graphHdr a.graph) h.node
      s.rucksOf h.l h.node = [] → s.headerBad r = false → s.partOf h.l h.node = [] → (a.node h.node).isSome = true →
      (s.spanned a r).filter (· != s.pkg) = [] → s.placeOwn a h.node false = some u → rising s.sched.queues = true →
      getD [] s.sched.queues q = [h] →
      ∃ t, exec .selectionRound s = .next t ∧ t.head q = none ∧ t.sched.round = none ∧
        (∃ b x, t.launchOf h.l = some b ∧ b.node h.node = some x ∧ x.st = .placed) ∧
        ∀ n k, (n, k) ∈ t.partOf h.l h.node → s.mg.svc.contains n = true ∧
          s.siteAsp n = fld (getD 0 s.sched.schgr a.graph) 56 4 ∧ k.useMask &&& ~~~(s.tile n).palette = 0) ∧
  (∀ (s : State) (l node : Nat) (r : PartReport) (peers : Peers), s.hears = false →
    exec (.startNotice l node peers) s = .next s ∧ exec (.placePartRequest l node) s = .next s ∧
    exec (.releaseNotice l node) s = .next s ∧ exec (.partCompletionReport r) s = .next s) ∧
  (∀ (s : State) (l node n : Nat) (a : Launch) (x : Node) (k : Kernel) (peers : Peers), s.hears = true →
    s.launchOf l = some a → a.l = l → a.node node = some x → x.st = .placing → s.rucksOf l node = [] →
    s.partOf l node = [(n, k)] → (s.tile n).kernels.filter (·.owner == k.owner) = [k] → k.rings = 0 →
    let r := s.nodeRec (s.graphHdr a.graph) node
    let h := s.kernelHdr r
    r.plen = 0 → h.image.length ≤ k.sram →
    ∃ t, exec (.startNotice l node peers) s = .next t ∧
      (∀ p, byteAt (t.tile n).sram p = if k.sbase ≤ p ∧ p < k.sbase + k.sram then nth h.image (p - k.sbase) 0
        else byteAt (s.tile n).sram p) ∧
      (∀ p, byteAt (t.tile n).plane p = if k.pbase ≤ p ∧ p < k.pbase + k.planes then 0 else byteAt (s.tile n).plane p) ∧
      (∀ m, m ≠ n → t.tile m = s.tile m) ∧
      (∀ j, j ∈ k.slots.map (·.1) → t.slot n j = { s.slot n j with state := .run }) ∧
      t.partOf l node = [(n, { k with marks := marksOf h, started := true })] ∧
      ∃ b y, t.launchOf l = some b ∧ b.node node = some y ∧ y.st = .placed ∧ y.pods = peers.pods ∧ y.moves = peers.moves) ∧
  (∀ (s : State) (l node : Nat) (a : Launch), s.hears = true → s.launchOf l = some a → a.l = l → s.rucksOf l node = [] →
    let r := s.nodeRec (s.graphHdr a.graph) node
    let answer (v t : State) (e : Option Nat) : Prop :=
      t.outbox = if v.wayOut a.lead then s.outbox ++ [.report a.lead
        { l := l, node := node, pkg := s.pkg, ended := e, instances := 0, faults := 0, ftile := 0, pods := v.ownPods l node,
          moves := [] }] else s.outbox
    (s.headerBad r = true → ∃ t, exec (.placePartRequest l node) s = .next t ∧ t = { s with outbox := t.outbox } ∧
      answer s t (some 1)) ∧
    (s.headerBad r = false → s.placeOwn a node false = none →
      ∃ t, exec (.placePartRequest l node) s = .next t ∧ t = { s with outbox := t.outbox } ∧
        answer s t (some (if s.placeable a node then 0 else 2))) ∧
    ∀ u x, s.headerBad r = false → s.placeOwn a node false = some u → a.node node = some x →
      ∃ t b, exec (.placePartRequest l node) s = .next t ∧ t.tiles = u.tiles ∧ answer u t none ∧ t.launchOf l = some b ∧
        b.node node = some { x with st := .placing }) ∧
  (∀ (s : State) (l node : Nat) (a : Launch) (x : Node), s.hears = true →
    (∃ t, exec (.releaseNotice l 256) s = .next t ∧
      t = { s with tiles := t.tiles, sched := { s.sched with launches := s.sched.launches.filter (·.l != l),
                                                             census := s.sched.census.filter (·.1.l != l),
                                                             colls := s.sched.colls.filter (·.l != l) } } ∧
      ∀ n, t.tile n = { s.tile n with oldest := erase l (s.tile n).oldest, collSeq := erase l (s.tile n).collSeq }) ∧
    (node < 256 → s.launchOf l = some a → a.node node = some x → x.st = .placed → ∃ t p, exec (.releaseNotice l node) s = .next t ∧
      s.memSame t ∧ t.preemptOf l node = some p ∧ p.ending = true ∧ p.stopped = true ∧
      ∀ n k m, k ∈ (s.tile n).kernels → k.isOf l node = true → m ∈ k.slots.map (·.1) →
        (t.slot n m).state = if (s.slot n m).state = .asleep then .stopped else (s.slot n m).state)) ∧
  ∀ (s : State) (r : PartReport) (a : Launch), s.hears = true → s.launchOf r.l = some a → a.l = r.l → a.lead = s.pkg → r.node = 256 →
    r.ended = none → a.await.filter (· != r.pkg) ≠ [] → ∃ t b, exec (.partCompletionReport r) s = .next t ∧
      t = { s with sched := { s.sched with launches := t.sched.launches } } ∧ t.launchOf r.l = some b ∧
      b = { a with await := a.await.filter (· != r.pkg) }

/-- Pre-emption (R383 to R386, R391, R392). schpreFull, schpreCompact: a request for a placed node reserves its room and stands, with
BUSY; without room RESULT is 6, and of no such node 3; one that comes while another is in progress is discarded with OVF.
schpreWithdraw: it may be withdrawn (4), and one that times out becomes full or ends (5): compactTimeout. preemptionStop: the slots of
the node that sleep stop at once, and step stops each other one at its next own position, where one that is BACKED resumes as RUN;
savePoint: its tile is saved and released; a node that ends is released with nothing saved. schres queues a saved node
again, and restoration gives a tile its slots back. Which writes are discarded, and what a request that meets another for its node
leaves, is the model's choice (notes/assumptions/21.md), as is how the stop falls on the positions of a cycle (63.md). -/
def Obligations.PreemptionEvents : Prop :=
  (∀ (s : State) (w : W64) (compact : Bool),
    let i : Instr := if compact then .schpreCompact ⟨none, w⟩ else .schpreFull ⟨none, w⟩
    let l := launchKey s.pkg (fld w 0 32)
    let node := fld w 40 8
    let host := s.discards l node (if compact then 2 else 1) = false ∧ 7 ≤ s.mg.stage
    (s.mg.stage < 7 → exec i s = .next s) ∧
    (7 ≤ s.mg.stage → s.discards l node (if compact then 2 else 1) = true → ∃ t, exec i s = .next t ∧
      t = { s with sched := { s.sched with schpst := t.sched.schpst } } ∧ fld t.sched.schpst 62 1 = 1 ∧
      fld t.sched.schpst 63 1 = fld s.sched.schpst 63 1 ∧ fld t.sched.schpst 0 62 = fld s.sched.schpst 0 62) ∧
    (host → s.launchOf l = none → ∃ t, exec i s = .next t ∧ t = { s with sched := { s.sched with schpst := t.sched.schpst } } ∧
      fld t.sched.schpst 56 4 = 3 ∧ fld t.sched.schpst 63 1 = 0 ∧ fld t.sched.schpst 40 8 = node ∧ fld t.sched.schpst 0 32 = fld w 0 32) ∧
    ∀ a x, host → s.launchOf l = some a → a.l = l → a.lead = s.pkg → a.node node = some x → s.preemptOf l node = none →
      (x.st = .placed → s.reserveAll (s.partOf l node) [] = none → ∃ t, exec i s = .next t ∧ t.tiles = s.tiles ∧
        t.sched.preempts = s.sched.preempts ∧ fld t.sched.schpst 56 4 = 6 ∧ fld t.sched.schpst 63 1 = 0) ∧
      (∀ resv, x.st = .placed → s.reserveAll (s.partOf l node) [] = some resv → ∃ t p, exec i s = .next t ∧ t.tiles = s.tiles ∧
        t.preemptOf l node = some p ∧ p.compact = compact ∧ p.stopped = false ∧ p.resv = resv ∧ fld t.sched.schpst 63 1 = 1 ∧
        p.due = (if compact ∧ fld w 48 13 ≠ 0 then some (s.cyc + 1024 * fld w 48 13) else none)) ∧
      (x.st ≠ .placed → ∃ t, exec i s = .next t ∧ t.tiles = s.tiles ∧ fld t.sched.schpst 56 4 = 3 ∧ fld t.sched.schpst 63 1 = 0)) ∧
  (∀ (s : State) (w : W64) (a : Launch) (p : Preempt),
    let l := launchKey s.pkg (fld w 0 32)
    let node := fld w 40 8
    s.discards l node 3 = false → s.launchOf l = some a → a.lead = s.pkg → s.preemptOf l node = some p → 7 ≤ s.mg.stage → p.ending = false → p.palette = false →
    (p.stopped = true → exec (.schpreWithdraw ⟨none, w⟩) s = .next s) ∧
    (p.stopped = false → ∃ t, exec (.schpreWithdraw ⟨none, w⟩) s = .next t ∧ t.tiles = s.tiles ∧ t.preemptOf l node = none ∧
      (p.host = true → fld t.sched.schpst 56 4 = 4 ∧ fld t.sched.schpst 63 1 = 0) ∧
      (p.host = false → t.sched.schpst = s.sched.schpst))) ∧
  (∀ (s : State) (l node c : Nat) (p : Preempt), s.preemptOf l node = some p → p.compact = true → p.stopped = false →
    p.due = some c → node < 256 →
    (s.cyc < c → exec (.compactTimeout l node) s = .next s) ∧
    (c ≤ s.cyc → p.conv = true → ∃ t, exec (.compactTimeout l node) s = .next t ∧ t.tiles = s.tiles ∧
      t.preemptOf l node = some { p with compact := false, due := none }) ∧
    (c ≤ s.cyc → p.conv = false → p.palette = false → ∃ t, exec (.compactTimeout l node) s = .next t ∧ t.tiles = s.tiles ∧
      t.preemptOf l node = none ∧ (p.host = true → fld t.sched.schpst 56 4 = 5 ∧ fld t.sched.schpst 63 1 = 0) ∧
      (p.host = false → t.sched.schpst = s.sched.schpst))) ∧
  (∀ (s : State) (l node : Nat) (p : Preempt), s.preemptOf l node = some p → p.ending = false → p.stopped = false →
    ((s.partOf l node).all fun y => y.2.started) = true → (p.compact = true → s.atRest l node = true) →
    ∃ t, exec (.preemptionStop l node) s = .next t ∧ s.memSame t ∧
      t.preemptOf l node = some { p with stopped := true, since := s.cyc } ∧
      ∀ n k m, k ∈ (s.tile n).kernels → k.isOf l node = true → m ∈ k.slots.map (·.1) →
        (t.slot n m).state = if (s.slot n m).state = .asleep then .stopped else (s.slot n m).state) ∧
  (∀ (s : State) (site : Nat) (rest : List Nat),
    let u : State := { s with issues := rest, curSite := site, curSlot := fld (s.tile site).wheel (4 * (s.cyc % 16)) 4 }
    s.mg.tripped = false → s.todo = [] → s.issues = site :: rest → u.curSlot < 8 → u.me.deferredDue s.cyc = none →
    u.slotStops site u.curSlot = true → u.me.state.acts = true → ∃ t, step s = .next t ∧ u.onlySlot t site u.curSlot ∧
      t.me.state = .stopped ∧ t.me.resume = (if u.me.state = .backed then .run else u.me.state) ∧
      t.me = { u.me with state := .stopped, resume := t.me.resume }) ∧
  (∀ (s : State) (l node site : Nat) (k : Kernel) (p : Preempt), s.preemptOf l node = some p →
    s.partOf l node = [(site, k)] → (s.tile site).kernels.filter (·.owner == k.owner) = [k] →
    (p.stopped = false → exec (.savePoint l node site) s = .next s) ∧
    (p.stopped = true → s.nodeReady l node p.ending = false → exec (.savePoint l node site) s = .next s) ∧
    (p.stopped = true → p.ending = true → s.nodeReady l node true = true → (∀ r, r ∈ s.rucksOf l node → r.late = 0) →
      ∃ t, exec (.savePoint l node site) s = .next t ∧ t.partOf l node = [] ∧ t.preemptOf l node = none) ∧
    ∀ a x, p.stopped = true → p.ending = false → p.palette = false → s.nodeReady l node false = true → s.nodeFaults l node = [] →
      (s.tile site).box.strays = [] → s.saveWaits p site = false → s.launchOf l = some a → a.l = l → a.node node = some x →
      ∃ t b y r, exec (.savePoint l node site) s = .next t ∧ t.partOf l node = [] ∧ t.launchOf l = some b ∧
        b.node node = some y ∧ y.st = .saved ∧ r ∈ t.sched.rucks ∧ r.l = l ∧ r.node = node ∧ r.site = site ∧
        r.compact = p.compact ∧ r.kern = k) ∧
  (∀ (s : State) (w : W64), 7 ≤ s.mg.stage →
    let l := launchKey s.pkg (fld w 0 32)
    let node := fld w 40 8
    (∀ a x, s.launchOf l = some a → a.l = l → a.lead = s.pkg → s.preemptOf l node = none → a.node node = some x → x.st = .saved →
      ∃ t b y, exec (.schres w) s = .next t ∧ t.tiles = s.tiles ∧ t.launchOf l = some b ∧ b.node node = some y ∧ y.st = .ready ∧
        (⟨l, node, s.cyc⟩ : QNode) ∈ getD [] t.sched.queues (s.nodeRec (s.graphHdr a.graph) node).queue) ∧
    (s.launchOf l = none → ∃ t, exec (.schres w) s = .next t ∧ t = { s with sched := { s.sched with schpst := t.sched.schpst } } ∧
      fld t.sched.schpst 56 4 = 3 ∧ fld t.sched.schpst 0 32 = fld w 0 32)) ∧
  ∀ (s : State) (l node m : Nat) (a : Launch) (x : Node) (r : Ruck) (y : Slot), s.launchOf l = some a → a.l = l →
    a.node node = some x → x.st = .placed → s.nodeStopped l node = false → s.rucksOf l node = [r] →
    (s.restorable l node = false → exec (.restoration l node) s = .next s) ∧
    (s.restorable l node = true → (granules 6 r.addr 256).any (s.lineBad r.kern.asp) = true →
      ∃ t, exec (.restoration l node) s = .next t ∧ t.rucksOf l node = [] ∧ t.mg.fltcnt = (s.mg.fltcnt + 1) % 2 ^ 32) ∧
    (s.restorable l node = true → (granules 6 r.addr 256).any (s.lineBad r.kern.asp) = false → r.slots = [(m, y)] →
      r.branches = [] → (∀ j, j ∈ r.bobjs → j.1 < 32) →
      ∃ t z, exec (.restoration l node) s = .next t ∧ t.rucksOf l node = [] ∧ t.slot r.place m = z ∧
        z = { y with wake := z.wake, lastTr := y.lastTr.map (movedTo r.place), ahead := [] } ∧
        (∀ n, n ≠ r.place → t.tile n = s.tile n ∨ ∃ k, (n, k) ∈ s.partOf l node))

/-! ### Tests, errors and links -/

/-- Tests, sweeps and soft errors (R347, R469, R497, R498, R516 to R519, R525, R526). testRound: a class that fails is lost to its
tile's palette or takes its site out of service, and one that cannot be tested as the tile stands is counted; htest, hostTestRun: an
ordered test runs once no node stands there; hangSweep: a
stalled node is swept once, with an interrupt, and ended where ACT is 1; oldestAnnounce: the least TOKID, here or on another package,
is announced; patrolScrub: a corrected error is counted and an uncorrectable one poisons its granule. What a round finds is given with
it, as notes/assumptions/71.md says. -/
def Obligations.HealthEvents : Prop :=
  ∀ (s : State) (site : Nat) (r : TestResult),
    let lost (t : State) (able : Nat → Bool) : Prop :=
      (∀ c, 3 ≤ c → c < 45 → (t.tile site).palette.getLsbD c =
        ((s.tile site).palette.getLsbD c && !(able c && r.classes.contains c))) ∧
      (∀ n, n ≠ site → t.tile n = s.tile n) ∧ s.memSame t
    ((fld s.mg.katcfg 63 1 = 0 ∨ s.mg.svc.contains site = false ∨ s.mg.htest = some site) →
      exec (.testRound site r) s = .next s) ∧
    (fld s.mg.katcfg 63 1 = 1 → s.mg.svc.contains site = true → s.mg.htest ≠ some site →
      let able (c : Nat) : Bool := !(unbound (s.tile site).wheel).isEmpty &&
        (decide (c < 5 ∨ 25 < c) || decide (((s.tile site).slots.map fun x => x.2.count).sum < 16))
      ∃ t, exec (.testRound site r) s = .next t ∧ t.mg.katRounds = (s.mg.katRounds + 1) % 2 ^ 32 ∧ lost t able ∧
        t.mg.katSkip = min (s.mg.katSkip + ((List.range 45).filter fun c =>
          (s.tile site).palette.getLsbD c && !able c).length) 255 ∧
        ∀ c, c < 3 → able c = true → r.classes.contains c = true → (s.tile site).palette.getLsbD c = true →
          t.mg.svc.contains site = false) ∧
    (∀ w, ((fld w 63 1 = 0 ∨ fld s.mg.htres 63 1 = 1) → exec (.htest w) s = .next s) ∧
      (fld w 63 1 = 1 → fld s.mg.htres 63 1 = 0 → ∃ t, exec (.htest w) s = .next t ∧
        t = { s with mg := { s.mg with htest := some (fld w 0 10), htres := t.mg.htres } } ∧
        fld t.mg.htres 63 1 = 1 ∧ fld t.mg.htres 46 10 = fld w 0 10)) ∧
    (s.mg.htest = none → exec (.hostTestRun r) s = .next s) ∧
    (s.mg.htest = some site → (s.tile site).kernels ≠ [] → exec (.hostTestRun r) s = .next s) ∧
    (s.mg.htest = some site → (s.tile site).kernels = [] → site < 1024 → ∃ t, exec (.hostTestRun r) s = .next t ∧
      t.mg.htest = none ∧ fld t.mg.htres 63 1 = 0 ∧ fld t.mg.htres 46 10 = site ∧ (fld t.mg.htres 62 1 = 1 ↔ r.vault = true) ∧
      (∀ c, c < 45 → t.mg.htres.getLsbD c = r.classes.contains c) ∧ lost t (fun _ => true) ∧
      (r.vault = true → t.mg.vltsvc.contains site = false ∧ t.mg.svc.contains site = false)) ∧
    (fld s.mg.hangcfg 63 1 = 0 → exec .hangSweep s = .next s) ∧
    ((∀ a n x, a ∈ s.sched.launches → (n, x) ∈ a.nodes → s.stalled a n x = false) → exec .hangSweep s = .next s) ∧
    (∀ a n x, fld s.mg.hangcfg 63 1 = 1 → s.sched.launches = [a] → (a.nodes.filter fun y => s.stalled a y.1 y.2) = [(n, x)] →
      ∃ t b y, exec .hangSweep s = .next t ∧ s.memSame t ∧ t.launchOf a.l = some b ∧ b.node n = some y ∧
        y.swept = s.lastProgress a.l n + 1 ∧
        (fld (s.msixWord (fld s.mg.hangcfg 61 1) (2 * fld s.mg.hangcfg 48 6 + 1)) 32 1 = 0 →
          t.outbox = s.outbox ++ [.msix (fld s.mg.hangcfg 61 1) (fld s.mg.hangcfg 48 6)]) ∧
        (fld s.mg.hangcfg 62 1 = 0 → t.tiles = s.tiles ∧ t.mg.fltcnt = s.mg.fltcnt) ∧
        (fld s.mg.hangcfg 62 1 = 1 → t.mg.fltcnt = (s.mg.fltcnt + 1) % 2 ^ 32 ∧
          ∃ p, t.preemptOf a.l n = some p ∧ p.ending = true)) ∧
    (∀ l ext, ∃ t, exec (.oldestAnnounce l ext) s = .next t ∧ t = { s with tiles := t.tiles } ∧ ∀ n,
      (t.tile n) = { s.tile n with oldest := (t.tile n).oldest } ∧
      ((s.tile n).kernels.any (·.l == l) = false → t.tile n = s.tile n) ∧
      ((s.tile n).kernels.any (·.l == l) = true → ∀ c, c ∈ s.sched.census → c.1.l = l →
        getD 0 (t.tile n).oldest l ≤ c.2 ∧ (t.tile n).oldest.any (·.1 == l) = true) ∧
      ((s.tile n).kernels.any (·.l == l) = true → ∀ v, ext = some v →
        getD 0 (t.tile n).oldest l ≤ v ∧ (t.tile n).oldest.any (·.1 == l) = true) ∧
      ((s.tile n).kernels.any (·.l == l) = true → (t.tile n).oldest.any (·.1 == l) = true →
        ext = some (getD 0 (t.tile n).oldest l) ∨ ∃ c, c ∈ s.sched.census ∧ c.1.l = l ∧ c.2 = getD 0 (t.tile n).oldest l)) ∧
    (∀ off, exec (.patrolScrub (.sram site off) false) s = .next { s with mg := { s.mg with errCE := (s.mg.errCE + 1) % 2 ^ 16 } } ∧
      (site < 1024 → ∃ t, exec (.patrolScrub (.sram site off) true) s = .next t ∧ s.memSame t ∧ s.onlyTile { t with mg := s.mg } site ∧
        off / 8 ∈ (t.tile site).sramPoison ∧ t.mg.errUE = (s.mg.errUE + 1) % 2 ^ 16 ∧ fld t.mg.errLast 61 3 = 0) ∧
      ∃ t, exec (.patrolScrub (.hbm off) true) s = .next t ∧ s.memSame t ∧ off / 64 ∈ t.hbmPoison ∧ t.tiles = s.tiles ∧
        t.mg.errUE = (s.mg.errUE + 1) % 2 ^ 16 ∧ fld t.mg.errLast 61 3 = 4)

/-- Links, routers and partition reset (R397, R405, R406, R499, R508, R510 to R512, R514). flitParityRetry: a flit that fails its check
is counted, a good one ends the count, and the third in a row fails the router; linkReplay changes nothing; routerFailure: a failed
router is out of service with its vault and its messages may be lost; routingTableRewrite: the tables are written anew once nothing
is in flight, and what was held is released; prst: a partition reset begins, its nodes end, and a write while one is in progress is
ignored; resetGoes, at the end of a cycle: its sites go to their reset values and it ends. linkTrained, fabricPortDown: a lane group is
live from its training to the loss of its port; hostLinkDown, hostLinkRetrain: host links go down and come up, and
hostCompletionTimeout: a command whose host does not answer in time reads poison there and comes to its end. In which cycle a reset ends
is a free bit (notes/assumptions/23.md), which of the two hosts has not answered are two more (118.md); that a node without a tile ends
with no fault record is the model's choice (117.md). -/
def Obligations.LinkEvents : Prop :=
  ∀ (s : State) (site n : Nat),
    (let key := 4 * site + n % 4
     let count (k : Nat) : State := { s with mg := { s.mg with flits := putD 0 key k s.mg.flits } }
     let failures := getD 0 s.mg.flits key
     exec (.flitParityRetry ⟨site, n, false⟩) s = .next (count 0) ∧
     (failures < 2 → exec (.flitParityRetry ⟨site, n, true⟩) s = .next (count (failures + 1))) ∧
     (2 ≤ failures → s.mg.rtsvc.contains site = true → ∃ t, exec (.flitParityRetry ⟨site, n, true⟩) s = .next t ∧
       getD 0 t.mg.flits key = 0 ∧ t.mg.rtsvc.contains site = false ∧ t.mg.vltsvc.contains site = false)) ∧
    exec (.linkReplay n) s = .next s ∧
    (s.mg.rtsvc.contains site = false → exec (.routerFailure site) s = .next s) ∧
    (s.mg.rtsvc.contains site = true → ∃ t, exec (.routerFailure site) s = .next t ∧ s.memSame t ∧
      t.mg.rtsvc.contains site = false ∧ t.mg.svc.contains site = false ∧ t.mg.vltsvc.contains site = false ∧
      (∀ x, x ∈ t.wire → x ∈ s.wire) ∧ (∀ x, x ∈ s.wire → (s.routeOf x).contains site = false → x ∈ t.wire) ∧
      t.mg.fltcnt % 2 ^ 32 = (s.mg.fltcnt + (s.nodesOn fun m _ => m / 256 == site / 256).length) % 2 ^ 32) ∧
    (let lost := s.mg.tables.filter fun m => !s.mg.rtsvc.contains m
     let flying := s.wire.any Flight.inside
     ((s.mg.prst ≠ none ∨ s.mg.tables = s.mg.rtsvc) → s.rewriting = false) ∧
     (s.rewriting = false → exec .routingTableRewrite s = .next s) ∧
     (s.rewriting = true → (∀ m, m ∈ lost → s.mg.emptying.contains m = false) → flying = true →
       exec .routingTableRewrite s = .next s) ∧
     (s.rewriting = true → flying = false → ∃ t, exec .routingTableRewrite s = .next t ∧ s.memSame t ∧
       t.tiles = s.tiles ∧ t.mg.tables = s.mg.rtsvc ∧
       (s.heldMsgs = [] → t.wire = s.wire ∧ t.outbox = s.outbox ∧ t.heldMsgs = []) ∧
       ∀ circ pkg m, s.heldMsgs = [(circ, pkg, m)] →
         ({ s with heldMsgs := [], mg := { s.mg with tables := s.mg.rtsvc } } : State).postedOn t circ pkg m)) ∧
    (∀ w asp, s.mg.prst = some asp → exec (.prst w) s = .next s) ∧
    (∀ w, s.mg.prst = none → fld w 0 1 = 0 → exec (.prst w) s = .next s) ∧
    (∀ w, s.mg.prst = none → fld w 0 1 = 1 →
      let asp := fld w 32 4
      let tiled := s.partNodes asp .placed ++ s.partNodes asp .placing
      (tiled = [] → s.tilelessNodes asp = [] → exec (.prst w) s = .next { s with mg := { s.mg with prst := some asp } }) ∧
      (∀ l m k rest node, tiled = [(l, node)] → s.tilelessNodes asp = [] → s.partOf l node = (m, k) :: rest → ∃ t p, exec (.prst w) s = .next t ∧ s.memSame t ∧ t.mg.prst = some asp ∧
          t.mg.fltcnt = (s.mg.fltcnt + 1) % 2 ^ 32 ∧ t.preemptOf l node = some p ∧ p.ending = true) ∧
      ∀ l node a x, tiled = [] → s.tilelessNodes asp = [(l, node)] → s.launchOf l = some a → a.node node = some x →
        s.awaitsHead l node = false → ∃ t, exec (.prst w) s = .next t ∧ t.mg.prst = some asp ∧
          t.rucksOf l node = [] ∧ (t.launchOf l = none ∨ ∃ b y, t.launchOf l = some b ∧ b.node node = some y ∧ y.st = .done 3)) ∧
    (∀ asp, s.mg.prst = some asp →
      (s.partStopped asp = false → s.resetGoes = { s with free := s.free + 1 }) ∧
      (s.partNodes asp .placed = [] → s.partNodes asp .placing = [] →
        (∀ y, y ∈ s.tiles → s.siteAsp y.1 = asp → y.2.sends = [] ∧ y.2.claims = []) →
        s.resetGoes = { s with free := s.free + 1 } ∨
        s.resetGoes.mg.prst = none ∧
        (∀ m, m < 1024 → s.siteAsp m = asp → (s.resetGoes.tile m).kernels = [] ∧
          (s.resetGoes.tile m).wheel = 0xFFFFFFFFFFFFFFFF ∧ (s.resetGoes.tile m).palette = (s.tile m).palette ∧
          (s.resetGoes.tile m).hdeps = (s.tile m).hdeps ∧ (s.resetGoes.tile m).hlast = (s.tile m).hlast ∧
          (∀ a, byteAt (s.resetGoes.tile m).sram a = 0 ∧ byteAt (s.resetGoes.tile m).plane a = 0) ∧
          ∀ o, o < (24 - s.cacheMib m) * 2 ^ 20 → byteAt s.resetGoes.vault (2 ^ 25 * m + o) = 0) ∧
        (∀ m, s.siteAsp m ≠ asp → s.resetGoes.tile m = s.tile m) ∧
        ∀ x, x ∈ s.resetGoes.mg.xlats ↔ x ∈ s.mg.xlats ∧ x.asp ≠ asp)) ∧
    (∀ peer plg, bitOf s.mg.portEn (n / 4) = false → exec (.linkTrained n peer plg) s = .next s) ∧
    (∀ peer plg, bitOf s.mg.portEn (n / 4) = true → n < 144 → ∃ t, exec (.linkTrained n peer plg) s = .next t ∧
      t = { s with mg := { s.mg with lgb := t.mg.lgb } } ∧ fld (t.lane n) 60 1 = 1 ∧ fld (t.lane n) 48 12 = peer % 4096 ∧
      fld (t.lane n) 40 8 = plg % 256 ∧ fld (t.lane n) 61 3 = fld (s.lane n) 61 3 ∧ fld (t.lane n) 28 12 = fld (s.lane n) 28 12 ∧
      ∀ k, k ≠ n → t.lane k = s.lane k) ∧
    (n < 36 → ∃ t, exec (.fabricPortDown n) s = .next t ∧ t = { s with mg := { s.mg with lgb := t.mg.lgb } } ∧
      (∀ k, k / 4 = n → fld (t.lane k) 60 1 = 0 ∧ fld (t.lane k) 48 12 = fld (s.lane k) 48 12) ∧
      ∀ k, k / 4 ≠ n → t.lane k = s.lane k) ∧
    (∃ t, exec (.hostLinkDown n) s = .next t ∧ t = { s with mg := { s.mg with hostUp := t.mg.hostUp } } ∧
      ∀ p, p ∈ t.mg.hostUp ↔ p ∈ s.mg.hostUp ∧ p ≠ n) ∧
    (n < 2 → ∃ t, exec (.hostLinkRetrain n) s = .next t ∧ t = { s with mg := { s.mg with hostUp := t.mg.hostUp } } ∧
      ∀ p, p ∈ t.mg.hostUp ↔ p ∈ s.mg.hostUp ∨ p = n) ∧
    ∀ e q ext, (s.engQueue e q = [] → exec (.hostCompletionTimeout e q ext) s = .next s) ∧
      ∀ c rest u x, s.engQueue e q = c :: rest →
        let d : ECmd := { c with mute := s.mutePorts.1 }
        let v := s.mutePorts.2.setEngQueue e q (d :: rest)
        d.mute ≠ [] ∧ (∀ p, p ∈ d.mute → p < 2) ∧ v.mg = s.mg ∧
        (c.stopped = false → c.ran = false → c.iss + 4 ≤ s.cyc → c.acks = [] → v.ruckWaits d = false →
          v.command (v.startCmd d) ext = (.ok u, x) → u.nextMsg = s.nextMsg →
          ∃ t, exec (.hostCompletionTimeout e q ext) s = .next t ∧ t.engQueue e q = rest ∧ t.mg.hostUp = s.mg.hostUp)

/-- The aperture (R415, R418, R470, R492, R508): a disabled one refuses. apertureRead answers with the bytes, of a MARKED page with
Completer Abort; apertureWrite writes, but no sealed window; apertureAtomic leaves PERFORM and answers with the old value. markFrame: a
mark stage marks a frame and writes it with its record, or refuses it (R421 to R425). What a refused access answers, and that each
counts in ERRSTAT.HPF, is the model's choice (notes/assumptions/31.md). -/
def Obligations.ApertureEvents : Prop :=
  (∀ (s : State) (port : Nat) (off : W64) (size : Nat) (ext : List ExtRead) (data : List Byte) (ep : Bool),
    let refused (o : List Out) : State :=
      { s with mg := { s.mg with errHPF := (s.mg.errHPF + 1) % 2 ^ 16 }, outbox := s.outbox ++ o }
    fld (getD 0 s.mg.apcfg port) 63 1 = 0 →
      exec (.apertureRead port off size ext) s = .next (refused [.readFail port false]) ∧
      exec (.apertureWrite port off data ep) s = .next (refused []) ∧
      ∀ op d w x, exec (.apertureAtomic port off op size d w x) s = .next (refused [.readFail port false])) ∧
  (∀ (s u : State) (port : Nat) (off : W64) (l : List Piece) (ext : List ExtRead),
    (∀ size, s.apLocate port off size .read = (.ok l, u) → l.any (·.marked) = true →
      exec (.apertureRead port off size ext) s = .next (u.hostRefused.answerHost (.readFail port true))) ∧
    (∀ data ep, s.apLocate port off data.length .write = (.ok l, u) → l.any (·.sealed) = true →
      exec (.apertureWrite port off data ep) s = .next u.hostRefused) ∧
    ∀ op size data swap x q, hostAtomic off op size = true → s.apLocate port off (2 ^ size) .fetch = (.ok [q], u) →
      (q.marked = true ∨ q.sealed = true) →
      exec (.apertureAtomic port off op size data swap x) s = .next (u.hostRefused.answerHost (.readFail port true))) ∧
  (∀ (s u : State) (port : Nat) (off : W64) (q : Piece) (pa : Nat), q.p = .hbm u.pkg pa →
    let a := pa + q.off
    (∀ size ext, s.apLocate port off size .read = (.ok [q], u) → q.marked = false →
      ∃ t p, exec (.apertureRead port off size ext) s = .next t ∧ u.memSame t ∧
        t.outbox = u.outbox ++ [.readReply port (bytesAt u.hbm a q.n) p]) ∧
    (∀ data, s.apLocate port off data.length .write = (.ok [q], u) → q.n = data.length → q.sealed = false →
      ∃ t, exec (.apertureWrite port off data false) s = .next t ∧ t.tiles = u.tiles ∧
        ∀ x, byteAt t.hbm x = if a ≤ x ∧ x < a + data.length then nth data (x - a) 0 else byteAt u.hbm x) ∧
    ∀ op size data swap ext, hostAtomic off op size = true → s.apLocate port off (2 ^ size) .fetch = (.ok [q], u) →
      q.marked = false → q.sealed = false → u.opFail (.hbm a) op (2 ^ size) (s.apSpace port) = none →
      let old := loadNat u.hbm a (2 ^ size)
      ∃ t, exec (.apertureAtomic port off op size data swap ext) s = .next t ∧ t.tiles = u.tiles ∧
        t.outbox = u.outbox ++ [.readReply port (leBytes (2 ^ size) old) false] ∧
        ∀ x, byteAt t.hbm x = if a ≤ x ∧ x < a + 2 ^ size
          then nth (leBytes (2 ^ size) (performOp op size data swap old)) (x - a) 0 else byteAt u.hbm x) ∧
  ∀ (s u1 u2 u3 : State) (e q len : Nat) (ext : List ExtRead) (c : ECmd) (rest : List ECmd) (dst src : W64)
    (ps : List Piece) (d r : Piece),
    s.engQueue e q = c :: rest → c.op = .cpy dst src len → c.stopped = false → c.ran = false → c.beats = [] →
    c.iss + 4 ≤ s.cyc → s.feeders e q = [] → s.locateAll e (s.engineSite e) c.tr .read (cutRange src len) = (.ok ps, u1) →
    u1.locateAll e (s.engineSite e) c.tr .write (cutRange dst len) = (.ok [d], u2) →
    (isFrame ps [d] = false → exec (.markFrame e q ext) s = .next s) ∧
    (isFrame ps [d] = true →
      u2.locateAll e (s.engineSite e) c.tr .write (cutRange (dst + BitVec.ofNat 64 len) 256) = (.ok [r], u3) → r.sealed = true →
      ∀ k a b, d.p = .host k a → r.p = .host k b →
      (((u3.markFmt k).en = false ∨ len ≠ (u3.markFmt k).length) → c.late = false →
        (u3.slot c.tr.site c.tr.slot).keeps = true →
        ∃ t, exec (.markFrame e q ext) s = .next t ∧ t.engQueue e q = rest ∧ u3.recorded t c.tr 12 4 0 ∧ u3.memSame t) ∧
      ∀ bytes u4, (u3.markFmt k).en = true → len = (u3.markFmt k).length →
        u3.readPieces c.tr.asp (ownSlots c.tr) ext ps = .ok (bytes, u4) → anyBad bytes = false → bytes.length = len →
        d.n = len → r.n = 256 →
        let out := u4.marked k (bytes.map (·.1))
        let host (x : State) := if k = 0 then x.host0 else x.host1
        ∃ t, exec (.markFrame e q ext) s = .next t ∧ t.engQueue e q = rest ∧
          getD 0 t.mg.mkcnt k = (getD 0 u4.mg.mkcnt k + 1) % 2 ^ 64 ∧
          (c.late = false → (∀ i, i < 256 → byteAt (host t) (b + r.off + i) = nth out (len + i) 0) ∧
            ∀ i, i < len → (a + d.off + i < b + r.off ∨ b + r.off + 256 ≤ a + d.off + i) →
              byteAt (host t) (a + d.off + i) = nth out i 0))

/-! ### Management registers, power and heat -/

/-- Power and heat (R437 to R439): powerWindow, which lets no window above a limit come about, and thermalTrip; the memory-side cache
and the vault split (R123 to R125): mscfgEnable, mscfgDisable, cacheWritebackDone, vsplit; and the invalidation queue (R120, R121):
ivqPage, ivqRange, ivqSpace, ivqAll, ivqAcknowledge. -/
def Obligations.PlatformEvents : Prop :=
  ∀ (s : State) (w : W64),
    (∀ r : PowerReading, (s.mg.pwrTop < r.power ∨ 105 ≤ r.tj ∨ 1000000 < r.stopNs ∨ (s.mg.pwrStop = true ∧ r.stopNs = 0)) →
      exec (.powerWindow r) s = .next s) ∧
    (∀ r : PowerReading, r.power ≤ s.mg.pwrTop → r.tj < 105 → r.stopNs ≤ 1000000 → (s.mg.pwrStop = true → 0 < r.stopNs) →
      ∃ t, exec (.powerWindow r) s = .next t ∧
      t = { s with mg := { s.mg with stopNs := (s.mg.stopNs + r.stopNs) % 2 ^ 64, pwrTop := s.mg.pwrCeil, pwrStop := false,
                                     pwrStat := t.mg.pwrStat } } ∧
      fld t.mg.pwrStat 40 8 = r.tj % 256 ∧ fld t.mg.pwrStat 28 12 = min (r.stopNs * 4096 / 1000000) 4095 ∧
      fld t.mg.pwrStat 0 12 = r.power % 4096) ∧
    (∀ tj, tj < 115 → exec (.thermalTrip tj) s = .next s) ∧
    (∀ tj, 115 ≤ tj → ∃ t, exec (.thermalTrip tj) s = .next t ∧ t.mg.tripped = true ∧ t.outbox = s.outbox ++ [.tripPin] ∧
      t.tiles = s.tiles ∧ fld t.mg.pwrStat 40 8 = tj % 256) ∧
    (fld w 0 1 = 1 → s.mg.msEn = false → s.mg.msBusy = false → ∃ t, exec (.mscfgEnable w) s = .next t ∧
      t.mg.slices = s.numberSlices ∧ (t.mg.msEn = true ↔ s.numberSlices ≠ []) ∧ t.mg.bypassed = [] ∧ s.memSame t ∧
      ∀ x, x ∈ t.mg.slices → x.2 < s.cacheMib x.1) ∧
    ((s.mg.msEn = true ∨ s.mg.msBusy = true) → exec (.mscfgEnable w) s = .next s) ∧
    (fld w 0 1 = 0 → s.mg.msEn = true → s.mg.msBusy = false →
      exec (.mscfgDisable w) s = .next { s with mg := { s.mg with msEn := false, msBusy := true } }) ∧
    ((s.mg.msEn = false ∨ s.mg.msBusy = true) → exec (.mscfgDisable w) s = .next s) ∧
    (s.mg.msBusy = true → exec .cacheWritebackDone s = .next { s with mg := { s.mg with msBusy := false }, hbmDirty := [] }) ∧
    (s.mg.msBusy = false → exec .cacheWritebackDone s = .next s) ∧
    (∀ n, (s.mg.msEn = true ∨ s.mg.msBusy = true) → exec (.vsplit n w) s = .next s) ∧
    (∀ n, s.mg.msEn = false → s.mg.msBusy = false → ∃ t, exec (.vsplit n w) s = .next t ∧ t.tiles = s.tiles ∧
      (∀ a, a / 2 ^ 28 ≠ n → byteAt t.vault a = byteAt s.vault a) ∧
      ∀ j, j < 8 → let site := 8 * n + j; let c := fld w (8 * j) 5
        (s.mg.tileEn.contains site = true → s.mg.vltsvc.contains site = true → c ≤ 24 → t.cacheMib site = c ∧
          ∀ i o, c ≤ i → i < s.cacheMib site → i < 24 → o < 2 ^ 20 → byteAt t.vault (2 ^ 25 * site + 2 ^ 20 * (23 - i) + o) = 0) ∧
        (24 < c → t.cacheMib site = s.cacheMib site)) ∧
    (∀ i lvl, (i, lvl) ∈ [(Instr.ivqPage w, 0), (.ivqRange w, 1), (.ivqSpace w, 2), (.ivqAll w, 3)] →
      (fld w 62 2 ≠ lvl → exec i s = .next s) ∧
      (fld w 62 2 = lvl → 64 ≤ s.mg.ivq.length → exec i s = .next { s with mg := { s.mg with ivqOvf := true } }) ∧
      (fld w 62 2 = lvl → s.mg.ivq.length < 64 → exec i s = .next { s with mg := { s.mg with ivq := s.mg.ivq ++ [w] } })) ∧
    (s.mg.ivq = [] → exec .ivqAcknowledge s = .next s) ∧
    ∀ rest, s.mg.ivq = w :: rest → (s.ivqPending w = true → exec .ivqAcknowledge s = .next s) ∧
      (s.ivqPending w = false → ∃ t, exec .ivqAcknowledge s = .next t ∧ t.mg.ivq = rest ∧
        t.mg.ivqDone = (s.mg.ivqDone + 1) % 2 ^ 32 ∧ s.memSame t ∧ t.tiles = s.tiles ∧
        ∀ x, x ∈ t.mg.xlats ↔ x ∈ s.mg.xlats ∧ ivqCovers w x = false)

/-- What the writes of management registers leave to be read: the fields that the register has, limited as its rule says, unless a
lock stands (R25, R114, R360, R406, R414, R416, R419, R423, R432, R435, R504, R518, R528): pkgnum, pgctl, pwrceil, lnklim, hwin, mkfmt,
lgb, fltcfg, katcfg, hangcfg, registerWrite. That a PARTMAP field of a site with a placed region keeps its value is the model's choice
(notes/assumptions/101.md), and so are the layout of the MSI-X table, its mask bit and the sending on unmasking (24.md, presumed). -/
def Obligations.RegisterWrites : Prop :=
  ∀ (s : State) (w : W64) (port : Nat),
    let reads (i : Instr) (off : Nat) (v : W64) : Prop := ∃ t, exec i s = .next t ∧ t.tiles = s.tiles ∧ s.memSame t ∧
      t.mgmtRead port off = v
    (fld s.mg.pkgnum 12 1 = 0 → reads (.pkgnum w) 0x0008 (w &&& 0x1FFF)) ∧
    (fld s.mg.pkgnum 12 1 = 1 → exec (.pkgnum w) s = .next s) ∧
    (fld w 0 1 = 1 → reads (.pgctl w) 0x2A80 1) ∧ (fld w 0 1 = 0 → exec (.pgctl w) s = .next s) ∧
    (s.mg.pwrLock = true → exec (.pwrceil w) s = .next s) ∧
    (s.mg.pwrLock = false → 600 ≤ s.mg.fmax → s.mg.fmax < 4096 → reads (.pwrceil w) 0x6008
      (word64 [(63, fld w 63 1), (16, s.mg.fmax), (0, max 600 (min s.mg.fmax (fld w 0 12)))])) ∧
    (s.mg.lnkLock = true → exec (.lnklim w) s = .next s) ∧
    (s.mg.lnkLock = false → reads (.lnklim w) 0x6020 (w &&& 0x8000000FFFFFFFFF) ∧ ∃ t, exec (.lnklim w) s = .next t ∧
      ∀ n, n < 144 → (w.getLsbD (n / 4) = false → fld (t.lane n) 60 1 = 0) ∧
        (w.getLsbD (n / 4) = true → t.lane n = s.lane n)) ∧
    (∀ k j, k < 4 → j < 2 →
      (fld (getD 0 s.mg.hwin (8 * port + 2 * k + 1)) 62 1 = 1 → exec (.hwin port k j w) s = .next s) ∧
      (fld (getD 0 s.mg.hwin (8 * port + 2 * k + 1)) 62 1 = 0 → reads (.hwin port k j w) (0x3000 + 16 * k + 8 * j)
        (w &&& if j = 0 then 0xFFFFFFFFFFFF0000 else 0xF0000000FFFFFFFF))) ∧
    (∀ k, k < 2 →
      (fld w 56 2 ≤ 1 → sizeOk (fld w 32 16) = true → sizeOk (fld w 0 16) = true →
        reads (.mkfmt k w) (0x3100 + 0x80 * k) (w &&& 0x8300FFFF0000FFFF)) ∧
      (sizeOk (fld w 32 16) = false → exec (.mkfmt k w) s = .next s)) ∧
    (∀ n, n < 144 → ((fld (s.lane n) 0 22 ≠ 0 ∨ fld w 61 2 = 3) → exec (.lgb n w) s = .next s) ∧
      (fld (s.lane n) 0 22 = 0 → fld w 61 2 ≠ 3 → reads (.lgb n w) (0x2000 + 8 * n)
        (word64 [(61, fld w 61 3), (40, fld (s.lane n) 40 21),
          (28, if s.mg.pgLock then fld (s.lane n) 28 12 else fld w 28 12)]))) ∧
    reads (.fltcfg w) 0x8810 (word64 [(48, max 1 (fld w 48 16)), (32, max 1 (fld w 32 16)), (16, fld w 16 1), (8, fld w 8 6),
      (0, fld w 0 1)]) ∧
    reads (.katcfg w) 0x8C00 (word64 [(63, fld w 63 1), (0, max 1 (fld w 0 32))]) ∧
    reads (.hangcfg w) 0x8C20 (word64 [(61, fld w 61 3), (48, fld w 48 6), (0, max 1 (fld w 0 32))]) ∧
    exec (.registerWrite port 0 w) s = .next s ∧
    (∀ a, a < 16 → (s.mg.pgLock = true → exec (.registerWrite port (0x2A00 + 8 * a) w) s = .next s) ∧
      (s.mg.pgLock = false → reads (.registerWrite port (0x2A00 + 8 * a) w) (0x2A00 + 8 * a) (w &&& 0x8000000000000FFF))) ∧
    (∀ g, g < 256 → ((∃ a, a ∈ s.sched.launches ∧ a.graph = g) ∨ (∃ x, x ∈ s.sched.trigs ∧ fld x 56 8 = g) →
        exec (.registerWrite port (0x1000 + 8 * g) w) s = .next s) ∧
      ((∀ a, a ∈ s.sched.launches → a.graph ≠ g) → (∀ x, x ∈ s.sched.trigs → fld x 56 8 ≠ g) →
        reads (.registerWrite port (0x1000 + 8 * g) w) (0x1000 + 8 * g) (w &&& 0x8F00000000000FFF))) ∧
    (s.mg.pwrLock = false → ∃ t, exec (.pwrceil w) s = .next t ∧ t.mg.pwrTop = max s.mg.pwrTop t.mg.pwrCeil ∧
      (t.mg.pwrCeil < fld s.mg.pwrStat 0 12 → t.mg.pwrStop = true)) ∧
    reads (.registerWrite port 0x3040 w) 0x3040 (w &&& 0x81FFFF000000000F) ∧
    (∀ k, k < 128 → fld (getD 0 s.mg.msixPba port) (k / 2) 1 = 0 → reads (.registerWrite port (0x5000 + 8 * k) w) (0x5000 + 8 * k) w) ∧
    (∀ k, k < 64 → fld w 32 1 = 0 → fld (getD 0 s.mg.msixPba port) k 1 = 1 →
      ∃ t, exec (.registerWrite port (0x5000 + 16 * k + 8) w) s = .next t ∧ t.outbox = s.outbox ++ [.msix port k] ∧
        fld (t.mgmtRead port 0x5400) k 1 = 0) ∧
    (∀ k, k < 512 → s.mg.mcBusy = false → reads (.registerWrite port (0x7000 + 8 * k) w) (0x7000 + 8 * k) w) ∧
    (∀ k, k < 64 → s.mg.pgLock = true → exec (.registerWrite port (0x2B00 + 8 * k) w) s = .next s) ∧
    (∀ k j, k < 64 → j < 16 → s.mg.pgLock = false → ∃ t, exec (.registerWrite port (0x2B00 + 8 * k) w) s = .next t ∧
      fld (t.mgmtRead port (0x2B00 + 8 * k)) (4 * j) 4 =
        fld (if (s.tile (16 * k + j)).kernels = [] then w else s.mgmtRead port (0x2B00 + 8 * k)) (4 * j) 4) ∧
    (∀ k, k < 16384 → reads (.registerWrite port (0x100000 + 8 * k) w) (0x100000 + 8 * k) (rangeFields (k % 4) w)) ∧
    ∀ k, k < smEnd / 8 → ∃ t, exec (.registerWrite port (0x1000000 + 8 * k) w) s = .next t ∧ t.tiles = s.tiles ∧ t.hbm = s.hbm ∧
      ∀ x, byteAt t.sched.mem x = if 8 * k ≤ x ∧ x < 8 * k + 8 then nth (leBytes 8 w.toNat) (x - 8 * k) 0
        else byteAt s.sched.mem x

/-! ### Reset and what every step keeps -/

/-- The machine right after package reset, where the spec gives the values: no kernel is bound and every position of every wheel is
unbound, the palettes are full, every tag has its bit set, HCFG is 0x20020 and the trap registers are zero (R71, R165, R174, R297,
R462), CYCNT is 0 (R230), and the configuration registers have their reset values (R361, R504, R518, R528). That the scalar and
vector registers of a slot without a binding read zero is the model's choice (notes/assumptions/10.md). -/
def Obligations.ResetState : Prop :=
  let s := State.reset
  s.cyc = 0 ∧ s.mg.pkgnum = 0 ∧ s.mg.msEn = false ∧ s.mg.fltcfg = 0x0400004000000000 ∧ s.mg.fltcnt = 0 ∧ s.mg.pgLock = false ∧
    s.sched.trigs = [] ∧ s.sched.launches = [] ∧ QCfg.reset = ⟨0x40, false, 0⟩ ∧ s.mg.katcfg = 0x800000000000EE6B ∧
    s.mg.hangcfg = 0x8000000000004000 ∧
    ∀ n, (s.tile n).wheel = 0xFFFFFFFFFFFFFFFF ∧ (s.tile n).palette = 0x1FFFFFFFFFFF ∧ (s.tile n).tags = 0xFFFFFFFFFFFFFFFF ∧
      (s.tile n).kernels = [] ∧ ∀ k, (s.slot n k).state = .empty ∧ (s.slot n k).sysReg 0 0x20 = 0x20020 ∧
        (∀ r, (s.slot n k).regS 0 r = 0) ∧ (∀ r i, (s.slot n k).lane 0 r i = 0) ∧ (s.slot n k).sysReg 0 0x30 = 0 ∧
        (s.slot n k).tcause = 0 ∧ (s.slot n k).tepc = 0 ∧ (s.slot n k).tval = 0

/-- The two invariants hold right after reset. -/
def Obligations.InvariantsAtReset : Prop := State.reset.memOk = true ∧ State.reset.timely = true

/-- Every step keeps the canonical form of every memory. -/
def Obligations.MemoriesKeepTheirForm : Prop := ∀ s t : State, s.memOk = true → step s = .next t → t.memOk = true

/-- Every step keeps that a pending effect comes from an instruction that has issued. -/
def Obligations.PendingEffectsStayTimely : Prop := ∀ s t : State, s.timely = true → step s = .next t → t.timely = true
end

