-- ==== Sys2Proof/Laws/Dispatch.lean ====
section
/-! SUPPORT. The arms of the dispatch, one lemma for each. -/

namespace Sys2Proof.Machine

theorem exec_add (g d a b ty sat s) : exec (.add g d a b ty sat) s = execAdd g d a b ty sat s := rfl
theorem exec_addImm (g d a imm s) : exec (.addImm g d a imm) s = execAddImm g d a imm s := rfl
theorem exec_sub (g d a b ty sat s) : exec (.sub g d a b ty sat) s = execSub g d a b ty sat s := rfl
theorem exec_subImm (g d a imm s) : exec (.subImm g d a imm) s = execSubImm g d a imm s := rfl
theorem exec_mul (g d a b ty sat s) : exec (.mul g d a b ty sat) s = execMul g d a b ty sat s := rfl
theorem exec_mulImm (g d a imm s) : exec (.mulImm g d a imm) s = execMulImm g d a imm s := rfl
theorem exec_mulh (g d a b ty s) : exec (.mulh g d a b ty) s = execMulh g d a b ty s := rfl
theorem exec_div (g d a b ty s) : exec (.div g d a b ty) s = execDiv g d a b ty s := rfl
theorem exec_rem (g d a b ty s) : exec (.rem g d a b ty) s = execRem g d a b ty s := rfl
theorem exec_and (g d a b ty s) : exec (.and g d a b ty) s = execAnd g d a b ty s := rfl
theorem exec_andImm (g d a imm s) : exec (.andImm g d a imm) s = execAndImm g d a imm s := rfl
theorem exec_or (g d a b ty s) : exec (.or g d a b ty) s = execOr g d a b ty s := rfl
theorem exec_orImm (g d a imm s) : exec (.orImm g d a imm) s = execOrImm g d a imm s := rfl
theorem exec_xor (g d a b ty s) : exec (.xor g d a b ty) s = execXor g d a b ty s := rfl
theorem exec_xorImm (g d a imm s) : exec (.xorImm g d a imm) s = execXorImm g d a imm s := rfl
theorem exec_andn (g d a b ty s) : exec (.andn g d a b ty) s = execAndn g d a b ty s := rfl
theorem exec_shl (g d a b ty s) : exec (.shl g d a b ty) s = execShl g d a b ty s := rfl
theorem exec_shlImm (g d a imm s) : exec (.shlImm g d a imm) s = execShlImm g d a imm s := rfl
theorem exec_shr (g d a b ty s) : exec (.shr g d a b ty) s = execShr g d a b ty s := rfl
theorem exec_shrImm (g d a imm s) : exec (.shrImm g d a imm) s = execShrImm g d a imm s := rfl
theorem exec_sar (g d a b ty s) : exec (.sar g d a b ty) s = execSar g d a b ty s := rfl
theorem exec_sarImm (g d a imm s) : exec (.sarImm g d a imm) s = execSarImm g d a imm s := rfl
theorem exec_rotl (g d a b ty s) : exec (.rotl g d a b ty) s = execRotl g d a b ty s := rfl
theorem exec_rotlImm (g d a imm s) : exec (.rotlImm g d a imm) s = execRotlImm g d a imm s := rfl
theorem exec_min (g d a b ty s) : exec (.min g d a b ty) s = execMin g d a b ty s := rfl
theorem exec_minImm (g d a imm s) : exec (.minImm g d a imm) s = execMinImm g d a imm s := rfl
theorem exec_max (g d a b ty s) : exec (.max g d a b ty) s = execMax g d a b ty s := rfl
theorem exec_maxImm (g d a imm s) : exec (.maxImm g d a imm) s = execMaxImm g d a imm s := rfl
theorem exec_abs (g d a ty sat s) : exec (.abs g d a ty sat) s = execAbs g d a ty sat s := rfl
theorem exec_clz (g d a ty s) : exec (.clz g d a ty) s = execClz g d a ty s := rfl
theorem exec_ctz (g d a ty s) : exec (.ctz g d a ty) s = execCtz g d a ty s := rfl
theorem exec_popc (g d a ty s) : exec (.popc g d a ty) s = execPopc g d a ty s := rfl
theorem exec_bswap (g d a ty s) : exec (.bswap g d a ty) s = execBswap g d a ty s := rfl
theorem exec_bfx (g d a pos wid s) : exec (.bfx g d a pos wid) s = execBfx g d a pos wid s := rfl
theorem exec_bfi (g d a pos wid s) : exec (.bfi g d a pos wid) s = execBfi g d a pos wid s := rfl
theorem exec_lea (g d a b k s) : exec (.lea g d a b k) s = execLea g d a b k s := rfl
theorem exec_leaImm (g d a imm s) : exec (.leaImm g d a imm) s = execLeaImm g d a imm s := rfl
theorem exec_movi (g d imm s) : exec (.movi g d imm) s = execMovi g d imm s := rfl
theorem exec_movhi (g d a imm s) : exec (.movhi g d a imm) s = execMovhi g d a imm s := rfl
theorem exec_mov (g d a ty s) : exec (.mov g d a ty) s = execMov g d a ty s := rfl
theorem exec_cmp (g d a b ty cc s) : exec (.cmp g d a b ty cc) s = execCmp g d a b ty cc s := rfl
theorem exec_cmpImm (g d a cc uns imm s) : exec (.cmpImm g d a cc uns imm) s = execCmpImm g d a cc uns imm s := rfl
theorem exec_csel (g d a b p s) : exec (.csel g d a b p) s = execCsel g d a b p s := rfl
theorem exec_plog (g d a b tt s) : exec (.plog g d a b tt) s = execPlog g d a b tt s := rfl
theorem exec_pmov (g f s) : exec (.pmov g f) s = execPmov g f s := rfl
theorem exec_nop (g s) : exec (.nop g) s = execNop g s := rfl
theorem exec_br (g off s) : exec (.br g off) s = execBr g off s := rfl
theorem exec_jmp (g lc off s) : exec (.jmp g lc off) s = execJmp g lc off s := rfl
theorem exec_call (g lc off s) : exec (.call g lc off) s = execCall g lc off s := rfl
theorem exec_ret (g lc s) : exec (.ret g lc) s = execRet g lc s := rfl
theorem exec_loop (g lc off s) : exec (.loop g lc off) s = execLoop g lc off s := rfl
theorem exec_yield (g imm s) : exec (.yield g imm) s = execYield g imm s := rfl
theorem exec_sleep (g a imm s) : exec (.sleep g a imm) s = execSleep g a imm s := rfl
theorem exec_endSlot (g s) : exec (.endSlot g) s = execEndSlot g s := rfl
theorem exec_trap (g imm s) : exec (.trap g imm) s = execTrap g imm s := rfl
theorem exec_eret (g skip s) : exec (.eret g skip) s = execEret g skip s := rfl
theorem exec_mfs (g d n s) : exec (.mfs g d n) s = execMfs g d n s := rfl
theorem exec_mts (g n a s) : exec (.mts g n a) s = execMts g n a s := rfl
theorem exec_cycle (g d s) : exec (.cycle g d) s = execCycle g d s := rfl
theorem exec_time (g d s) : exec (.time g d) s = execTime g d s := rfl
theorem exec_capq (g d a s) : exec (.capq g d a) s = execCapq g d a s := rfl
theorem exec_widq (g d f k s) : exec (.widq g d f k) s = execWidq g d f k s := rfl
theorem exec_ld (g d a size sx off s) : exec (.ld g d a size sx off) s = execLd g d a size sx off s := rfl
theorem exec_st (g d a size scope off s) : exec (.st g d a size scope off) s = execSt g d a size scope off s := rfl
theorem exec_ldp (g d a size sx off s) : exec (.ldp g d a size sx off) s = execLdp g d a size sx off s := rfl
theorem exec_stp (g d a size scope off s) : exec (.stp g d a size scope off) s = execStp g d a size scope off s := rfl
theorem exec_latom (g d a b c ty op s) : exec (.latom g d a b c ty op) s = execLatom g d a b c ty op s := rfl
theorem exec_cwb (g s) : exec (.cwb g) s = execCwb g s := rfl
theorem exec_iinv (g d a off s) : exec (.iinv g d a off) s = execIinv g d a off s := rfl
theorem exec_fetchb (g s) : exec (.fetchb g) s = execFetchb g s := rfl
theorem exec_vld (g d a size sx off s) : exec (.vld g d a size sx off) s = execVld g d a size sx off s := rfl
theorem exec_vst (g d a size scope off s) : exec (.vst g d a size scope off) s = execVst g d a size scope off s := rfl
theorem exec_vlds (g d a b ty m s) : exec (.vlds g d a b ty m) s = execVlds g d a b ty m s := rfl
theorem exec_vsts (g a b c ty m s) : exec (.vsts g a b c ty m) s = execVsts g a b c ty m s := rfl
theorem exec_vgath (g d a b ty m k s) : exec (.vgath g d a b ty m k) s = execVgath g d a b ty m k s := rfl
theorem exec_vscat (g a b c ty m k s) : exec (.vscat g a b c ty m k) s = execVscat g a b c ty m k s := rfl
theorem exec_vadd (g d a b ty m s) : exec (.vadd g d a b ty m) s = execVadd g d a b ty m s := rfl
theorem exec_vsub (g d a b ty m s) : exec (.vsub g d a b ty m) s = execVsub g d a b ty m s := rfl
theorem exec_vmul (g d a b ty m s) : exec (.vmul g d a b ty m) s = execVmul g d a b ty m s := rfl
theorem exec_vfma (g d a b c ty m s) : exec (.vfma g d a b c ty m) s = execVfma g d a b c ty m s := rfl
theorem exec_vfms (g d a b c ty m s) : exec (.vfms g d a b c ty m) s = execVfms g d a b c ty m s := rfl
theorem exec_vmin (g d a b ty m s) : exec (.vmin g d a b ty m) s = execVmin g d a b ty m s := rfl
theorem exec_vmax (g d a b ty m s) : exec (.vmax g d a b ty m) s = execVmax g d a b ty m s := rfl
theorem exec_vabs (g d a ty m s) : exec (.vabs g d a ty m) s = execVabs g d a ty m s := rfl
theorem exec_vneg (g d a ty m s) : exec (.vneg g d a ty m) s = execVneg g d a ty m s := rfl
theorem exec_vcmpf (g d a b ty cc m s) : exec (.vcmpf g d a b ty cc m) s = execVcmpf g d a b ty cc m s := rfl
theorem exec_vclass (g d a ty m s) : exec (.vclass g d a ty m) s = execVclass g d a ty m s := rfl
theorem exec_vexp2 (g d a m s) : exec (.vexp2 g d a m) s = execVexp2 g d a m s := rfl
theorem exec_vlog2 (g d a m s) : exec (.vlog2 g d a m) s = execVlog2 g d a m s := rfl
theorem exec_vrcp (g d a m s) : exec (.vrcp g d a m) s = execVrcp g d a m s := rfl
theorem exec_vrsq (g d a m s) : exec (.vrsq g d a m) s = execVrsq g d a m s := rfl
theorem exec_vredadd (g d a m s) : exec (.vredadd g d a m) s = execVredadd g d a m s := rfl
theorem exec_vredmax (g d a m s) : exec (.vredmax g d a m) s = execVredmax g d a m s := rfl
theorem exec_vredmin (g d a m s) : exec (.vredmin g d a m) s = execVredmin g d a m s := rfl
theorem exec_vscan (g d a m s) : exec (.vscan g d a m) s = execVscan g d a m s := rfl
theorem exec_vcvt (g d a dst src rc m s) : exec (.vcvt g d a dst src rc m) s = execVcvt g d a dst src rc m s := rfl
theorem exec_vpack (g d a b ty scale s) : exec (.vpack g d a b ty scale) s = execVpack g d a b ty scale s := rfl
theorem exec_vunpk (g d a b ty scale s) : exec (.vunpk g d a b ty scale) s = execVunpk g d a b ty scale s := rfl
theorem exec_viadd (g d a b ty sat m s) : exec (.viadd g d a b ty sat m) s = execViadd g d a b ty sat m s := rfl
theorem exec_visub (g d a b ty sat m s) : exec (.visub g d a b ty sat m) s = execVisub g d a b ty sat m s := rfl
theorem exec_vimul (g d a b ty sat m s) : exec (.vimul g d a b ty sat m) s = execVimul g d a b ty sat m s := rfl
theorem exec_vimulh (g d a b ty m s) : exec (.vimulh g d a b ty m) s = execVimulh g d a b ty m s := rfl
theorem exec_vand (g d a b ty m s) : exec (.vand g d a b ty m) s = execVand g d a b ty m s := rfl
theorem exec_vor (g d a b ty m s) : exec (.vor g d a b ty m) s = execVor g d a b ty m s := rfl
theorem exec_vxor (g d a b ty m s) : exec (.vxor g d a b ty m) s = execVxor g d a b ty m s := rfl
theorem exec_vshl (g d a b ty m s) : exec (.vshl g d a b ty m) s = execVshl g d a b ty m s := rfl
theorem exec_vshr (g d a b ty m s) : exec (.vshr g d a b ty m) s = execVshr g d a b ty m s := rfl
theorem exec_vsar (g d a b ty m s) : exec (.vsar g d a b ty m) s = execVsar g d a b ty m s := rfl
theorem exec_vicmp (g d a b ty cc m s) : exec (.vicmp g d a b ty cc m) s = execVicmp g d a b ty cc m s := rfl
theorem exec_vimin (g d a b ty m s) : exec (.vimin g d a b ty m) s = execVimin g d a b ty m s := rfl
theorem exec_vimax (g d a b ty m s) : exec (.vimax g d a b ty m) s = execVimax g d a b ty m s := rfl
theorem exec_vired (g d a ty op m s) : exec (.vired g d a ty op m) s = execVired g d a ty op m s := rfl
theorem exec_vbcast (g d a ty m s) : exec (.vbcast g d a ty m) s = execVbcast g d a ty m s := rfl
theorem exec_vext (g d a b ty s) : exec (.vext g d a b ty) s = execVext g d a b ty s := rfl
theorem exec_vins (g d a b ty s) : exec (.vins g d a b ty) s = execVins g d a b ty s := rfl
theorem exec_vsel (g d a b c s) : exec (.vsel g d a b c) s = execVsel g d a b c s := rfl
theorem exec_vpermb (g d a b lane m s) : exec (.vpermb g d a b lane m) s = execVpermb g d a b lane m s := rfl
theorem exec_vshuf (g d a b m s) : exec (.vshuf g d a b m) s = execVshuf g d a b m s := rfl
theorem exec_vslide (g d a b c down m s) : exec (.vslide g d a b c down m) s = execVslide g d a b c down m s := rfl
theorem exec_viota (g d a m s) : exec (.viota g d a m) s = execViota g d a m s := rfl
theorem exec_mlog (g d a b tt s) : exec (.mlog g d a b tt) s = execMlog g d a b tt s := rfl
theorem exec_mfirst (g d a s) : exec (.mfirst g d a) s = execMfirst g d a s := rfl
theorem exec_mpopc (g d a s) : exec (.mpopc g d a) s = execMpopc g d a s := rfl
theorem exec_mset (g d a b first s) : exec (.mset g d a b first) s = execMset g d a b first s := rfl
theorem exec_mget (g d a hi s) : exec (.mget g d a hi) s = execMget g d a hi s := rfl
theorem exec_pld (g d a b ty uns npl q s) : exec (.pld g d a b ty uns npl q) s = execPld g d a b ty uns npl q s := rfl
theorem exec_pldv (g d a b ty uns npl q s) : exec (.pldv g d a b ty uns npl q) s = execPldv g d a b ty uns npl q s := rfl
theorem exec_az (g acc q s) : exec (.az g acc q) s = execAz g acc q s := rfl
theorem exec_mma (g a b acc wa npl ua ub bs nb q s) : exec (.mma g a b acc wa npl ua ub bs nb q) s = execMma g a b acc wa npl ua ub bs nb q s :=
  rfl
theorem exec_ard (g a b acc q s) : exec (.ard g a b acc q) s = execArd g a b acc q s := rfl
theorem exec_awr (g a b acc q s) : exec (.awr g a b acc q) s = execAwr g a b acc q s := rfl
theorem exec_ascl (g a acc q s) : exec (.ascl g a acc q) s = execAscl g a acc q s := rfl
theorem exec_arowmax (g a b acc q s) : exec (.arowmax g a b acc q) s = execArowmax g a b acc q s := rfl
theorem exec_aexp (g a acc q s) : exec (.aexp g a acc q) s = execAexp g a acc q s := rfl
theorem exec_arowsum (g a b acc q s) : exec (.arowsum g a b acc q) s = execArowsum g a b acc q s := rfl
theorem exec_acvt (g a acc uns npl q s) : exec (.acvt g a acc uns npl q) s = execAcvt g a acc uns npl q s := rfl
theorem exec_amask (g a b acc q s) : exec (.amask g a b acc q) s = execAmask g a b acc q s := rfl
theorem exec_attv (g d a b acc wa npl ub mk d128 q s) : exec (.attv g d a b acc wa npl ub mk d128 q) s = execAttv g d a b acc wa npl ub mk d128 q s :=
  rfl
theorem exec_acmb (g d a b acc d128 q s) : exec (.acmb g d a b acc d128 q) s = execAcmb g d a b acc d128 q s := rfl
theorem exec_anrm (g a acc d128 q s) : exec (.anrm g a acc d128 q) s = execAnrm g a acc d128 q s := rfl
theorem exec_tsend (g a b q s) : exec (.tsend g a b q) s = execTsend g a b q s := rfl
theorem exec_tfwd (g l b q s) : exec (.tfwd g l b q) s = execTfwd g l b q s := rfl
theorem exec_tfork (g d l b q s) : exec (.tfork g d l b q) s = execTfork g d l b q s := rfl
theorem exec_tjoin (g d l s) : exec (.tjoin g d l) s = execTjoin g d l s := rfl
theorem exec_ttake (g d l word rel s) : exec (.ttake g d l word rel) s = execTtake g d l word rel s := rfl
theorem exec_hret (g s) : exec (.hret g) s = execHret g s := rfl
theorem exec_hset (g a b s) : exec (.hset g a b) s = execHset g a b s := rfl
theorem exec_hmsk (g a b s) : exec (.hmsk g a b) s = execHmsk g a b s := rfl
theorem exec_eos (g a q s) : exec (.eos g a q) s = execEos g a q s := rfl
theorem exec_cfgld (g a b q s) : exec (.cfgld g a b q) s = execCfgld g a b q s := rfl
theorem exec_cfgswap (g s) : exec (.cfgswap g) s = execCfgswap g s := rfl
theorem exec_drainq (g d s) : exec (.drainq g d) s = execDrainq g d s := rfl
theorem exec_shlk (g d a b q s) : exec (.shlk g d a b q) s = execShlk g d a b q s := rfl
theorem exec_shmap (g d a b new q s) : exec (.shmap g d a b new q) s = execShmap g d a b new q s := rfl
theorem exec_shunmap (g d a b cond q s) : exec (.shunmap g d a b cond q) s = execShunmap g d a b cond q s := rfl
theorem exec_shref (g d a b dec q s) : exec (.shref g d a b dec q) s = execShref g d a b dec q s := rfl
theorem exec_cpy (g d a b e q s) : exec (.cpy g d a b e q) s = execCpy g d a b e q s := rfl
theorem exec_cpy2 (g d e q s) : exec (.cpy2 g d e q) s = execCpy2 g d e q s := rfl
theorem exec_cpyl (g d a e q s) : exec (.cpyl g d a e q) s = execCpyl g d a e q s := rfl
theorem exec_cpyc (g d e q s) : exec (.cpyc g d e q) s = execCpyc g d e q s := rfl
theorem exec_fill (g d a b e q s) : exec (.fill g d a b e q) s = execFill g d a b e q s := rfl
theorem exec_qfence (g a e q s) : exec (.qfence g a e q) s = execQfence g a e q s := rfl
theorem exec_twait (g a tag any s) : exec (.twait g a tag any) s = execTwait g a tag any s := rfl
theorem exec_tfirst (g d a s) : exec (.tfirst g d a) s = execTfirst g d a s := rfl
theorem exec_tclr (g a s) : exec (.tclr g a) s = execTclr g a s := rfl
theorem exec_bkinit (g k d a s) : exec (.bkinit g k d a) s = execBkinit g k d a s := rfl
theorem exec_bkaw (g k d once s) : exec (.bkaw g k d once) s = execBkaw g k d once s := rfl
theorem exec_bkpost (g k a b s) : exec (.bkpost g k a b) s = execBkpost g k a b s := rfl
theorem exec_bkrel (g k a s) : exec (.bkrel g k a) s = execBkrel g k a s := rfl
theorem exec_rst (g d a size s) : exec (.rst g d a size) s = execRst g d a size s := rfl
theorem exec_rat (g d a op size comb s) : exec (.rat g d a op size comb) s = execRat g d a op size comb s := rfl
theorem exec_ratf (g d a b op size q s) : exec (.ratf g d a b op size q) s = execRatf g d a b op size q s := rfl
theorem exec_rld (g d a size q s) : exec (.rld g d a size q) s = execRld g d a size q s := rfl
theorem exec_hflush (g d all q s) : exec (.hflush g d all q) s = execHflush g d all q s := rfl
theorem exec_hcfg (g a s) : exec (.hcfg g a) s = execHcfg g a s := rfl
theorem exec_hstat (g d a dst s) : exec (.hstat g d a dst) s = execHstat g d a dst s := rfl
theorem exec_fence (g k scope s) : exec (.fence g k scope) s = execFence g k scope s := rfl
theorem exec_bari (g d a mem q s) : exec (.bari g d a mem q) s = execBari g d a mem q s := rfl
theorem exec_bara (g d mem q s) : exec (.bara g d mem q) s = execBara g d mem q s := rfl
theorem exec_barw (g d mem s) : exec (.barw g d mem) s = execBarw g d mem s := rfl
theorem exec_waitm (g d a cc s) : exec (.waitm g d a cc) s = execWaitm g d a cc s := rfl
theorem exec_phase (g s) : exec (.phase g) s = execPhase g s := rfl
theorem exec_prep (g s) : exec (.prep g) s = execPrep g s := rfl
theorem exec_keep (g d a plain s) : exec (.keep g d a plain) s = execKeep g d a plain s := rfl
theorem exec_disc (g d a s) : exec (.disc g d a) s = execDisc g d a s := rfl
theorem exec_nred (g d a b op size q s) : exec (.nred g d a b op size q) s = execNred g d a b op size q s := rfl
theorem exec_nbcast (g d a b size root q s) : exec (.nbcast g d a b size root q) s = execNbcast g d a b size root q s := rfl
theorem exec_landingCycle (site slot s) : exec (.landingCycle site slot) s = execLandingCycle site slot s := rfl
theorem exec_holdExpiry (site slot s) : exec (.holdExpiry site slot) s = execHoldExpiry site slot s := rfl
theorem exec_slotWake (site slot s) : exec (.slotWake site slot) s = execSlotWake site slot s := rfl
theorem exec_backedRetry (site slot s) : exec (.backedRetry site slot) s = execBackedRetry site slot s := rfl
theorem exec_handlerSelection (site slot s) : exec (.handlerSelection site slot) s = execHandlerSelection site slot s := rfl
theorem exec_handlerAged (site entry s) : exec (.handlerAged site entry) s = execHandlerAged site entry s := rfl
theorem exec_handlerOverrun (site slot s) : exec (.handlerOverrun site slot) s = execHandlerOverrun site slot s := rfl
theorem exec_arrivalCounts (site s) : exec (.arrivalCounts site) s = execArrivalCounts site s := rfl
theorem exec_claimRequest (n s) : exec (.claimRequest n) s = execClaimRequest n s := rfl
theorem exec_claimGrant (site basket s) : exec (.claimGrant site basket) s = execClaimGrant site basket s := rfl
theorem exec_tokenSendPerform (site n s) : exec (.tokenSendPerform site n) s = execTokenSendPerform site n s := rfl
theorem exec_insertionStage (site s) : exec (.insertionStage site) s = execInsertionStage site s := rfl
theorem exec_hamperAgeTrigger (site h s) : exec (.hamperAgeTrigger site h) s = execHamperAgeTrigger site h s := rfl
theorem exec_handOff (site s) : exec (.handOff site) s = execHandOff site s := rfl
theorem exec_hamperPacketPerform (n s) : exec (.hamperPacketPerform n) s = execHamperPacketPerform n s := rfl
theorem exec_hamperAcknowledgement (n s) : exec (.hamperAcknowledgement n) s = execHamperAcknowledgement n s := rfl
theorem exec_enginePortForward (site s) : exec (.enginePortForward site) s = execEnginePortForward site s := rfl
theorem exec_engineCommandComplete (eng queue ext s) : exec (.engineCommandComplete eng queue ext) s = execEngineCommandComplete eng queue ext s :=
  rfl
theorem exec_arrayEntryComplete (site residue s) : exec (.arrayEntryComplete site residue) s = execArrayEntryComplete site residue s :=
  rfl
theorem exec_networkCommandExecute (site s) : exec (.networkCommandExecute site) s = execNetworkCommandExecute site s := rfl
theorem exec_cfgldComplete (site ext s) : exec (.cfgldComplete site ext) s = execCfgldComplete site ext s := rfl
theorem exec_shardOperation (site s) : exec (.shardOperation site) s = execShardOperation site s := rfl
theorem exec_remoteRequestPerform (n s) : exec (.remoteRequestPerform n) s = execRemoteRequestPerform n s := rfl
theorem exec_remoteRequestResponse (n s) : exec (.remoteRequestResponse n) s = execRemoteRequestResponse n s := rfl
theorem exec_barrierInitAtHome (n s) : exec (.barrierInitAtHome n) s = execBarrierInitAtHome n s := rfl
theorem exec_barrierArrivalAtHome (n s) : exec (.barrierArrivalAtHome n) s = execBarrierArrivalAtHome n s := rfl
theorem exec_barrierPoll (site id s) : exec (.barrierPoll site id) s = execBarrierPoll site id s := rfl
theorem exec_barrierWaitRequest (site id s) : exec (.barrierWaitRequest site id) s = execBarrierWaitRequest site id s := rfl
theorem exec_collectiveComplete (region level index ext s) : exec (.collectiveComplete region level index ext) s = execCollectiveComplete region level index ext s :=
  rfl
theorem exec_collectiveBroken (region level index s) : exec (.collectiveBroken region level index) s = execCollectiveBroken region level index s :=
  rfl
theorem exec_monitorReread (site mon s) : exec (.monitorReread site mon) s = execMonitorReread site mon s := rfl
theorem exec_phaseComplete (region s) : exec (.phaseComplete region) s = execPhaseComplete region s := rfl
theorem exec_configurationSwap (region s) : exec (.configurationSwap region) s = execConfigurationSwap region s := rfl
theorem exec_strayAfterSwap (site input s) : exec (.strayAfterSwap site input) s = execStrayAfterSwap site input s := rfl
theorem exec_operandPacketDelivery (site route s) : exec (.operandPacketDelivery site route) s = execOperandPacketDelivery site route s :=
  rfl
theorem exec_endOfStreamDelivery (site route s) : exec (.endOfStreamDelivery site route) s = execEndOfStreamDelivery site route s :=
  rfl
theorem exec_kernelCompletion (region s) : exec (.kernelCompletion region) s = execKernelCompletion region s := rfl
theorem exec_faultDelivery (site slot s) : exec (.faultDelivery site slot) s = execFaultDelivery site slot s := rfl
theorem exec_deferredTrap (site slot s) : exec (.deferredTrap site slot) s = execDeferredTrap site slot s := rfl
theorem exec_sequentialPcFault (site slot s) : exec (.sequentialPcFault site slot) s = execSequentialPcFault site slot s := rfl
theorem exec_compactTimeout (l node s) : exec (.compactTimeout l node) s = execCompactTimeout l node s := rfl
theorem exec_savePoint (l node site s) : exec (.savePoint l node site) s = execSavePoint l node site s := rfl
theorem exec_oldestAnnounce (l ext s) : exec (.oldestAnnounce l ext) s = execOldestAnnounce l ext s := rfl
theorem exec_bypassedSliceEmptied (site lost s) : exec (.bypassedSliceEmptied site lost) s = execBypassedSliceEmptied site lost s :=
  rfl
theorem exec_packageReset (tests s) : exec (.packageReset tests) s = execPackageReset tests s := rfl
theorem exec_firmwareReady (s) : exec (.firmwareReady) s = execFirmwareReady s := rfl
theorem exec_fabricPacketArrival (m s) : exec (.fabricPacketArrival m) s = execFabricPacketArrival m s := rfl
theorem exec_indeterminateDeclaration (site id s) : exec (.indeterminateDeclaration site id) s = execIndeterminateDeclaration site id s :=
  rfl
theorem exec_heldPacketResend (pkg s) : exec (.heldPacketResend pkg) s = execHeldPacketResend pkg s := rfl
theorem exec_xfcmdRetry (n s) : exec (.xfcmdRetry n) s = execXfcmdRetry n s := rfl
theorem exec_xfcmdDecline (n s) : exec (.xfcmdDecline n) s = execXfcmdDecline n s := rfl
theorem exec_lateCommandCompletion (eng queue ext s) : exec (.lateCommandCompletion eng queue ext) s = execLateCommandCompletion eng queue ext s :=
  rfl
theorem exec_schtrig (w s) : exec (.schtrig w) s = execSchtrig w s := rfl
theorem exec_launch (sigma s) : exec (.launch sigma) s = execLaunch sigma s := rfl
theorem exec_launchNotice (n s) : exec (.launchNotice n) s = execLaunchNotice n s := rfl
theorem exec_placePartRequest (l node s) : exec (.placePartRequest l node) s = execPlacePartRequest l node s := rfl
theorem exec_startNotice (l node pods s) : exec (.startNotice l node pods) s = execStartNotice l node pods s := rfl
theorem exec_releaseNotice (l node s) : exec (.releaseNotice l node) s = execReleaseNotice l node s := rfl
theorem exec_partCompletionReport (r s) : exec (.partCompletionReport r) s = execPartCompletionReport r s := rfl
theorem exec_selectionRound (s) : exec (.selectionRound) s = execSelectionRound s := rfl
theorem exec_schpreFull (w s) : exec (.schpreFull w) s = execSchpreFull w s := rfl
theorem exec_schpreCompact (w s) : exec (.schpreCompact w) s = execSchpreCompact w s := rfl
theorem exec_schpreWithdraw (w s) : exec (.schpreWithdraw w) s = execSchpreWithdraw w s := rfl
theorem exec_preemptionStop (l node s) : exec (.preemptionStop l node) s = execPreemptionStop l node s := rfl
theorem exec_schres (w s) : exec (.schres w) s = execSchres w s := rfl
theorem exec_restoration (l node s) : exec (.restoration l node) s = execRestoration l node s := rfl
theorem exec_testRound (site r s) : exec (.testRound site r) s = execTestRound site r s := rfl
theorem exec_htest (w s) : exec (.htest w) s = execHtest w s := rfl
theorem exec_hostTestRun (r s) : exec (.hostTestRun r) s = execHostTestRun r s := rfl
theorem exec_hangSweep (s) : exec (.hangSweep) s = execHangSweep s := rfl
theorem exec_patrolScrub (p uncorrectable s) : exec (.patrolScrub p uncorrectable) s = execPatrolScrub p uncorrectable s := rfl
theorem exec_flitParityRetry (f s) : exec (.flitParityRetry f) s = execFlitParityRetry f s := rfl
theorem exec_routerFailure (site s) : exec (.routerFailure site) s = execRouterFailure site s := rfl
theorem exec_routingTableRewrite (s) : exec (.routingTableRewrite) s = execRoutingTableRewrite s := rfl
theorem exec_prst (w s) : exec (.prst w) s = execPrst w s := rfl
theorem exec_linkReplay (n s) : exec (.linkReplay n) s = execLinkReplay n s := rfl
theorem exec_linkTrained (n peer plg s) : exec (.linkTrained n peer plg) s = execLinkTrained n peer plg s := rfl
theorem exec_fabricPortDown (n s) : exec (.fabricPortDown n) s = execFabricPortDown n s := rfl
theorem exec_hostLinkDown (port s) : exec (.hostLinkDown port) s = execHostLinkDown port s := rfl
theorem exec_hostLinkRetrain (port s) : exec (.hostLinkRetrain port) s = execHostLinkRetrain port s := rfl
theorem exec_apertureRead (port off size ext s) : exec (.apertureRead port off size ext) s = execApertureRead port off size ext s :=
  rfl
theorem exec_apertureWrite (port off data ep s) : exec (.apertureWrite port off data ep) s = execApertureWrite port off data ep s :=
  rfl
theorem exec_apertureAtomic (port off op size data swap ext s) : exec (.apertureAtomic port off op size data swap ext) s = execApertureAtomic port off op size data swap ext s :=
  rfl
theorem exec_hostCompletionTimeout (eng queue ext s) : exec (.hostCompletionTimeout eng queue ext) s = execHostCompletionTimeout eng queue ext s :=
  rfl
theorem exec_powerWindow (r s) : exec (.powerWindow r) s = execPowerWindow r s := rfl
theorem exec_thermalTrip (tj s) : exec (.thermalTrip tj) s = execThermalTrip tj s := rfl
theorem exec_markFrame (eng queue ext s) : exec (.markFrame eng queue ext) s = execMarkFrame eng queue ext s := rfl
theorem exec_mscfgEnable (w s) : exec (.mscfgEnable w) s = execMscfgEnable w s := rfl
theorem exec_mscfgDisable (w s) : exec (.mscfgDisable w) s = execMscfgDisable w s := rfl
theorem exec_cacheWritebackDone (s) : exec (.cacheWritebackDone) s = execCacheWritebackDone s := rfl
theorem exec_vsplit (n w s) : exec (.vsplit n w) s = execVsplit n w s := rfl
theorem exec_pkgnum (w s) : exec (.pkgnum w) s = execPkgnum w s := rfl
theorem exec_ivqPage (w s) : exec (.ivqPage w) s = execIvqPage w s := rfl
theorem exec_ivqRange (w s) : exec (.ivqRange w) s = execIvqRange w s := rfl
theorem exec_ivqSpace (w s) : exec (.ivqSpace w) s = execIvqSpace w s := rfl
theorem exec_ivqAll (w s) : exec (.ivqAll w) s = execIvqAll w s := rfl
theorem exec_ivqAcknowledge (s) : exec (.ivqAcknowledge) s = execIvqAcknowledge s := rfl
theorem exec_hwin (port k word w s) : exec (.hwin port k word w) s = execHwin port k word w s := rfl
theorem exec_pgctl (w s) : exec (.pgctl w) s = execPgctl w s := rfl
theorem exec_pwrceil (w s) : exec (.pwrceil w) s = execPwrceil w s := rfl
theorem exec_lnklim (w s) : exec (.lnklim w) s = execLnklim w s := rfl
theorem exec_mkfmt (stage w s) : exec (.mkfmt stage w) s = execMkfmt stage w s := rfl
theorem exec_lgb (n w s) : exec (.lgb n w) s = execLgb n w s := rfl
theorem exec_attest (w s) : exec (.attest w) s = execAttest w s := rfl
theorem exec_extend (w s) : exec (.extend w) s = execExtend w s := rfl
theorem exec_keyload (w s) : exec (.keyload w) s = execKeyload w s := rfl
theorem exec_markkey (w s) : exec (.markkey w) s = execMarkkey w s := rfl
theorem exec_recoveryImage (w s) : exec (.recoveryImage w) s = execRecoveryImage w s := rfl
theorem exec_fltcfg (w s) : exec (.fltcfg w) s = execFltcfg w s := rfl
theorem exec_katcfg (w s) : exec (.katcfg w) s = execKatcfg w s := rfl
theorem exec_hangcfg (w s) : exec (.hangcfg w) s = execHangcfg w s := rfl
theorem exec_registerWrite (port off w s) : exec (.registerWrite port off w) s = execRegisterWrite port off w s := rfl

end Sys2Proof.Machine
end

