-- ==== Sys2Proof/Laws/Maps.lean ====
section
/-!
SUPPORT. The laws of the stores indexed by a number and of the memories: reading after writing, and that every memory
operation keeps the canonical form.
-/

namespace Sys2Proof.Machine

/-! ### Stores -/

@[simp] theorem getD_put_self {α : Type} (d x : α) (k : Nat) (l : Sparse α) : getD d (put k x l) k = x := by
  induction l with
  | nil => simp [put, getD]
  | cons c t ih =>
    obtain ⟨j, y⟩ := c
    by_cases h : j = k
    · simp [put, getD, h]
    · by_cases h2 : k < j <;> simp [put, getD, h, h2, ih]

theorem getD_put_of_ne {α : Type} (d x : α) {k j : Nat} (h : j ≠ k) (l : Sparse α) : getD d (put k x l) j = getD d l j := by
  induction l with
  | nil => simp [put, getD, Ne.symm h]
  | cons c t ih =>
    obtain ⟨i, y⟩ := c
    by_cases hk : i = k
    · subst hk; simp [put, getD, Ne.symm h]
    · by_cases h2 : k < i
      · simp [put, getD, hk, h2, Ne.symm h]
      · simp [put, getD, hk, h2, ih]

theorem getD_put {α : Type} (d x : α) (k j : Nat) (l : Sparse α) :
    getD d (put k x l) j = if j = k then x else getD d l j := by
  by_cases h : j = k
  · simp [h]
  · simp [h, getD_put_of_ne d x h l]

theorem getD_erase_self {α : Type} (d : α) (k : Nat) (l : Sparse α) : getD d (erase k l) k = d := by
  induction l with
  | nil => rfl
  | cons c t ih =>
    obtain ⟨j, y⟩ := c
    unfold erase at ih ⊢
    by_cases hk : j = k
    · simp [hk, ih]
    · simp [hk, getD, ih]

theorem getD_erase_of_ne {α : Type} (d : α) {k j : Nat} (h : j ≠ k) (l : Sparse α) : getD d (erase k l) j = getD d l j := by
  induction l with
  | nil => rfl
  | cons c t ih =>
    obtain ⟨i, y⟩ := c
    unfold erase at ih ⊢
    by_cases hk : i = k
    · subst hk; simp [getD, Ne.symm h, ih]
    · simp [hk, getD, ih]

theorem getD_putD {α : Type} [DecidableEq α] (d x : α) (k j : Nat) (l : Sparse α) :
    getD d (putD d k x l) j = if j = k then x else getD d l j := by
  unfold putD
  by_cases hx : x = d
  · by_cases hj : j = k
    · simp [hx, hj, getD_erase_self]
    · simp [hx, hj, getD_erase_of_ne d hj]
  · simp [hx, getD_put]

/-! ### Rising keys -/

/-- Every key of a store lies above a bound. -/
def above {α : Type} (b : Nat) (l : Sparse α) : Prop := ∀ c ∈ l, b < c.1

theorem rising_cons {α : Type} (c : Nat × α) (t : Sparse α) : rising (c :: t) = true ↔ above c.1 t ∧ rising t = true := by
  induction t generalizing c with
  | nil => simp [rising, above]
  | cons e u ih =>
    obtain ⟨j, x⟩ := c
    obtain ⟨k, y⟩ := e
    simp only [rising, Bool.and_eq_true, decide_eq_true_eq, ih, above, List.mem_cons, forall_eq_or_imp]
    constructor
    · rintro ⟨h, h2, h3⟩
      exact ⟨⟨h, fun c hc => Nat.lt_trans h (h2 c hc)⟩, h2, h3⟩
    · rintro ⟨⟨h, _⟩, h2, h3⟩
      exact ⟨h, h2, h3⟩

theorem getD_of_above {α : Type} (d : α) {k : Nat} {l : Sparse α} (h : above k l) : getD d l k = d := by
  induction l with
  | nil => rfl
  | cons c t ih =>
    have h1 := h c (by simp)
    simp only [getD]
    rw [if_neg (by omega)]
    exact ih fun e he => h e (by simp [he])

theorem mem_put {α : Type} {k : Nat} {x : α} {l : Sparse α} {c : Nat × α} (h : c ∈ put k x l) : c = (k, x) ∨ c ∈ l := by
  induction l with
  | nil => simpa [put] using h
  | cons e t ih =>
    obtain ⟨j, y⟩ := e
    by_cases hj : j = k
    · simp only [put, hj, if_true, List.mem_cons] at h ⊢
      rcases h with h | h
      · exact .inl h
      · exact .inr (.inr h)
    · by_cases hk : k < j
      · simpa [put, hj, hk] using h
      · simp only [put, hj, hk, if_false, List.mem_cons] at h ⊢
        rcases h with h | h
        · exact .inr (.inl h)
        · rcases ih h with h | h
          · exact .inl h
          · exact .inr (.inr h)

theorem mem_erase {α : Type} {k : Nat} {l : Sparse α} {c : Nat × α} (h : c ∈ erase k l) : c ∈ l := (List.mem_filter.1 h).1

theorem rising_put {α : Type} (k : Nat) (x : α) {l : Sparse α} (h : rising l = true) : rising (put k x l) = true := by
  induction l with
  | nil => simp [put, rising]
  | cons c t ih =>
    obtain ⟨j, y⟩ := c
    rw [rising_cons] at h
    simp only [put]
    split
    · next e => subst e; exact (rising_cons _ _).2 h
    · split
      · next hk =>
        refine (rising_cons _ _).2 ⟨?_, (rising_cons _ _).2 h⟩
        intro c hc
        simp only [List.mem_cons] at hc
        rcases hc with rfl | hc
        · exact hk
        · exact Nat.lt_trans hk (h.1 c hc)
      · refine (rising_cons _ _).2 ⟨?_, ih h.2⟩
        intro c hc
        rcases mem_put hc with rfl | hc
        · simp only; omega
        · exact h.1 c hc

theorem rising_filter {α : Type} (p : Nat × α → Bool) {l : Sparse α} (h : rising l = true) : rising (l.filter p) = true := by
  induction l with
  | nil => rfl
  | cons c t ih =>
    rw [rising_cons] at h
    rw [List.filter_cons]
    split
    · refine (rising_cons _ _).2 ⟨?_, ih h.2⟩
      intro e he
      exact h.1 e (List.mem_filter.1 he).1
    · exact ih h.2

theorem rising_erase {α : Type} (k : Nat) {l : Sparse α} (h : rising l = true) : rising (erase k l) = true := rising_filter _ h

/-! ### Memories keep their canonical form -/

theorem wf_iff (m : List Host.Cell) : Memory.wf m = true ↔ rising m = true ∧ ∀ c ∈ m, c.2 ≠ 0 := by
  simp [Memory.wf]

theorem wf_nil : Memory.wf [] = true := rfl

theorem wf_setByte {m : List Host.Cell} (a : Nat) (b : Byte) (h : Memory.wf m = true) : Memory.wf (setByte m a b) = true := by
  rw [wf_iff] at h ⊢
  unfold setByte putD
  split
  · exact ⟨rising_erase a h.1, fun c hc => h.2 c (mem_erase hc)⟩
  · next hb =>
    refine ⟨rising_put a b h.1, fun c hc => ?_⟩
    rcases mem_put hc with rfl | hc
    · exact hb
    · exact h.2 c hc

theorem wf_setBytes {m : List Host.Cell} (a : Nat) (l : List Byte) (h : Memory.wf m = true) : Memory.wf (setBytes m a l) = true := by
  induction l generalizing m a with
  | nil => exact h
  | cons b t ih => exact ih (a + 1) (wf_setByte a b h)

theorem wf_storeNat {m : List Host.Cell} (a n x : Nat) (h : Memory.wf m = true) : Memory.wf (storeNat m a n x) = true :=
  wf_setBytes a _ h

theorem wf_filter {m : List Host.Cell} (p : Host.Cell → Bool) (h : Memory.wf m = true) : Memory.wf (m.filter p) = true := by
  rw [wf_iff] at h ⊢
  exact ⟨rising_filter p h.1, fun c hc => h.2 c (List.mem_filter.1 hc).1⟩

theorem wf_zeroRange {m : List Host.Cell} (lo n : Nat) (h : Memory.wf m = true) : Memory.wf (zeroRange m lo n) = true :=
  wf_filter _ h

/-! ### Reading after writing -/

theorem byteAt_setByte (m : List Host.Cell) (a x : Nat) (b : Byte) :
    byteAt (setByte m a b) x = if x = a then b else byteAt m x := getD_putD 0 b a x m

/-- A byte read after a write of some bytes. -/
theorem byteAt_setBytes (m : List Host.Cell) (a x : Nat) (l : List Byte) :
    byteAt (setBytes m a l) x = if a ≤ x ∧ x < a + l.length then nth l (x - a) 0 else byteAt m x := by
  induction l generalizing m a with
  | nil =>
    have h : ¬(a ≤ x ∧ x < a + ([] : List Byte).length) := by rw [List.length_nil]; omega
    rw [if_neg h]; rfl
  | cons b t ih =>
    simp only [setBytes, List.length_cons]
    rw [ih, byteAt_setByte]
    by_cases h1 : x = a
    · subst h1; rw [if_neg (by omega), if_pos rfl, if_pos (by omega)]; simp [nth]
    · by_cases h2 : a + 1 ≤ x ∧ x < a + 1 + t.length
      · rw [if_pos h2, if_pos ⟨by omega, by omega⟩]
        have : x - a = (x - (a + 1)) + 1 := by omega
        simp [nth, this]
      · rw [if_neg h2, if_neg h1, if_neg (by omega)]

/-- Every byte outside a write reads as before. -/
theorem byteAt_setBytes_outside {m : List Host.Cell} {a x : Nat} {l : List Byte} (hx : x < a ∨ a + l.length ≤ x) :
    byteAt (setBytes m a l) x = byteAt m x := by
  rw [byteAt_setBytes, if_neg (by omega)]

/-- Two memories in canonical form with the same bytes are the same memory. -/
theorem wf_ext {m n : List Host.Cell} (hm : Memory.wf m = true) (hn : Memory.wf n = true) (h : ∀ x, byteAt m x = byteAt n x) :
    m = n := by
  rw [wf_iff] at hm hn
  induction m generalizing n with
  | nil =>
    cases n with
    | nil => rfl
    | cons c t =>
      exfalso
      have := h c.1
      simp only [byteAt, getD, if_true] at this
      exact hn.2 c (by simp) this.symm
  | cons c t ih =>
    cases n with
    | nil =>
      exfalso
      have := h c.1
      simp only [byteAt, getD, if_true] at this
      exact hm.2 c (by simp) this
    | cons e u =>
      obtain ⟨i, x⟩ := c
      obtain ⟨j, y⟩ := e
      rw [rising_cons] at hm hn
      have hx : x ≠ 0 := hm.2 (i, x) (by simp)
      have hy : y ≠ 0 := hn.2 (j, y) (by simp)
      have hij : i = j := by
        rcases Nat.lt_trichotomy i j with hlt | heq | hgt
        · exfalso
          have := h i
          simp only [byteAt, getD, if_true] at this
          rw [if_neg (by omega), getD_of_above 0 (fun c hc => Nat.lt_trans hlt (hn.1.1 c hc))] at this
          exact hx this
        · exact heq
        · exfalso
          have := h j
          simp only [byteAt, getD, if_true] at this
          rw [if_neg (by omega), getD_of_above 0 (fun c hc => Nat.lt_trans hgt (hm.1.1 c hc))] at this
          exact hy this.symm
      subst hij
      have hxy : x = y := by simpa [byteAt, getD] using h i
      subst hxy
      rw [ih (n := u) ⟨hm.1.2, fun c hc => hm.2 c (List.mem_cons_of_mem _ hc)⟩
        ⟨hn.1.2, fun c hc => hn.2 c (List.mem_cons_of_mem _ hc)⟩ ?_]
      intro z
      by_cases hz : i = z
      · subst hz
        simp only [byteAt]
        rw [getD_of_above 0 hm.1.1, getD_of_above 0 hn.1.1]
      · have := h z
        simpa [byteAt, getD, hz] using this

end Sys2Proof.Machine
end

