-- ==== Sys2Proof/Laws/State.lean ====
section
/-!
SUPPORT. One lemma for each field of the state and of a tile under each named update: what the update leaves alone, and what
it puts there.
-/

namespace Sys2Proof.Machine

/-! ### State.setTile -/

@[simp] theorem State.setTile_cyc (s : State) (n : Nat) (t : Tile) : (s.setTile n t).cyc = s.cyc := rfl
@[simp] theorem State.setTile_vault (s : State) (n : Nat) (t : Tile) : (s.setTile n t).vault = s.vault := rfl
@[simp] theorem State.setTile_vaultPoison (s : State) (n : Nat) (t : Tile) : (s.setTile n t).vaultPoison = s.vaultPoison := rfl
@[simp] theorem State.setTile_hbm (s : State) (n : Nat) (t : Tile) : (s.setTile n t).hbm = s.hbm := rfl
@[simp] theorem State.setTile_hbmPoison (s : State) (n : Nat) (t : Tile) : (s.setTile n t).hbmPoison = s.hbmPoison := rfl
@[simp] theorem State.setTile_hbmLost (s : State) (n : Nat) (t : Tile) : (s.setTile n t).hbmLost = s.hbmLost := rfl
@[simp] theorem State.setTile_hbmKey (s : State) (n : Nat) (t : Tile) : (s.setTile n t).hbmKey = s.hbmKey := rfl
@[simp] theorem State.setTile_hbmDirty (s : State) (n : Nat) (t : Tile) : (s.setTile n t).hbmDirty = s.hbmDirty := rfl
@[simp] theorem State.setTile_hostPoison (s : State) (n : Nat) (t : Tile) : (s.setTile n t).hostPoison = s.hostPoison := rfl
@[simp] theorem State.setTile_host0 (s : State) (n : Nat) (t : Tile) : (s.setTile n t).host0 = s.host0 := rfl
@[simp] theorem State.setTile_host1 (s : State) (n : Nat) (t : Tile) : (s.setTile n t).host1 = s.host1 := rfl
@[simp] theorem State.setTile_engines (s : State) (n : Nat) (t : Tile) : (s.setTile n t).engines = s.engines := rfl
@[simp] theorem State.setTile_nextCmd (s : State) (n : Nat) (t : Tile) : (s.setTile n t).nextCmd = s.nextCmd := rfl
@[simp] theorem State.setTile_seqOut (s : State) (n : Nat) (t : Tile) : (s.setTile n t).seqOut = s.seqOut := rfl
@[simp] theorem State.setTile_winBase (s : State) (n : Nat) (t : Tile) : (s.setTile n t).winBase = s.winBase := rfl
@[simp] theorem State.setTile_winSeen (s : State) (n : Nat) (t : Tile) : (s.setTile n t).winSeen = s.winSeen := rfl
@[simp] theorem State.setTile_winFails (s : State) (n : Nat) (t : Tile) : (s.setTile n t).winFails = s.winFails := rfl
@[simp] theorem State.setTile_winLost (s : State) (n : Nat) (t : Tile) : (s.setTile n t).winLost = s.winLost := rfl
@[simp] theorem State.setTile_answered (s : State) (n : Nat) (t : Tile) : (s.setTile n t).answered = s.answered := rfl
@[simp] theorem State.setTile_hostAcks (s : State) (n : Nat) (t : Tile) : (s.setTile n t).hostAcks = s.hostAcks := rfl
@[simp] theorem State.setTile_sched (s : State) (n : Nat) (t : Tile) : (s.setTile n t).sched = s.sched := rfl
@[simp] theorem State.setTile_mg (s : State) (n : Nat) (t : Tile) : (s.setTile n t).mg = s.mg := rfl
@[simp] theorem State.setTile_curSite (s : State) (n : Nat) (t : Tile) : (s.setTile n t).curSite = s.curSite := rfl
@[simp] theorem State.setTile_curSlot (s : State) (n : Nat) (t : Tile) : (s.setTile n t).curSlot = s.curSlot := rfl
@[simp] theorem State.setTile_agenda (s : State) (n : Nat) (t : Tile) : (s.setTile n t).agenda = s.agenda := rfl
@[simp] theorem State.setTile_todo (s : State) (n : Nat) (t : Tile) : (s.setTile n t).todo = s.todo := rfl
@[simp] theorem State.setTile_issues (s : State) (n : Nat) (t : Tile) : (s.setTile n t).issues = s.issues := rfl
@[simp] theorem State.setTile_late (s : State) (n : Nat) (t : Tile) : (s.setTile n t).late = s.late := rfl
@[simp] theorem State.setTile_free (s : State) (n : Nat) (t : Tile) : (s.setTile n t).free = s.free := rfl
@[simp] theorem State.setTile_wire (s : State) (n : Nat) (t : Tile) : (s.setTile n t).wire = s.wire := rfl
@[simp] theorem State.setTile_heldMsgs (s : State) (n : Nat) (t : Tile) : (s.setTile n t).heldMsgs = s.heldMsgs := rfl
@[simp] theorem State.setTile_nextMsg (s : State) (n : Nat) (t : Tile) : (s.setTile n t).nextMsg = s.nextMsg := rfl
@[simp] theorem State.setTile_outbox (s : State) (n : Nat) (t : Tile) : (s.setTile n t).outbox = s.outbox := rfl

/-! ### State.modTile -/

@[simp] theorem State.modTile_cyc (s : State) (n : Nat) (f : Tile → Tile) : (s.modTile n f).cyc = s.cyc := rfl
@[simp] theorem State.modTile_vault (s : State) (n : Nat) (f : Tile → Tile) : (s.modTile n f).vault = s.vault := rfl
@[simp] theorem State.modTile_vaultPoison (s : State) (n : Nat) (f : Tile → Tile) : (s.modTile n f).vaultPoison = s.vaultPoison := rfl
@[simp] theorem State.modTile_hbm (s : State) (n : Nat) (f : Tile → Tile) : (s.modTile n f).hbm = s.hbm := rfl
@[simp] theorem State.modTile_hbmPoison (s : State) (n : Nat) (f : Tile → Tile) : (s.modTile n f).hbmPoison = s.hbmPoison := rfl
@[simp] theorem State.modTile_hbmLost (s : State) (n : Nat) (f : Tile → Tile) : (s.modTile n f).hbmLost = s.hbmLost := rfl
@[simp] theorem State.modTile_hbmKey (s : State) (n : Nat) (f : Tile → Tile) : (s.modTile n f).hbmKey = s.hbmKey := rfl
@[simp] theorem State.modTile_hbmDirty (s : State) (n : Nat) (f : Tile → Tile) : (s.modTile n f).hbmDirty = s.hbmDirty := rfl
@[simp] theorem State.modTile_hostPoison (s : State) (n : Nat) (f : Tile → Tile) : (s.modTile n f).hostPoison = s.hostPoison := rfl
@[simp] theorem State.modTile_host0 (s : State) (n : Nat) (f : Tile → Tile) : (s.modTile n f).host0 = s.host0 := rfl
@[simp] theorem State.modTile_host1 (s : State) (n : Nat) (f : Tile → Tile) : (s.modTile n f).host1 = s.host1 := rfl
@[simp] theorem State.modTile_engines (s : State) (n : Nat) (f : Tile → Tile) : (s.modTile n f).engines = s.engines := rfl
@[simp] theorem State.modTile_nextCmd (s : State) (n : Nat) (f : Tile → Tile) : (s.modTile n f).nextCmd = s.nextCmd := rfl
@[simp] theorem State.modTile_seqOut (s : State) (n : Nat) (f : Tile → Tile) : (s.modTile n f).seqOut = s.seqOut := rfl
@[simp] theorem State.modTile_winBase (s : State) (n : Nat) (f : Tile → Tile) : (s.modTile n f).winBase = s.winBase := rfl
@[simp] theorem State.modTile_winSeen (s : State) (n : Nat) (f : Tile → Tile) : (s.modTile n f).winSeen = s.winSeen := rfl
@[simp] theorem State.modTile_winFails (s : State) (n : Nat) (f : Tile → Tile) : (s.modTile n f).winFails = s.winFails := rfl
@[simp] theorem State.modTile_winLost (s : State) (n : Nat) (f : Tile → Tile) : (s.modTile n f).winLost = s.winLost := rfl
@[simp] theorem State.modTile_answered (s : State) (n : Nat) (f : Tile → Tile) : (s.modTile n f).answered = s.answered := rfl
@[simp] theorem State.modTile_hostAcks (s : State) (n : Nat) (f : Tile → Tile) : (s.modTile n f).hostAcks = s.hostAcks := rfl
@[simp] theorem State.modTile_sched (s : State) (n : Nat) (f : Tile → Tile) : (s.modTile n f).sched = s.sched := rfl
@[simp] theorem State.modTile_mg (s : State) (n : Nat) (f : Tile → Tile) : (s.modTile n f).mg = s.mg := rfl
@[simp] theorem State.modTile_curSite (s : State) (n : Nat) (f : Tile → Tile) : (s.modTile n f).curSite = s.curSite := rfl
@[simp] theorem State.modTile_curSlot (s : State) (n : Nat) (f : Tile → Tile) : (s.modTile n f).curSlot = s.curSlot := rfl
@[simp] theorem State.modTile_agenda (s : State) (n : Nat) (f : Tile → Tile) : (s.modTile n f).agenda = s.agenda := rfl
@[simp] theorem State.modTile_todo (s : State) (n : Nat) (f : Tile → Tile) : (s.modTile n f).todo = s.todo := rfl
@[simp] theorem State.modTile_issues (s : State) (n : Nat) (f : Tile → Tile) : (s.modTile n f).issues = s.issues := rfl
@[simp] theorem State.modTile_late (s : State) (n : Nat) (f : Tile → Tile) : (s.modTile n f).late = s.late := rfl
@[simp] theorem State.modTile_free (s : State) (n : Nat) (f : Tile → Tile) : (s.modTile n f).free = s.free := rfl
@[simp] theorem State.modTile_wire (s : State) (n : Nat) (f : Tile → Tile) : (s.modTile n f).wire = s.wire := rfl
@[simp] theorem State.modTile_heldMsgs (s : State) (n : Nat) (f : Tile → Tile) : (s.modTile n f).heldMsgs = s.heldMsgs := rfl
@[simp] theorem State.modTile_nextMsg (s : State) (n : Nat) (f : Tile → Tile) : (s.modTile n f).nextMsg = s.nextMsg := rfl
@[simp] theorem State.modTile_outbox (s : State) (n : Nat) (f : Tile → Tile) : (s.modTile n f).outbox = s.outbox := rfl

/-! ### State.modSlot -/

@[simp] theorem State.modSlot_cyc (s : State) (n k : Nat) (f : Slot → Slot) : (s.modSlot n k f).cyc = s.cyc := rfl
@[simp] theorem State.modSlot_vault (s : State) (n k : Nat) (f : Slot → Slot) : (s.modSlot n k f).vault = s.vault := rfl
@[simp] theorem State.modSlot_vaultPoison (s : State) (n k : Nat) (f : Slot → Slot) : (s.modSlot n k f).vaultPoison = s.vaultPoison := rfl
@[simp] theorem State.modSlot_hbm (s : State) (n k : Nat) (f : Slot → Slot) : (s.modSlot n k f).hbm = s.hbm := rfl
@[simp] theorem State.modSlot_hbmPoison (s : State) (n k : Nat) (f : Slot → Slot) : (s.modSlot n k f).hbmPoison = s.hbmPoison := rfl
@[simp] theorem State.modSlot_hbmLost (s : State) (n k : Nat) (f : Slot → Slot) : (s.modSlot n k f).hbmLost = s.hbmLost := rfl
@[simp] theorem State.modSlot_hbmKey (s : State) (n k : Nat) (f : Slot → Slot) : (s.modSlot n k f).hbmKey = s.hbmKey := rfl
@[simp] theorem State.modSlot_hbmDirty (s : State) (n k : Nat) (f : Slot → Slot) : (s.modSlot n k f).hbmDirty = s.hbmDirty := rfl
@[simp] theorem State.modSlot_hostPoison (s : State) (n k : Nat) (f : Slot → Slot) : (s.modSlot n k f).hostPoison = s.hostPoison := rfl
@[simp] theorem State.modSlot_host0 (s : State) (n k : Nat) (f : Slot → Slot) : (s.modSlot n k f).host0 = s.host0 := rfl
@[simp] theorem State.modSlot_host1 (s : State) (n k : Nat) (f : Slot → Slot) : (s.modSlot n k f).host1 = s.host1 := rfl
@[simp] theorem State.modSlot_engines (s : State) (n k : Nat) (f : Slot → Slot) : (s.modSlot n k f).engines = s.engines := rfl
@[simp] theorem State.modSlot_nextCmd (s : State) (n k : Nat) (f : Slot → Slot) : (s.modSlot n k f).nextCmd = s.nextCmd := rfl
@[simp] theorem State.modSlot_seqOut (s : State) (n k : Nat) (f : Slot → Slot) : (s.modSlot n k f).seqOut = s.seqOut := rfl
@[simp] theorem State.modSlot_winBase (s : State) (n k : Nat) (f : Slot → Slot) : (s.modSlot n k f).winBase = s.winBase := rfl
@[simp] theorem State.modSlot_winSeen (s : State) (n k : Nat) (f : Slot → Slot) : (s.modSlot n k f).winSeen = s.winSeen := rfl
@[simp] theorem State.modSlot_winFails (s : State) (n k : Nat) (f : Slot → Slot) : (s.modSlot n k f).winFails = s.winFails := rfl
@[simp] theorem State.modSlot_winLost (s : State) (n k : Nat) (f : Slot → Slot) : (s.modSlot n k f).winLost = s.winLost := rfl
@[simp] theorem State.modSlot_answered (s : State) (n k : Nat) (f : Slot → Slot) : (s.modSlot n k f).answered = s.answered := rfl
@[simp] theorem State.modSlot_hostAcks (s : State) (n k : Nat) (f : Slot → Slot) : (s.modSlot n k f).hostAcks = s.hostAcks := rfl
@[simp] theorem State.modSlot_sched (s : State) (n k : Nat) (f : Slot → Slot) : (s.modSlot n k f).sched = s.sched := rfl
@[simp] theorem State.modSlot_mg (s : State) (n k : Nat) (f : Slot → Slot) : (s.modSlot n k f).mg = s.mg := rfl
@[simp] theorem State.modSlot_curSite (s : State) (n k : Nat) (f : Slot → Slot) : (s.modSlot n k f).curSite = s.curSite := rfl
@[simp] theorem State.modSlot_curSlot (s : State) (n k : Nat) (f : Slot → Slot) : (s.modSlot n k f).curSlot = s.curSlot := rfl
@[simp] theorem State.modSlot_agenda (s : State) (n k : Nat) (f : Slot → Slot) : (s.modSlot n k f).agenda = s.agenda := rfl
@[simp] theorem State.modSlot_todo (s : State) (n k : Nat) (f : Slot → Slot) : (s.modSlot n k f).todo = s.todo := rfl
@[simp] theorem State.modSlot_issues (s : State) (n k : Nat) (f : Slot → Slot) : (s.modSlot n k f).issues = s.issues := rfl
@[simp] theorem State.modSlot_late (s : State) (n k : Nat) (f : Slot → Slot) : (s.modSlot n k f).late = s.late := rfl
@[simp] theorem State.modSlot_free (s : State) (n k : Nat) (f : Slot → Slot) : (s.modSlot n k f).free = s.free := rfl
@[simp] theorem State.modSlot_wire (s : State) (n k : Nat) (f : Slot → Slot) : (s.modSlot n k f).wire = s.wire := rfl
@[simp] theorem State.modSlot_heldMsgs (s : State) (n k : Nat) (f : Slot → Slot) : (s.modSlot n k f).heldMsgs = s.heldMsgs := rfl
@[simp] theorem State.modSlot_nextMsg (s : State) (n k : Nat) (f : Slot → Slot) : (s.modSlot n k f).nextMsg = s.nextMsg := rfl
@[simp] theorem State.modSlot_outbox (s : State) (n k : Nat) (f : Slot → Slot) : (s.modSlot n k f).outbox = s.outbox := rfl

/-! ### State.modMe -/

@[simp] theorem State.modMe_cyc (s : State) (f : Slot → Slot) : (s.modMe f).cyc = s.cyc := rfl
@[simp] theorem State.modMe_vault (s : State) (f : Slot → Slot) : (s.modMe f).vault = s.vault := rfl
@[simp] theorem State.modMe_vaultPoison (s : State) (f : Slot → Slot) : (s.modMe f).vaultPoison = s.vaultPoison := rfl
@[simp] theorem State.modMe_hbm (s : State) (f : Slot → Slot) : (s.modMe f).hbm = s.hbm := rfl
@[simp] theorem State.modMe_hbmPoison (s : State) (f : Slot → Slot) : (s.modMe f).hbmPoison = s.hbmPoison := rfl
@[simp] theorem State.modMe_hbmLost (s : State) (f : Slot → Slot) : (s.modMe f).hbmLost = s.hbmLost := rfl
@[simp] theorem State.modMe_hbmKey (s : State) (f : Slot → Slot) : (s.modMe f).hbmKey = s.hbmKey := rfl
@[simp] theorem State.modMe_hbmDirty (s : State) (f : Slot → Slot) : (s.modMe f).hbmDirty = s.hbmDirty := rfl
@[simp] theorem State.modMe_hostPoison (s : State) (f : Slot → Slot) : (s.modMe f).hostPoison = s.hostPoison := rfl
@[simp] theorem State.modMe_host0 (s : State) (f : Slot → Slot) : (s.modMe f).host0 = s.host0 := rfl
@[simp] theorem State.modMe_host1 (s : State) (f : Slot → Slot) : (s.modMe f).host1 = s.host1 := rfl
@[simp] theorem State.modMe_engines (s : State) (f : Slot → Slot) : (s.modMe f).engines = s.engines := rfl
@[simp] theorem State.modMe_nextCmd (s : State) (f : Slot → Slot) : (s.modMe f).nextCmd = s.nextCmd := rfl
@[simp] theorem State.modMe_seqOut (s : State) (f : Slot → Slot) : (s.modMe f).seqOut = s.seqOut := rfl
@[simp] theorem State.modMe_winBase (s : State) (f : Slot → Slot) : (s.modMe f).winBase = s.winBase := rfl
@[simp] theorem State.modMe_winSeen (s : State) (f : Slot → Slot) : (s.modMe f).winSeen = s.winSeen := rfl
@[simp] theorem State.modMe_winFails (s : State) (f : Slot → Slot) : (s.modMe f).winFails = s.winFails := rfl
@[simp] theorem State.modMe_winLost (s : State) (f : Slot → Slot) : (s.modMe f).winLost = s.winLost := rfl
@[simp] theorem State.modMe_answered (s : State) (f : Slot → Slot) : (s.modMe f).answered = s.answered := rfl
@[simp] theorem State.modMe_hostAcks (s : State) (f : Slot → Slot) : (s.modMe f).hostAcks = s.hostAcks := rfl
@[simp] theorem State.modMe_sched (s : State) (f : Slot → Slot) : (s.modMe f).sched = s.sched := rfl
@[simp] theorem State.modMe_mg (s : State) (f : Slot → Slot) : (s.modMe f).mg = s.mg := rfl
@[simp] theorem State.modMe_curSite (s : State) (f : Slot → Slot) : (s.modMe f).curSite = s.curSite := rfl
@[simp] theorem State.modMe_curSlot (s : State) (f : Slot → Slot) : (s.modMe f).curSlot = s.curSlot := rfl
@[simp] theorem State.modMe_agenda (s : State) (f : Slot → Slot) : (s.modMe f).agenda = s.agenda := rfl
@[simp] theorem State.modMe_todo (s : State) (f : Slot → Slot) : (s.modMe f).todo = s.todo := rfl
@[simp] theorem State.modMe_issues (s : State) (f : Slot → Slot) : (s.modMe f).issues = s.issues := rfl
@[simp] theorem State.modMe_late (s : State) (f : Slot → Slot) : (s.modMe f).late = s.late := rfl
@[simp] theorem State.modMe_free (s : State) (f : Slot → Slot) : (s.modMe f).free = s.free := rfl
@[simp] theorem State.modMe_wire (s : State) (f : Slot → Slot) : (s.modMe f).wire = s.wire := rfl
@[simp] theorem State.modMe_heldMsgs (s : State) (f : Slot → Slot) : (s.modMe f).heldMsgs = s.heldMsgs := rfl
@[simp] theorem State.modMe_nextMsg (s : State) (f : Slot → Slot) : (s.modMe f).nextMsg = s.nextMsg := rfl
@[simp] theorem State.modMe_outbox (s : State) (f : Slot → Slot) : (s.modMe f).outbox = s.outbox := rfl

/-! ### State.modHere -/

@[simp] theorem State.modHere_cyc (s : State) (f : Tile → Tile) : (s.modHere f).cyc = s.cyc := rfl
@[simp] theorem State.modHere_vault (s : State) (f : Tile → Tile) : (s.modHere f).vault = s.vault := rfl
@[simp] theorem State.modHere_vaultPoison (s : State) (f : Tile → Tile) : (s.modHere f).vaultPoison = s.vaultPoison := rfl
@[simp] theorem State.modHere_hbm (s : State) (f : Tile → Tile) : (s.modHere f).hbm = s.hbm := rfl
@[simp] theorem State.modHere_hbmPoison (s : State) (f : Tile → Tile) : (s.modHere f).hbmPoison = s.hbmPoison := rfl
@[simp] theorem State.modHere_hbmLost (s : State) (f : Tile → Tile) : (s.modHere f).hbmLost = s.hbmLost := rfl
@[simp] theorem State.modHere_hbmKey (s : State) (f : Tile → Tile) : (s.modHere f).hbmKey = s.hbmKey := rfl
@[simp] theorem State.modHere_hbmDirty (s : State) (f : Tile → Tile) : (s.modHere f).hbmDirty = s.hbmDirty := rfl
@[simp] theorem State.modHere_hostPoison (s : State) (f : Tile → Tile) : (s.modHere f).hostPoison = s.hostPoison := rfl
@[simp] theorem State.modHere_host0 (s : State) (f : Tile → Tile) : (s.modHere f).host0 = s.host0 := rfl
@[simp] theorem State.modHere_host1 (s : State) (f : Tile → Tile) : (s.modHere f).host1 = s.host1 := rfl
@[simp] theorem State.modHere_engines (s : State) (f : Tile → Tile) : (s.modHere f).engines = s.engines := rfl
@[simp] theorem State.modHere_nextCmd (s : State) (f : Tile → Tile) : (s.modHere f).nextCmd = s.nextCmd := rfl
@[simp] theorem State.modHere_seqOut (s : State) (f : Tile → Tile) : (s.modHere f).seqOut = s.seqOut := rfl
@[simp] theorem State.modHere_winBase (s : State) (f : Tile → Tile) : (s.modHere f).winBase = s.winBase := rfl
@[simp] theorem State.modHere_winSeen (s : State) (f : Tile → Tile) : (s.modHere f).winSeen = s.winSeen := rfl
@[simp] theorem State.modHere_winFails (s : State) (f : Tile → Tile) : (s.modHere f).winFails = s.winFails := rfl
@[simp] theorem State.modHere_winLost (s : State) (f : Tile → Tile) : (s.modHere f).winLost = s.winLost := rfl
@[simp] theorem State.modHere_answered (s : State) (f : Tile → Tile) : (s.modHere f).answered = s.answered := rfl
@[simp] theorem State.modHere_hostAcks (s : State) (f : Tile → Tile) : (s.modHere f).hostAcks = s.hostAcks := rfl
@[simp] theorem State.modHere_sched (s : State) (f : Tile → Tile) : (s.modHere f).sched = s.sched := rfl
@[simp] theorem State.modHere_mg (s : State) (f : Tile → Tile) : (s.modHere f).mg = s.mg := rfl
@[simp] theorem State.modHere_curSite (s : State) (f : Tile → Tile) : (s.modHere f).curSite = s.curSite := rfl
@[simp] theorem State.modHere_curSlot (s : State) (f : Tile → Tile) : (s.modHere f).curSlot = s.curSlot := rfl
@[simp] theorem State.modHere_agenda (s : State) (f : Tile → Tile) : (s.modHere f).agenda = s.agenda := rfl
@[simp] theorem State.modHere_todo (s : State) (f : Tile → Tile) : (s.modHere f).todo = s.todo := rfl
@[simp] theorem State.modHere_issues (s : State) (f : Tile → Tile) : (s.modHere f).issues = s.issues := rfl
@[simp] theorem State.modHere_late (s : State) (f : Tile → Tile) : (s.modHere f).late = s.late := rfl
@[simp] theorem State.modHere_free (s : State) (f : Tile → Tile) : (s.modHere f).free = s.free := rfl
@[simp] theorem State.modHere_wire (s : State) (f : Tile → Tile) : (s.modHere f).wire = s.wire := rfl
@[simp] theorem State.modHere_heldMsgs (s : State) (f : Tile → Tile) : (s.modHere f).heldMsgs = s.heldMsgs := rfl
@[simp] theorem State.modHere_nextMsg (s : State) (f : Tile → Tile) : (s.modHere f).nextMsg = s.nextMsg := rfl
@[simp] theorem State.modHere_outbox (s : State) (f : Tile → Tile) : (s.modHere f).outbox = s.outbox := rfl

/-! ### State.modKern -/

@[simp] theorem State.modKern_cyc (s : State) (f : Kernel → Kernel) : (s.modKern f).cyc = s.cyc := rfl
@[simp] theorem State.modKern_vault (s : State) (f : Kernel → Kernel) : (s.modKern f).vault = s.vault := rfl
@[simp] theorem State.modKern_vaultPoison (s : State) (f : Kernel → Kernel) : (s.modKern f).vaultPoison = s.vaultPoison := rfl
@[simp] theorem State.modKern_hbm (s : State) (f : Kernel → Kernel) : (s.modKern f).hbm = s.hbm := rfl
@[simp] theorem State.modKern_hbmPoison (s : State) (f : Kernel → Kernel) : (s.modKern f).hbmPoison = s.hbmPoison := rfl
@[simp] theorem State.modKern_hbmLost (s : State) (f : Kernel → Kernel) : (s.modKern f).hbmLost = s.hbmLost := rfl
@[simp] theorem State.modKern_hbmKey (s : State) (f : Kernel → Kernel) : (s.modKern f).hbmKey = s.hbmKey := rfl
@[simp] theorem State.modKern_hbmDirty (s : State) (f : Kernel → Kernel) : (s.modKern f).hbmDirty = s.hbmDirty := rfl
@[simp] theorem State.modKern_hostPoison (s : State) (f : Kernel → Kernel) : (s.modKern f).hostPoison = s.hostPoison := rfl
@[simp] theorem State.modKern_host0 (s : State) (f : Kernel → Kernel) : (s.modKern f).host0 = s.host0 := rfl
@[simp] theorem State.modKern_host1 (s : State) (f : Kernel → Kernel) : (s.modKern f).host1 = s.host1 := rfl
@[simp] theorem State.modKern_engines (s : State) (f : Kernel → Kernel) : (s.modKern f).engines = s.engines := rfl
@[simp] theorem State.modKern_nextCmd (s : State) (f : Kernel → Kernel) : (s.modKern f).nextCmd = s.nextCmd := rfl
@[simp] theorem State.modKern_seqOut (s : State) (f : Kernel → Kernel) : (s.modKern f).seqOut = s.seqOut := rfl
@[simp] theorem State.modKern_winBase (s : State) (f : Kernel → Kernel) : (s.modKern f).winBase = s.winBase := rfl
@[simp] theorem State.modKern_winSeen (s : State) (f : Kernel → Kernel) : (s.modKern f).winSeen = s.winSeen := rfl
@[simp] theorem State.modKern_winFails (s : State) (f : Kernel → Kernel) : (s.modKern f).winFails = s.winFails := rfl
@[simp] theorem State.modKern_winLost (s : State) (f : Kernel → Kernel) : (s.modKern f).winLost = s.winLost := rfl
@[simp] theorem State.modKern_answered (s : State) (f : Kernel → Kernel) : (s.modKern f).answered = s.answered := rfl
@[simp] theorem State.modKern_hostAcks (s : State) (f : Kernel → Kernel) : (s.modKern f).hostAcks = s.hostAcks := rfl
@[simp] theorem State.modKern_sched (s : State) (f : Kernel → Kernel) : (s.modKern f).sched = s.sched := rfl
@[simp] theorem State.modKern_mg (s : State) (f : Kernel → Kernel) : (s.modKern f).mg = s.mg := rfl
@[simp] theorem State.modKern_curSite (s : State) (f : Kernel → Kernel) : (s.modKern f).curSite = s.curSite := rfl
@[simp] theorem State.modKern_curSlot (s : State) (f : Kernel → Kernel) : (s.modKern f).curSlot = s.curSlot := rfl
@[simp] theorem State.modKern_agenda (s : State) (f : Kernel → Kernel) : (s.modKern f).agenda = s.agenda := rfl
@[simp] theorem State.modKern_todo (s : State) (f : Kernel → Kernel) : (s.modKern f).todo = s.todo := rfl
@[simp] theorem State.modKern_issues (s : State) (f : Kernel → Kernel) : (s.modKern f).issues = s.issues := rfl
@[simp] theorem State.modKern_late (s : State) (f : Kernel → Kernel) : (s.modKern f).late = s.late := rfl
@[simp] theorem State.modKern_free (s : State) (f : Kernel → Kernel) : (s.modKern f).free = s.free := rfl
@[simp] theorem State.modKern_wire (s : State) (f : Kernel → Kernel) : (s.modKern f).wire = s.wire := rfl
@[simp] theorem State.modKern_heldMsgs (s : State) (f : Kernel → Kernel) : (s.modKern f).heldMsgs = s.heldMsgs := rfl
@[simp] theorem State.modKern_nextMsg (s : State) (f : Kernel → Kernel) : (s.modKern f).nextMsg = s.nextMsg := rfl
@[simp] theorem State.modKern_outbox (s : State) (f : Kernel → Kernel) : (s.modKern f).outbox = s.outbox := rfl

/-! ### State.pendMe -/

@[simp] theorem State.pendMe_cyc (s : State) (l : Nat) (e : PEffect) : (s.pendMe l e).cyc = s.cyc := rfl
@[simp] theorem State.pendMe_vault (s : State) (l : Nat) (e : PEffect) : (s.pendMe l e).vault = s.vault := rfl
@[simp] theorem State.pendMe_vaultPoison (s : State) (l : Nat) (e : PEffect) : (s.pendMe l e).vaultPoison = s.vaultPoison := rfl
@[simp] theorem State.pendMe_hbm (s : State) (l : Nat) (e : PEffect) : (s.pendMe l e).hbm = s.hbm := rfl
@[simp] theorem State.pendMe_hbmPoison (s : State) (l : Nat) (e : PEffect) : (s.pendMe l e).hbmPoison = s.hbmPoison := rfl
@[simp] theorem State.pendMe_hbmLost (s : State) (l : Nat) (e : PEffect) : (s.pendMe l e).hbmLost = s.hbmLost := rfl
@[simp] theorem State.pendMe_hbmKey (s : State) (l : Nat) (e : PEffect) : (s.pendMe l e).hbmKey = s.hbmKey := rfl
@[simp] theorem State.pendMe_hbmDirty (s : State) (l : Nat) (e : PEffect) : (s.pendMe l e).hbmDirty = s.hbmDirty := rfl
@[simp] theorem State.pendMe_hostPoison (s : State) (l : Nat) (e : PEffect) : (s.pendMe l e).hostPoison = s.hostPoison := rfl
@[simp] theorem State.pendMe_host0 (s : State) (l : Nat) (e : PEffect) : (s.pendMe l e).host0 = s.host0 := rfl
@[simp] theorem State.pendMe_host1 (s : State) (l : Nat) (e : PEffect) : (s.pendMe l e).host1 = s.host1 := rfl
@[simp] theorem State.pendMe_engines (s : State) (l : Nat) (e : PEffect) : (s.pendMe l e).engines = s.engines := rfl
@[simp] theorem State.pendMe_nextCmd (s : State) (l : Nat) (e : PEffect) : (s.pendMe l e).nextCmd = s.nextCmd := rfl
@[simp] theorem State.pendMe_seqOut (s : State) (l : Nat) (e : PEffect) : (s.pendMe l e).seqOut = s.seqOut := rfl
@[simp] theorem State.pendMe_winBase (s : State) (l : Nat) (e : PEffect) : (s.pendMe l e).winBase = s.winBase := rfl
@[simp] theorem State.pendMe_winSeen (s : State) (l : Nat) (e : PEffect) : (s.pendMe l e).winSeen = s.winSeen := rfl
@[simp] theorem State.pendMe_winFails (s : State) (l : Nat) (e : PEffect) : (s.pendMe l e).winFails = s.winFails := rfl
@[simp] theorem State.pendMe_winLost (s : State) (l : Nat) (e : PEffect) : (s.pendMe l e).winLost = s.winLost := rfl
@[simp] theorem State.pendMe_answered (s : State) (l : Nat) (e : PEffect) : (s.pendMe l e).answered = s.answered := rfl
@[simp] theorem State.pendMe_hostAcks (s : State) (l : Nat) (e : PEffect) : (s.pendMe l e).hostAcks = s.hostAcks := rfl
@[simp] theorem State.pendMe_sched (s : State) (l : Nat) (e : PEffect) : (s.pendMe l e).sched = s.sched := rfl
@[simp] theorem State.pendMe_mg (s : State) (l : Nat) (e : PEffect) : (s.pendMe l e).mg = s.mg := rfl
@[simp] theorem State.pendMe_curSite (s : State) (l : Nat) (e : PEffect) : (s.pendMe l e).curSite = s.curSite := rfl
@[simp] theorem State.pendMe_curSlot (s : State) (l : Nat) (e : PEffect) : (s.pendMe l e).curSlot = s.curSlot := rfl
@[simp] theorem State.pendMe_agenda (s : State) (l : Nat) (e : PEffect) : (s.pendMe l e).agenda = s.agenda := rfl
@[simp] theorem State.pendMe_todo (s : State) (l : Nat) (e : PEffect) : (s.pendMe l e).todo = s.todo := rfl
@[simp] theorem State.pendMe_issues (s : State) (l : Nat) (e : PEffect) : (s.pendMe l e).issues = s.issues := rfl
@[simp] theorem State.pendMe_late (s : State) (l : Nat) (e : PEffect) : (s.pendMe l e).late = s.late := rfl
@[simp] theorem State.pendMe_free (s : State) (l : Nat) (e : PEffect) : (s.pendMe l e).free = s.free := rfl
@[simp] theorem State.pendMe_wire (s : State) (l : Nat) (e : PEffect) : (s.pendMe l e).wire = s.wire := rfl
@[simp] theorem State.pendMe_heldMsgs (s : State) (l : Nat) (e : PEffect) : (s.pendMe l e).heldMsgs = s.heldMsgs := rfl
@[simp] theorem State.pendMe_nextMsg (s : State) (l : Nat) (e : PEffect) : (s.pendMe l e).nextMsg = s.nextMsg := rfl
@[simp] theorem State.pendMe_outbox (s : State) (l : Nat) (e : PEffect) : (s.pendMe l e).outbox = s.outbox := rfl

/-! ### State.retireTo -/

@[simp] theorem State.retireTo_cyc (s : State) (h p : Nat) : (s.retireTo h p).cyc = s.cyc := rfl
@[simp] theorem State.retireTo_vault (s : State) (h p : Nat) : (s.retireTo h p).vault = s.vault := rfl
@[simp] theorem State.retireTo_vaultPoison (s : State) (h p : Nat) : (s.retireTo h p).vaultPoison = s.vaultPoison := rfl
@[simp] theorem State.retireTo_hbm (s : State) (h p : Nat) : (s.retireTo h p).hbm = s.hbm := rfl
@[simp] theorem State.retireTo_hbmPoison (s : State) (h p : Nat) : (s.retireTo h p).hbmPoison = s.hbmPoison := rfl
@[simp] theorem State.retireTo_hbmLost (s : State) (h p : Nat) : (s.retireTo h p).hbmLost = s.hbmLost := rfl
@[simp] theorem State.retireTo_hbmKey (s : State) (h p : Nat) : (s.retireTo h p).hbmKey = s.hbmKey := rfl
@[simp] theorem State.retireTo_hbmDirty (s : State) (h p : Nat) : (s.retireTo h p).hbmDirty = s.hbmDirty := rfl
@[simp] theorem State.retireTo_hostPoison (s : State) (h p : Nat) : (s.retireTo h p).hostPoison = s.hostPoison := rfl
@[simp] theorem State.retireTo_host0 (s : State) (h p : Nat) : (s.retireTo h p).host0 = s.host0 := rfl
@[simp] theorem State.retireTo_host1 (s : State) (h p : Nat) : (s.retireTo h p).host1 = s.host1 := rfl
@[simp] theorem State.retireTo_engines (s : State) (h p : Nat) : (s.retireTo h p).engines = s.engines := rfl
@[simp] theorem State.retireTo_nextCmd (s : State) (h p : Nat) : (s.retireTo h p).nextCmd = s.nextCmd := rfl
@[simp] theorem State.retireTo_seqOut (s : State) (h p : Nat) : (s.retireTo h p).seqOut = s.seqOut := rfl
@[simp] theorem State.retireTo_winBase (s : State) (h p : Nat) : (s.retireTo h p).winBase = s.winBase := rfl
@[simp] theorem State.retireTo_winSeen (s : State) (h p : Nat) : (s.retireTo h p).winSeen = s.winSeen := rfl
@[simp] theorem State.retireTo_winFails (s : State) (h p : Nat) : (s.retireTo h p).winFails = s.winFails := rfl
@[simp] theorem State.retireTo_winLost (s : State) (h p : Nat) : (s.retireTo h p).winLost = s.winLost := rfl
@[simp] theorem State.retireTo_answered (s : State) (h p : Nat) : (s.retireTo h p).answered = s.answered := rfl
@[simp] theorem State.retireTo_hostAcks (s : State) (h p : Nat) : (s.retireTo h p).hostAcks = s.hostAcks := rfl
@[simp] theorem State.retireTo_sched (s : State) (h p : Nat) : (s.retireTo h p).sched = s.sched := rfl
@[simp] theorem State.retireTo_mg (s : State) (h p : Nat) : (s.retireTo h p).mg = s.mg := rfl
@[simp] theorem State.retireTo_curSite (s : State) (h p : Nat) : (s.retireTo h p).curSite = s.curSite := rfl
@[simp] theorem State.retireTo_curSlot (s : State) (h p : Nat) : (s.retireTo h p).curSlot = s.curSlot := rfl
@[simp] theorem State.retireTo_agenda (s : State) (h p : Nat) : (s.retireTo h p).agenda = s.agenda := rfl
@[simp] theorem State.retireTo_todo (s : State) (h p : Nat) : (s.retireTo h p).todo = s.todo := rfl
@[simp] theorem State.retireTo_issues (s : State) (h p : Nat) : (s.retireTo h p).issues = s.issues := rfl
@[simp] theorem State.retireTo_late (s : State) (h p : Nat) : (s.retireTo h p).late = s.late := rfl
@[simp] theorem State.retireTo_free (s : State) (h p : Nat) : (s.retireTo h p).free = s.free := rfl
@[simp] theorem State.retireTo_wire (s : State) (h p : Nat) : (s.retireTo h p).wire = s.wire := rfl
@[simp] theorem State.retireTo_heldMsgs (s : State) (h p : Nat) : (s.retireTo h p).heldMsgs = s.heldMsgs := rfl
@[simp] theorem State.retireTo_nextMsg (s : State) (h p : Nat) : (s.retireTo h p).nextMsg = s.nextMsg := rfl
@[simp] theorem State.retireTo_outbox (s : State) (h p : Nat) : (s.retireTo h p).outbox = s.outbox := rfl

/-! ### State.access -/

@[simp] theorem State.access_cyc (s : State) (tr : Trace) (a : LAct) : (s.access tr a).cyc = s.cyc := rfl
@[simp] theorem State.access_vault (s : State) (tr : Trace) (a : LAct) : (s.access tr a).vault = s.vault := rfl
@[simp] theorem State.access_vaultPoison (s : State) (tr : Trace) (a : LAct) : (s.access tr a).vaultPoison = s.vaultPoison := rfl
@[simp] theorem State.access_hbm (s : State) (tr : Trace) (a : LAct) : (s.access tr a).hbm = s.hbm := rfl
@[simp] theorem State.access_hbmPoison (s : State) (tr : Trace) (a : LAct) : (s.access tr a).hbmPoison = s.hbmPoison := rfl
@[simp] theorem State.access_hbmLost (s : State) (tr : Trace) (a : LAct) : (s.access tr a).hbmLost = s.hbmLost := rfl
@[simp] theorem State.access_hbmKey (s : State) (tr : Trace) (a : LAct) : (s.access tr a).hbmKey = s.hbmKey := rfl
@[simp] theorem State.access_hbmDirty (s : State) (tr : Trace) (a : LAct) : (s.access tr a).hbmDirty = s.hbmDirty := rfl
@[simp] theorem State.access_hostPoison (s : State) (tr : Trace) (a : LAct) : (s.access tr a).hostPoison = s.hostPoison := rfl
@[simp] theorem State.access_host0 (s : State) (tr : Trace) (a : LAct) : (s.access tr a).host0 = s.host0 := rfl
@[simp] theorem State.access_host1 (s : State) (tr : Trace) (a : LAct) : (s.access tr a).host1 = s.host1 := rfl
@[simp] theorem State.access_engines (s : State) (tr : Trace) (a : LAct) : (s.access tr a).engines = s.engines := rfl
@[simp] theorem State.access_nextCmd (s : State) (tr : Trace) (a : LAct) : (s.access tr a).nextCmd = s.nextCmd := rfl
@[simp] theorem State.access_seqOut (s : State) (tr : Trace) (a : LAct) : (s.access tr a).seqOut = s.seqOut := rfl
@[simp] theorem State.access_winBase (s : State) (tr : Trace) (a : LAct) : (s.access tr a).winBase = s.winBase := rfl
@[simp] theorem State.access_winSeen (s : State) (tr : Trace) (a : LAct) : (s.access tr a).winSeen = s.winSeen := rfl
@[simp] theorem State.access_winFails (s : State) (tr : Trace) (a : LAct) : (s.access tr a).winFails = s.winFails := rfl
@[simp] theorem State.access_winLost (s : State) (tr : Trace) (a : LAct) : (s.access tr a).winLost = s.winLost := rfl
@[simp] theorem State.access_answered (s : State) (tr : Trace) (a : LAct) : (s.access tr a).answered = s.answered := rfl
@[simp] theorem State.access_hostAcks (s : State) (tr : Trace) (a : LAct) : (s.access tr a).hostAcks = s.hostAcks := rfl
@[simp] theorem State.access_sched (s : State) (tr : Trace) (a : LAct) : (s.access tr a).sched = s.sched := rfl
@[simp] theorem State.access_mg (s : State) (tr : Trace) (a : LAct) : (s.access tr a).mg = s.mg := rfl
@[simp] theorem State.access_curSite (s : State) (tr : Trace) (a : LAct) : (s.access tr a).curSite = s.curSite := rfl
@[simp] theorem State.access_curSlot (s : State) (tr : Trace) (a : LAct) : (s.access tr a).curSlot = s.curSlot := rfl
@[simp] theorem State.access_agenda (s : State) (tr : Trace) (a : LAct) : (s.access tr a).agenda = s.agenda := rfl
@[simp] theorem State.access_todo (s : State) (tr : Trace) (a : LAct) : (s.access tr a).todo = s.todo := rfl
@[simp] theorem State.access_issues (s : State) (tr : Trace) (a : LAct) : (s.access tr a).issues = s.issues := rfl
@[simp] theorem State.access_late (s : State) (tr : Trace) (a : LAct) : (s.access tr a).late = s.late := rfl
@[simp] theorem State.access_free (s : State) (tr : Trace) (a : LAct) : (s.access tr a).free = s.free := rfl
@[simp] theorem State.access_wire (s : State) (tr : Trace) (a : LAct) : (s.access tr a).wire = s.wire := rfl
@[simp] theorem State.access_heldMsgs (s : State) (tr : Trace) (a : LAct) : (s.access tr a).heldMsgs = s.heldMsgs := rfl
@[simp] theorem State.access_nextMsg (s : State) (tr : Trace) (a : LAct) : (s.access tr a).nextMsg = s.nextMsg := rfl
@[simp] theorem State.access_outbox (s : State) (tr : Trace) (a : LAct) : (s.access tr a).outbox = s.outbox := rfl

/-! ### State.startTag -/

@[simp] theorem State.startTag_cyc (s : State) (k : Option Nat) : (s.startTag k).cyc = s.cyc := by cases k <;> rfl
@[simp] theorem State.startTag_vault (s : State) (k : Option Nat) : (s.startTag k).vault = s.vault := by cases k <;> rfl
@[simp] theorem State.startTag_vaultPoison (s : State) (k : Option Nat) : (s.startTag k).vaultPoison = s.vaultPoison := by cases k <;> rfl
@[simp] theorem State.startTag_hbm (s : State) (k : Option Nat) : (s.startTag k).hbm = s.hbm := by cases k <;> rfl
@[simp] theorem State.startTag_hbmPoison (s : State) (k : Option Nat) : (s.startTag k).hbmPoison = s.hbmPoison := by cases k <;> rfl
@[simp] theorem State.startTag_hbmLost (s : State) (k : Option Nat) : (s.startTag k).hbmLost = s.hbmLost := by cases k <;> rfl
@[simp] theorem State.startTag_hbmKey (s : State) (k : Option Nat) : (s.startTag k).hbmKey = s.hbmKey := by cases k <;> rfl
@[simp] theorem State.startTag_hbmDirty (s : State) (k : Option Nat) : (s.startTag k).hbmDirty = s.hbmDirty := by cases k <;> rfl
@[simp] theorem State.startTag_hostPoison (s : State) (k : Option Nat) : (s.startTag k).hostPoison = s.hostPoison := by cases k <;> rfl
@[simp] theorem State.startTag_host0 (s : State) (k : Option Nat) : (s.startTag k).host0 = s.host0 := by cases k <;> rfl
@[simp] theorem State.startTag_host1 (s : State) (k : Option Nat) : (s.startTag k).host1 = s.host1 := by cases k <;> rfl
@[simp] theorem State.startTag_engines (s : State) (k : Option Nat) : (s.startTag k).engines = s.engines := by cases k <;> rfl
@[simp] theorem State.startTag_nextCmd (s : State) (k : Option Nat) : (s.startTag k).nextCmd = s.nextCmd := by cases k <;> rfl
@[simp] theorem State.startTag_seqOut (s : State) (k : Option Nat) : (s.startTag k).seqOut = s.seqOut := by cases k <;> rfl
@[simp] theorem State.startTag_winBase (s : State) (k : Option Nat) : (s.startTag k).winBase = s.winBase := by cases k <;> rfl
@[simp] theorem State.startTag_winSeen (s : State) (k : Option Nat) : (s.startTag k).winSeen = s.winSeen := by cases k <;> rfl
@[simp] theorem State.startTag_winFails (s : State) (k : Option Nat) : (s.startTag k).winFails = s.winFails := by cases k <;> rfl
@[simp] theorem State.startTag_winLost (s : State) (k : Option Nat) : (s.startTag k).winLost = s.winLost := by cases k <;> rfl
@[simp] theorem State.startTag_answered (s : State) (k : Option Nat) : (s.startTag k).answered = s.answered := by cases k <;> rfl
@[simp] theorem State.startTag_hostAcks (s : State) (k : Option Nat) : (s.startTag k).hostAcks = s.hostAcks := by cases k <;> rfl
@[simp] theorem State.startTag_sched (s : State) (k : Option Nat) : (s.startTag k).sched = s.sched := by cases k <;> rfl
@[simp] theorem State.startTag_mg (s : State) (k : Option Nat) : (s.startTag k).mg = s.mg := by cases k <;> rfl
@[simp] theorem State.startTag_curSite (s : State) (k : Option Nat) : (s.startTag k).curSite = s.curSite := by cases k <;> rfl
@[simp] theorem State.startTag_curSlot (s : State) (k : Option Nat) : (s.startTag k).curSlot = s.curSlot := by cases k <;> rfl
@[simp] theorem State.startTag_agenda (s : State) (k : Option Nat) : (s.startTag k).agenda = s.agenda := by cases k <;> rfl
@[simp] theorem State.startTag_todo (s : State) (k : Option Nat) : (s.startTag k).todo = s.todo := by cases k <;> rfl
@[simp] theorem State.startTag_issues (s : State) (k : Option Nat) : (s.startTag k).issues = s.issues := by cases k <;> rfl
@[simp] theorem State.startTag_late (s : State) (k : Option Nat) : (s.startTag k).late = s.late := by cases k <;> rfl
@[simp] theorem State.startTag_free (s : State) (k : Option Nat) : (s.startTag k).free = s.free := by cases k <;> rfl
@[simp] theorem State.startTag_wire (s : State) (k : Option Nat) : (s.startTag k).wire = s.wire := by cases k <;> rfl
@[simp] theorem State.startTag_heldMsgs (s : State) (k : Option Nat) : (s.startTag k).heldMsgs = s.heldMsgs := by cases k <;> rfl
@[simp] theorem State.startTag_nextMsg (s : State) (k : Option Nat) : (s.startTag k).nextMsg = s.nextMsg := by cases k <;> rfl
@[simp] theorem State.startTag_outbox (s : State) (k : Option Nat) : (s.startTag k).outbox = s.outbox := by cases k <;> rfl

/-! ### State.noteProgress -/

@[simp] theorem State.noteProgress_cyc (s : State) (n k : Nat) : (s.noteProgress n k).cyc = s.cyc := rfl
@[simp] theorem State.noteProgress_vault (s : State) (n k : Nat) : (s.noteProgress n k).vault = s.vault := rfl
@[simp] theorem State.noteProgress_vaultPoison (s : State) (n k : Nat) : (s.noteProgress n k).vaultPoison = s.vaultPoison := rfl
@[simp] theorem State.noteProgress_hbm (s : State) (n k : Nat) : (s.noteProgress n k).hbm = s.hbm := rfl
@[simp] theorem State.noteProgress_hbmPoison (s : State) (n k : Nat) : (s.noteProgress n k).hbmPoison = s.hbmPoison := rfl
@[simp] theorem State.noteProgress_hbmLost (s : State) (n k : Nat) : (s.noteProgress n k).hbmLost = s.hbmLost := rfl
@[simp] theorem State.noteProgress_hbmKey (s : State) (n k : Nat) : (s.noteProgress n k).hbmKey = s.hbmKey := rfl
@[simp] theorem State.noteProgress_hbmDirty (s : State) (n k : Nat) : (s.noteProgress n k).hbmDirty = s.hbmDirty := rfl
@[simp] theorem State.noteProgress_hostPoison (s : State) (n k : Nat) : (s.noteProgress n k).hostPoison = s.hostPoison := rfl
@[simp] theorem State.noteProgress_host0 (s : State) (n k : Nat) : (s.noteProgress n k).host0 = s.host0 := rfl
@[simp] theorem State.noteProgress_host1 (s : State) (n k : Nat) : (s.noteProgress n k).host1 = s.host1 := rfl
@[simp] theorem State.noteProgress_engines (s : State) (n k : Nat) : (s.noteProgress n k).engines = s.engines := rfl
@[simp] theorem State.noteProgress_nextCmd (s : State) (n k : Nat) : (s.noteProgress n k).nextCmd = s.nextCmd := rfl
@[simp] theorem State.noteProgress_seqOut (s : State) (n k : Nat) : (s.noteProgress n k).seqOut = s.seqOut := rfl
@[simp] theorem State.noteProgress_winBase (s : State) (n k : Nat) : (s.noteProgress n k).winBase = s.winBase := rfl
@[simp] theorem State.noteProgress_winSeen (s : State) (n k : Nat) : (s.noteProgress n k).winSeen = s.winSeen := rfl
@[simp] theorem State.noteProgress_winFails (s : State) (n k : Nat) : (s.noteProgress n k).winFails = s.winFails := rfl
@[simp] theorem State.noteProgress_winLost (s : State) (n k : Nat) : (s.noteProgress n k).winLost = s.winLost := rfl
@[simp] theorem State.noteProgress_answered (s : State) (n k : Nat) : (s.noteProgress n k).answered = s.answered := rfl
@[simp] theorem State.noteProgress_hostAcks (s : State) (n k : Nat) : (s.noteProgress n k).hostAcks = s.hostAcks := rfl
@[simp] theorem State.noteProgress_sched (s : State) (n k : Nat) : (s.noteProgress n k).sched = s.sched := rfl
@[simp] theorem State.noteProgress_mg (s : State) (n k : Nat) : (s.noteProgress n k).mg = s.mg := rfl
@[simp] theorem State.noteProgress_curSite (s : State) (n k : Nat) : (s.noteProgress n k).curSite = s.curSite := rfl
@[simp] theorem State.noteProgress_curSlot (s : State) (n k : Nat) : (s.noteProgress n k).curSlot = s.curSlot := rfl
@[simp] theorem State.noteProgress_agenda (s : State) (n k : Nat) : (s.noteProgress n k).agenda = s.agenda := rfl
@[simp] theorem State.noteProgress_todo (s : State) (n k : Nat) : (s.noteProgress n k).todo = s.todo := rfl
@[simp] theorem State.noteProgress_issues (s : State) (n k : Nat) : (s.noteProgress n k).issues = s.issues := rfl
@[simp] theorem State.noteProgress_late (s : State) (n k : Nat) : (s.noteProgress n k).late = s.late := rfl
@[simp] theorem State.noteProgress_free (s : State) (n k : Nat) : (s.noteProgress n k).free = s.free := rfl
@[simp] theorem State.noteProgress_wire (s : State) (n k : Nat) : (s.noteProgress n k).wire = s.wire := rfl
@[simp] theorem State.noteProgress_heldMsgs (s : State) (n k : Nat) : (s.noteProgress n k).heldMsgs = s.heldMsgs := rfl
@[simp] theorem State.noteProgress_nextMsg (s : State) (n k : Nat) : (s.noteProgress n k).nextMsg = s.nextMsg := rfl
@[simp] theorem State.noteProgress_outbox (s : State) (n k : Nat) : (s.noteProgress n k).outbox = s.outbox := rfl

/-! ### Tile.setSlot -/

@[simp] theorem Tile.setSlot_wheel (t : Tile) (k : Nat) (x : Slot) : (t.setSlot k x).wheel = t.wheel := rfl
@[simp] theorem Tile.setSlot_palette (t : Tile) (k : Nat) (x : Slot) : (t.setSlot k x).palette = t.palette := rfl
@[simp] theorem Tile.setSlot_sram (t : Tile) (k : Nat) (x : Slot) : (t.setSlot k x).sram = t.sram := rfl
@[simp] theorem Tile.setSlot_sramPoison (t : Tile) (k : Nat) (x : Slot) : (t.setSlot k x).sramPoison = t.sramPoison := rfl
@[simp] theorem Tile.setSlot_plane (t : Tile) (k : Nat) (x : Slot) : (t.setSlot k x).plane = t.plane := rfl
@[simp] theorem Tile.setSlot_planePoison (t : Tile) (k : Nat) (x : Slot) : (t.setSlot k x).planePoison = t.planePoison := rfl
@[simp] theorem Tile.setSlot_acc (t : Tile) (k : Nat) (x : Slot) : (t.setSlot k x).acc = t.acc := rfl
@[simp] theorem Tile.setSlot_accPoison (t : Tile) (k : Nat) (x : Slot) : (t.setSlot k x).accPoison = t.accPoison := rfl
@[simp] theorem Tile.setSlot_kernels (t : Tile) (k : Nat) (x : Slot) : (t.setSlot k x).kernels = t.kernels := rfl
@[simp] theorem Tile.setSlot_accesses (t : Tile) (k : Nat) (x : Slot) : (t.setSlot k x).accesses = t.accesses := rfl
@[simp] theorem Tile.setSlot_shadow (t : Tile) (k : Nat) (x : Slot) : (t.setSlot k x).shadow = t.shadow := rfl
@[simp] theorem Tile.setSlot_fetch (t : Tile) (k : Nat) (x : Slot) : (t.setSlot k x).fetch = t.fetch := rfl
@[simp] theorem Tile.setSlot_hent (t : Tile) (k : Nat) (x : Slot) : (t.setSlot k x).hent = t.hent := rfl
@[simp] theorem Tile.setSlot_hste (t : Tile) (k : Nat) (x : Slot) : (t.setSlot k x).hste = t.hste := rfl
@[simp] theorem Tile.setSlot_arrivals (t : Tile) (k : Nat) (x : Slot) : (t.setSlot k x).arrivals = t.arrivals := rfl
@[simp] theorem Tile.setSlot_latches (t : Tile) (k : Nat) (x : Slot) : (t.setSlot k x).latches = t.latches := rfl
@[simp] theorem Tile.setSlot_tags (t : Tile) (k : Nat) (x : Slot) : (t.setSlot k x).tags = t.tags := rfl
@[simp] theorem Tile.setSlot_tagCount (t : Tile) (k : Nat) (x : Slot) : (t.setSlot k x).tagCount = t.tagCount := rfl
@[simp] theorem Tile.setSlot_insQ (t : Tile) (k : Nat) (x : Slot) : (t.setSlot k x).insQ = t.insQ := rfl
@[simp] theorem Tile.setSlot_eseq (t : Tile) (k : Nat) (x : Slot) : (t.setSlot k x).eseq = t.eseq := rfl
@[simp] theorem Tile.setSlot_hampers (t : Tile) (k : Nat) (x : Slot) : (t.setSlot k x).hampers = t.hampers := rfl
@[simp] theorem Tile.setSlot_hlast (t : Tile) (k : Nat) (x : Slot) : (t.setSlot k x).hlast = t.hlast := rfl
@[simp] theorem Tile.setSlot_hdeps (t : Tile) (k : Nat) (x : Slot) : (t.setSlot k x).hdeps = t.hdeps := rfl
@[simp] theorem Tile.setSlot_egress (t : Tile) (k : Nat) (x : Slot) : (t.setSlot k x).egress = t.egress := rfl
@[simp] theorem Tile.setSlot_kends (t : Tile) (k : Nat) (x : Slot) : (t.setSlot k x).kends = t.kends := rfl
@[simp] theorem Tile.setSlot_unacked (t : Tile) (k : Nat) (x : Slot) : (t.setSlot k x).unacked = t.unacked := rfl
@[simp] theorem Tile.setSlot_flushes (t : Tile) (k : Nat) (x : Slot) : (t.setSlot k x).flushes = t.flushes := rfl
@[simp] theorem Tile.setSlot_hlog (t : Tile) (k : Nat) (x : Slot) : (t.setSlot k x).hlog = t.hlog := rfl
@[simp] theorem Tile.setSlot_hflWr (t : Tile) (k : Nat) (x : Slot) : (t.setSlot k x).hflWr = t.hflWr := rfl
@[simp] theorem Tile.setSlot_hflLost (t : Tile) (k : Nat) (x : Slot) : (t.setSlot k x).hflLost = t.hflLost := rfl
@[simp] theorem Tile.setSlot_engPort (t : Tile) (k : Nat) (x : Slot) : (t.setSlot k x).engPort = t.engPort := rfl
@[simp] theorem Tile.setSlot_arrayQ (t : Tile) (k : Nat) (x : Slot) : (t.setSlot k x).arrayQ = t.arrayQ := rfl
@[simp] theorem Tile.setSlot_netQ (t : Tile) (k : Nat) (x : Slot) : (t.setSlot k x).netQ = t.netQ := rfl
@[simp] theorem Tile.setSlot_netStopped (t : Tile) (k : Nat) (x : Slot) : (t.setSlot k x).netStopped = t.netStopped := rfl
@[simp] theorem Tile.setSlot_sends (t : Tile) (k : Nat) (x : Slot) : (t.setSlot k x).sends = t.sends := rfl
@[simp] theorem Tile.setSlot_tokensOut (t : Tile) (k : Nat) (x : Slot) : (t.setSlot k x).tokensOut = t.tokensOut := rfl
@[simp] theorem Tile.setSlot_shardQ (t : Tile) (k : Nat) (x : Slot) : (t.setSlot k x).shardQ = t.shardQ := rfl
@[simp] theorem Tile.setSlot_remote (t : Tile) (k : Nat) (x : Slot) : (t.setSlot k x).remote = t.remote := rfl
@[simp] theorem Tile.setSlot_collQ (t : Tile) (k : Nat) (x : Slot) : (t.setSlot k x).collQ = t.collQ := rfl
@[simp] theorem Tile.setSlot_collSeq (t : Tile) (k : Nat) (x : Slot) : (t.setSlot k x).collSeq = t.collSeq := rfl
@[simp] theorem Tile.setSlot_baskets (t : Tile) (k : Nat) (x : Slot) : (t.setSlot k x).baskets = t.baskets := rfl
@[simp] theorem Tile.setSlot_claims (t : Tile) (k : Nat) (x : Slot) : (t.setSlot k x).claims = t.claims := rfl
@[simp] theorem Tile.setSlot_grants (t : Tile) (k : Nat) (x : Slot) : (t.setSlot k x).grants = t.grants := rfl
@[simp] theorem Tile.setSlot_bobjs (t : Tile) (k : Nat) (x : Slot) : (t.setSlot k x).bobjs = t.bobjs := rfl
@[simp] theorem Tile.setSlot_bwaits (t : Tile) (k : Nat) (x : Slot) : (t.setSlot k x).bwaits = t.bwaits := rfl
@[simp] theorem Tile.setSlot_mons (t : Tile) (k : Nat) (x : Slot) : (t.setSlot k x).mons = t.mons := rfl
@[simp] theorem Tile.setSlot_joins (t : Tile) (k : Nat) (x : Slot) : (t.setSlot k x).joins = t.joins := rfl
@[simp] theorem Tile.setSlot_box (t : Tile) (k : Nat) (x : Slot) : (t.setSlot k x).box = t.box := rfl
@[simp] theorem Tile.setSlot_reloc (t : Tile) (k : Nat) (x : Slot) : (t.setSlot k x).reloc = t.reloc := rfl
@[simp] theorem Tile.setSlot_oldest (t : Tile) (k : Nat) (x : Slot) : (t.setSlot k x).oldest = t.oldest := rfl
@[simp] theorem Tile.setSlot_nextId (t : Tile) (k : Nat) (x : Slot) : (t.setSlot k x).nextId = t.nextId := rfl
@[simp] theorem Tile.setSlot_progress (t : Tile) (k : Nat) (x : Slot) : (t.setSlot k x).progress = t.progress := rfl

/-! ### Tile.modSlot -/

@[simp] theorem Tile.modSlot_wheel (t : Tile) (k : Nat) (f : Slot → Slot) : (t.modSlot k f).wheel = t.wheel := rfl
@[simp] theorem Tile.modSlot_palette (t : Tile) (k : Nat) (f : Slot → Slot) : (t.modSlot k f).palette = t.palette := rfl
@[simp] theorem Tile.modSlot_sram (t : Tile) (k : Nat) (f : Slot → Slot) : (t.modSlot k f).sram = t.sram := rfl
@[simp] theorem Tile.modSlot_sramPoison (t : Tile) (k : Nat) (f : Slot → Slot) : (t.modSlot k f).sramPoison = t.sramPoison := rfl
@[simp] theorem Tile.modSlot_plane (t : Tile) (k : Nat) (f : Slot → Slot) : (t.modSlot k f).plane = t.plane := rfl
@[simp] theorem Tile.modSlot_planePoison (t : Tile) (k : Nat) (f : Slot → Slot) : (t.modSlot k f).planePoison = t.planePoison := rfl
@[simp] theorem Tile.modSlot_acc (t : Tile) (k : Nat) (f : Slot → Slot) : (t.modSlot k f).acc = t.acc := rfl
@[simp] theorem Tile.modSlot_accPoison (t : Tile) (k : Nat) (f : Slot → Slot) : (t.modSlot k f).accPoison = t.accPoison := rfl
@[simp] theorem Tile.modSlot_kernels (t : Tile) (k : Nat) (f : Slot → Slot) : (t.modSlot k f).kernels = t.kernels := rfl
@[simp] theorem Tile.modSlot_accesses (t : Tile) (k : Nat) (f : Slot → Slot) : (t.modSlot k f).accesses = t.accesses := rfl
@[simp] theorem Tile.modSlot_shadow (t : Tile) (k : Nat) (f : Slot → Slot) : (t.modSlot k f).shadow = t.shadow := rfl
@[simp] theorem Tile.modSlot_fetch (t : Tile) (k : Nat) (f : Slot → Slot) : (t.modSlot k f).fetch = t.fetch := rfl
@[simp] theorem Tile.modSlot_hent (t : Tile) (k : Nat) (f : Slot → Slot) : (t.modSlot k f).hent = t.hent := rfl
@[simp] theorem Tile.modSlot_hste (t : Tile) (k : Nat) (f : Slot → Slot) : (t.modSlot k f).hste = t.hste := rfl
@[simp] theorem Tile.modSlot_arrivals (t : Tile) (k : Nat) (f : Slot → Slot) : (t.modSlot k f).arrivals = t.arrivals := rfl
@[simp] theorem Tile.modSlot_latches (t : Tile) (k : Nat) (f : Slot → Slot) : (t.modSlot k f).latches = t.latches := rfl
@[simp] theorem Tile.modSlot_tags (t : Tile) (k : Nat) (f : Slot → Slot) : (t.modSlot k f).tags = t.tags := rfl
@[simp] theorem Tile.modSlot_tagCount (t : Tile) (k : Nat) (f : Slot → Slot) : (t.modSlot k f).tagCount = t.tagCount := rfl
@[simp] theorem Tile.modSlot_insQ (t : Tile) (k : Nat) (f : Slot → Slot) : (t.modSlot k f).insQ = t.insQ := rfl
@[simp] theorem Tile.modSlot_eseq (t : Tile) (k : Nat) (f : Slot → Slot) : (t.modSlot k f).eseq = t.eseq := rfl
@[simp] theorem Tile.modSlot_hampers (t : Tile) (k : Nat) (f : Slot → Slot) : (t.modSlot k f).hampers = t.hampers := rfl
@[simp] theorem Tile.modSlot_hlast (t : Tile) (k : Nat) (f : Slot → Slot) : (t.modSlot k f).hlast = t.hlast := rfl
@[simp] theorem Tile.modSlot_hdeps (t : Tile) (k : Nat) (f : Slot → Slot) : (t.modSlot k f).hdeps = t.hdeps := rfl
@[simp] theorem Tile.modSlot_egress (t : Tile) (k : Nat) (f : Slot → Slot) : (t.modSlot k f).egress = t.egress := rfl
@[simp] theorem Tile.modSlot_kends (t : Tile) (k : Nat) (f : Slot → Slot) : (t.modSlot k f).kends = t.kends := rfl
@[simp] theorem Tile.modSlot_unacked (t : Tile) (k : Nat) (f : Slot → Slot) : (t.modSlot k f).unacked = t.unacked := rfl
@[simp] theorem Tile.modSlot_flushes (t : Tile) (k : Nat) (f : Slot → Slot) : (t.modSlot k f).flushes = t.flushes := rfl
@[simp] theorem Tile.modSlot_hlog (t : Tile) (k : Nat) (f : Slot → Slot) : (t.modSlot k f).hlog = t.hlog := rfl
@[simp] theorem Tile.modSlot_hflWr (t : Tile) (k : Nat) (f : Slot → Slot) : (t.modSlot k f).hflWr = t.hflWr := rfl
@[simp] theorem Tile.modSlot_hflLost (t : Tile) (k : Nat) (f : Slot → Slot) : (t.modSlot k f).hflLost = t.hflLost := rfl
@[simp] theorem Tile.modSlot_engPort (t : Tile) (k : Nat) (f : Slot → Slot) : (t.modSlot k f).engPort = t.engPort := rfl
@[simp] theorem Tile.modSlot_arrayQ (t : Tile) (k : Nat) (f : Slot → Slot) : (t.modSlot k f).arrayQ = t.arrayQ := rfl
@[simp] theorem Tile.modSlot_netQ (t : Tile) (k : Nat) (f : Slot → Slot) : (t.modSlot k f).netQ = t.netQ := rfl
@[simp] theorem Tile.modSlot_netStopped (t : Tile) (k : Nat) (f : Slot → Slot) : (t.modSlot k f).netStopped = t.netStopped := rfl
@[simp] theorem Tile.modSlot_sends (t : Tile) (k : Nat) (f : Slot → Slot) : (t.modSlot k f).sends = t.sends := rfl
@[simp] theorem Tile.modSlot_tokensOut (t : Tile) (k : Nat) (f : Slot → Slot) : (t.modSlot k f).tokensOut = t.tokensOut := rfl
@[simp] theorem Tile.modSlot_shardQ (t : Tile) (k : Nat) (f : Slot → Slot) : (t.modSlot k f).shardQ = t.shardQ := rfl
@[simp] theorem Tile.modSlot_remote (t : Tile) (k : Nat) (f : Slot → Slot) : (t.modSlot k f).remote = t.remote := rfl
@[simp] theorem Tile.modSlot_collQ (t : Tile) (k : Nat) (f : Slot → Slot) : (t.modSlot k f).collQ = t.collQ := rfl
@[simp] theorem Tile.modSlot_collSeq (t : Tile) (k : Nat) (f : Slot → Slot) : (t.modSlot k f).collSeq = t.collSeq := rfl
@[simp] theorem Tile.modSlot_baskets (t : Tile) (k : Nat) (f : Slot → Slot) : (t.modSlot k f).baskets = t.baskets := rfl
@[simp] theorem Tile.modSlot_claims (t : Tile) (k : Nat) (f : Slot → Slot) : (t.modSlot k f).claims = t.claims := rfl
@[simp] theorem Tile.modSlot_grants (t : Tile) (k : Nat) (f : Slot → Slot) : (t.modSlot k f).grants = t.grants := rfl
@[simp] theorem Tile.modSlot_bobjs (t : Tile) (k : Nat) (f : Slot → Slot) : (t.modSlot k f).bobjs = t.bobjs := rfl
@[simp] theorem Tile.modSlot_bwaits (t : Tile) (k : Nat) (f : Slot → Slot) : (t.modSlot k f).bwaits = t.bwaits := rfl
@[simp] theorem Tile.modSlot_mons (t : Tile) (k : Nat) (f : Slot → Slot) : (t.modSlot k f).mons = t.mons := rfl
@[simp] theorem Tile.modSlot_joins (t : Tile) (k : Nat) (f : Slot → Slot) : (t.modSlot k f).joins = t.joins := rfl
@[simp] theorem Tile.modSlot_box (t : Tile) (k : Nat) (f : Slot → Slot) : (t.modSlot k f).box = t.box := rfl
@[simp] theorem Tile.modSlot_reloc (t : Tile) (k : Nat) (f : Slot → Slot) : (t.modSlot k f).reloc = t.reloc := rfl
@[simp] theorem Tile.modSlot_oldest (t : Tile) (k : Nat) (f : Slot → Slot) : (t.modSlot k f).oldest = t.oldest := rfl
@[simp] theorem Tile.modSlot_nextId (t : Tile) (k : Nat) (f : Slot → Slot) : (t.modSlot k f).nextId = t.nextId := rfl
@[simp] theorem Tile.modSlot_progress (t : Tile) (k : Nat) (f : Slot → Slot) : (t.modSlot k f).progress = t.progress := rfl

end Sys2Proof.Machine
end

