-- ==== Sys2Proof/Laws/Ops.lean ====
section
/-!
SUPPORT. The laws of the shared operations: looking up tiles and slots after an update, the order of decision at issue, and
reading a register after a write.
-/

namespace Sys2Proof.Machine

/-! ### Tiles and slots -/

theorem State.tile_setTile (s : State) (n m : Nat) (t : Tile) :
    (s.setTile n t).tile m = if m = n then t else s.tile m := getD_put _ _ _ _ _

theorem State.tile_modTile (s : State) (n m : Nat) (f : Tile → Tile) :
    (s.modTile n f).tile m = if m = n then f (s.tile n) else s.tile m := getD_put _ _ _ _ _

theorem Tile.slot_setSlot (t : Tile) (k j : Nat) (x : Slot) :
    (t.setSlot k x).slot j = if j = k then x else t.slot j := getD_put _ _ _ _ _

theorem Tile.slot_modSlot (t : Tile) (k j : Nat) (f : Slot → Slot) :
    (t.modSlot k f).slot j = if j = k then f (t.slot k) else t.slot j := getD_put _ _ _ _ _

theorem State.tile_modSlot (s : State) (n k m : Nat) (f : Slot → Slot) :
    (s.modSlot n k f).tile m = if m = n then (s.tile n).modSlot k f else s.tile m := State.tile_modTile _ _ _ _

@[simp] theorem State.here_modHere (s : State) (f : Tile → Tile) : (s.modHere f).here = f s.here := by
  simp [State.here, State.modHere, State.tile_modTile]

@[simp] theorem State.here_modMe (s : State) (f : Slot → Slot) : (s.modMe f).here = s.here.modSlot s.curSlot f := by
  simp [State.here, State.modMe, State.tile_modSlot]

@[simp] theorem State.me_eq (s : State) : s.here.slot s.curSlot = s.me := rfl

@[simp] theorem State.me_modMe (s : State) (f : Slot → Slot) : (s.modMe f).me = f s.me := by
  show ((s.modMe f).here).slot _ = _
  simp [Tile.slot_modSlot]

theorem State.tile_modMe_of_ne (s : State) (f : Slot → Slot) {n : Nat} (h : n ≠ s.curSite) : (s.modMe f).tile n = s.tile n := by
  simp [State.modMe, State.tile_modSlot, h]

theorem State.tile_modHere_of_ne (s : State) (f : Tile → Tile) {n : Nat} (h : n ≠ s.curSite) : (s.modHere f).tile n = s.tile n := by
  simp [State.modHere, State.tile_modTile, h]

theorem State.me_modHere (s : State) (f : Tile → Tile) : (s.modHere f).me = (f s.here).slot s.curSlot := by
  show ((s.modHere f).here).slot _ = _
  simp

/-! ### Issue -/

/-- The note of an issue changes the tile's record of progress and the trace kept for the successor. -/
theorem State.me_noteIssue (s : State) (i : Instr) : (s.noteIssue i).me = { s.me with lastTr := (s.noteIssue i).me.lastTr } := by
  have h : (s.noteProgress s.curSite s.me.kern).me = s.me := s.me_modHere _
  simp only [State.noteIssue, State.me_modMe, h]

@[simp] theorem State.noteIssue_cyc (s : State) (i : Instr) : (s.noteIssue i).cyc = s.cyc := rfl
@[simp] theorem State.noteIssue_mg (s : State) (i : Instr) : (s.noteIssue i).mg = s.mg := rfl
@[simp] theorem State.noteIssue_sched (s : State) (i : Instr) : (s.noteIssue i).sched = s.sched := rfl
@[simp] theorem State.noteIssue_curSite (s : State) (i : Instr) : (s.noteIssue i).curSite = s.curSite := rfl
@[simp] theorem State.noteIssue_curSlot (s : State) (i : Instr) : (s.noteIssue i).curSlot = s.curSlot := rfl
@[simp] theorem State.noteIssue_free (s : State) (i : Instr) : (s.noteIssue i).free = s.free := rfl
@[simp] theorem State.noteIssue_nextCmd (s : State) (i : Instr) : (s.noteIssue i).nextCmd = s.nextCmd := rfl

/-- The tile after the note of an issue. -/
theorem State.here_noteIssue (s : State) (i : Instr) :
    (s.noteIssue i).here = { s.here with slots := (s.noteIssue i).here.slots, progress := (s.noteIssue i).here.progress } := by
  have h : (s.noteProgress s.curSite s.me.kern).here = { s.here with progress := put s.me.kern s.cyc s.here.progress } :=
    s.here_modHere _
  simp only [State.noteIssue, State.here_modMe, h]
  rfl

@[simp] theorem State.noteIssue_rS (s : State) (i : Instr) (r : SReg) : (s.noteIssue i).rS r = s.rS r := by
  unfold State.rS; rw [State.me_noteIssue]; rfl
@[simp] theorem State.noteIssue_rP (s : State) (i : Instr) (r : PReg) : (s.noteIssue i).rP r = s.rP r := by
  unfold State.rP; rw [State.me_noteIssue]; rfl
@[simp] theorem State.noteIssue_rM (s : State) (i : Instr) (r : MReg) : (s.noteIssue i).rM r = s.rM r := by
  unfold State.rM; rw [State.me_noteIssue]; rfl
@[simp] theorem State.noteIssue_rLane (s : State) (i : Instr) (r : VReg) (k : Nat) : (s.noteIssue i).rLane r k = s.rLane r k := by
  unfold State.rLane; rw [State.me_noteIssue]; rfl
@[simp] theorem State.noteIssue_vlen (s : State) (i : Instr) : (s.noteIssue i).vlen = s.vlen := by
  unfold State.vlen; rw [State.me_noteIssue]; rfl
@[simp] theorem State.noteIssue_inLane (s : State) (i : Instr) (r : MReg) (k : Nat) : (s.noteIssue i).inLane r k = s.inLane r k := by
  unfold State.inLane; rw [State.me_noteIssue]; rfl
@[simp] theorem State.noteIssue_kern (s : State) (i : Instr) : (s.noteIssue i).kern = s.kern := by
  unfold State.kern; rw [State.here_noteIssue, State.me_noteIssue]; rfl
@[simp] theorem State.noteIssue_pc (s : State) (i : Instr) : (s.noteIssue i).me.pc = s.me.pc := by
  rw [State.me_noteIssue]

/-- A word that passes every check and finds room has its effect. -/
theorem issue_runs (i : Instr) (g : Guard) (s : State) (chk : State → Option Trap) (room : State → Bool) (eff : State → State)
    (hr : s.ready i g = true) (hc : chk s = none) (hq : room s = true) :
    issue i g s chk room eff = .next (eff (s.noteIssue i)) := by
  simp only [State.ready, Bool.and_eq_true, Option.isNone_iff_eq_none, Bool.not_eq_true'] at hr
  obtain ⟨⟨h1, h2⟩, h3⟩ := hr
  simp [issue, h1, h2, h3, hc, hq]

theorem State.ready_of_runs {s : State} {i : Instr} {g : Guard} (h : s.runs i g = true) : s.ready i g = true := by
  simp only [State.runs, Bool.and_eq_true] at h; exact h.1.1

theorem State.checks_of_runs {s : State} {i : Instr} {g : Guard} (h : s.runs i g = true) : checksOf i s = none := by
  simp only [State.runs, Bool.and_eq_true, Option.isNone_iff_eq_none] at h; exact h.1.2

theorem State.room_of_runs {s : State} {i : Instr} {g : Guard} (h : s.runs i g = true) : roomOf i s = true := by
  simp only [State.runs, Bool.and_eq_true] at h; exact h.2

/-! ### What a slot reads after a write -/

/-- A view after one more effect. -/
theorem viewReg_append {α : Type} (cyc : Nat) (sel : PEffect → Option α) (base : α) (l : List Pend) (p : Pend)
    (h : sel p.eff = none) : viewReg cyc sel base (l ++ [p]) = viewReg cyc sel base l := by
  simp [viewReg, List.foldl_append, h]

/-- What the fold of a view keeps: nothing that has not landed, nor anything issued later than all. -/
theorem viewReg_bound {α : Type} (cyc iss : Nat) (sel : PEffect → Option α) (acc : Nat × Nat × α) (l : List Pend)
    (ha : acc.1 ≤ cyc) (hb : acc.2.1 ≤ iss) (hl : ∀ p ∈ l, p.iss ≤ iss) :
    let r := l.foldl (fun (acc : Nat × Nat × α) p =>
      match sel p.eff with
      | some v =>
        if p.land ≤ cyc && (decide (acc.1 < p.land) || (acc.1 == p.land && decide (acc.2.1 ≤ p.iss))) then (p.land, p.iss, v)
        else acc
      | none => acc) acc
    r.1 ≤ cyc ∧ r.2.1 ≤ iss := by
  induction l generalizing acc with
  | nil => exact ⟨ha, hb⟩
  | cons p t ih =>
    simp only [List.foldl_cons]
    apply ih
    · split
      · split
        · next h => simp only [Bool.and_eq_true, decide_eq_true_eq] at h; exact h.1
        · exact ha
      · exact ha
    · split
      · split
        · exact hl p (by simp)
        · exact hb
      · exact hb
    · exact fun q hq => hl q (by simp [hq])

/-- In its landing cycle a write is what the slot reads (R38). -/
theorem viewReg_land {α : Type} (cyc iss : Nat) (sel : PEffect → Option α) (base v : α) (l : List Pend) (e : PEffect) (b : Bool)
    (h : sel e = some v) (hl : ∀ p ∈ l, p.iss ≤ iss) : viewReg cyc sel base (l ++ [⟨cyc, iss, e, b⟩]) = v := by
  have hb := viewReg_bound cyc iss sel (0, 0, base) l (Nat.zero_le _) (Nat.zero_le _) hl
  simp only [viewReg, List.foldl_append, List.foldl_cons, List.foldl_nil, h]
  generalize List.foldl _ _ l = r at hb ⊢
  rw [if_pos]
  simp only [Bool.and_eq_true, Bool.or_eq_true, decide_eq_true_eq, beq_iff_eq]
  exact ⟨Nat.le_refl _, (Nat.lt_or_eq_of_le hb.1).imp id fun e => ⟨e, hb.2⟩⟩

theorem Slot.timely_iff (x : Slot) (c : Nat) : x.timely c = true ↔ ∀ p ∈ x.pend, p.iss ≤ c := by
  simp [Slot.timely, List.all_eq_true]

/-- Effects that write another register are not seen. -/
theorem Slot.sameRegs_append (x y : Slot) (p : Pend) 
    (h : y = { x with pend := x.pend ++ [p], pc := y.pc, state := y.state, hold := y.hold, lastTr := y.lastTr,
                      lastDiv := y.lastDiv, lastSfu := y.lastSfu }) : x.sameRegs y (some p.eff) := by
  rw [h]
  intro c r k
  simp only [Option.bind_some, Option.isNone_iff_eq_none, Slot.regS, Slot.regP, Slot.maskBit, Slot.lane, Slot.sysReg, Slot.vlen]
  refine ⟨fun e => ?_, fun e => ?_, fun e => ?_, fun e => ?_, fun e => ?_⟩ <;> (rw [viewReg_append _ _ _ _ _ e]; try rfl)

theorem Slot.sameRegs_refl (x y : Slot) 
    (h : y = { x with pc := y.pc, state := y.state, hold := y.hold, lastTr := y.lastTr, lastDiv := y.lastDiv,
                      lastSfu := y.lastSfu }) (e : Option PEffect) : x.sameRegs y e := by
  rw [h]
  intro c r k
  exact ⟨fun _ => rfl, fun _ => rfl, fun _ => rfl, fun _ => rfl, fun _ => rfl⟩

/-! ### Words that write registers -/

/-- A change of the issuing slot leaves every memory as it was. -/
theorem State.memSame_noteIssue_modMe (s : State) (i : Instr) (f : Slot → Slot) : s.memSame ((s.noteIssue i).modMe f) := by
  have hh : ((s.noteIssue i).modMe f).here = _ := State.here_modMe _ f
  refine ⟨fun n a => ?_, fun a => ⟨rfl, rfl, rfl, rfl, rfl⟩⟩
  by_cases h : n = s.curSite
  · subst h
    have : ((s.noteIssue i).modMe f).tile s.curSite = ((s.noteIssue i).modMe f).here := rfl
    rw [this, hh, State.here_noteIssue]
    exact ⟨rfl, rfl⟩
  · have h1 : ((s.noteIssue i).modMe f).tile n = (s.noteIssue i).tile n := State.tile_modMe_of_ne _ _ h
    have h2 : (s.noteIssue i).tile n = (s.noteProgress s.curSite s.me.kern).tile n := State.tile_modMe_of_ne _ _ h
    have h3 : (s.noteProgress s.curSite s.me.kern).tile n = s.tile n := by
      simp [State.noteProgress, State.tile_modTile, h]
    rw [h1, h2, h3]
    exact ⟨rfl, rfl⟩

/-- A change of the issuing slot changes nothing else. -/
theorem State.onlyMe_noteIssue_modMe (s : State) (i : Instr) (f : Slot → Slot) : s.onlyMe ((s.noteIssue i).modMe f) := by
  have hh : ((s.noteIssue i).modMe f).here = _ := State.here_modMe _ f
  refine ⟨rfl, fun n h => ?_, ?_, fun k h => ?_⟩
  · have h1 : ((s.noteIssue i).modMe f).tile n = (s.noteIssue i).tile n := State.tile_modMe_of_ne _ _ h
    have h2 : (s.noteIssue i).tile n = (s.noteProgress s.curSite s.me.kern).tile n := State.tile_modMe_of_ne _ _ h
    rw [h1, h2]
    simp [State.noteProgress, State.tile_modTile, h]
  · rw [hh, State.here_noteIssue]; rfl
  · rw [hh, Tile.slot_modSlot, if_neg (show k ≠ (s.noteIssue i).curSlot from h)]
    show (s.noteIssue i).here.slot k = _
    unfold State.noteIssue
    rw [State.here_modMe, Tile.slot_modSlot, if_neg (show k ≠ (s.noteProgress s.curSite s.me.kern).curSlot from h)]
    show (s.noteProgress s.curSite s.me.kern).here.slot k = _
    unfold State.noteProgress
    rw [show ∀ f, (s.modTile s.curSite f).here = f s.here from s.here_modHere]
    rfl

theorem put_put {α : Type} (k : Nat) (x y : α) (l : Sparse α) : put k x (put k y l) = put k x l := by
  induction l with
  | nil => simp [put]
  | cons c t ih =>
    obtain ⟨j, z⟩ := c
    by_cases h : j = k
    · subst h; simp [put]
    · by_cases h2 : k < j <;> simp [put, h, h2, ih]

theorem State.setTile_setTile (s : State) (n : Nat) (t u : Tile) : (s.setTile n u).setTile n t = s.setTile n t := by
  simp only [State.setTile, put_put]

theorem Tile.setSlot_setSlot (t : Tile) (k : Nat) (x y : Slot) : (t.setSlot k y).setSlot k x = t.setSlot k x := by
  simp only [Tile.setSlot, put_put]

/-- Two changes of the issuing slot are one. -/
theorem State.modMe_modMe (s : State) (f g : Slot → Slot) : (s.modMe g).modMe f = s.modMe fun x => f (g x) := by
  simp only [State.modMe, State.modSlot, State.modTile, State.setTile_curSite, State.setTile_curSlot, State.setTile_setTile,
    State.tile_setTile, if_true, Tile.modSlot, Tile.setSlot_setSlot, Tile.slot_setSlot]

/-- A register write and the move to the next word, as one change of the slot. -/
theorem State.pendMe_retire (s : State) (lat : Nat) (e : PEffect) (g : Guard) :
    (s.pendMe lat e).retire g = s.modMe fun x =>
      { x with pend := x.pend ++ [⟨s.cyc + lat, s.cyc, e, false⟩], pc := s.me.pc + 1,
               state := if g.hold.toNat = 0 then .run else .held, hold := g.hold.toNat } := by
  have h : (s.pendMe lat e).me.pc = s.me.pc := by simp [State.pendMe]
  simp only [State.retire, State.retireTo, h]
  simp only [State.pendMe, State.modMe_modMe]

/-- The hold of a guard is nothing where its number is. -/
theorem hold_zero (g : Guard) : (g.hold.toNat = 0) = (g.hold = 0) := by
  simp only [eq_iff_iff]
  exact ⟨fun h => BitVec.eq_of_toNat_eq h, fun h => by simp [h]⟩

/-- A word that leaves one effect for its landing cycle. -/
theorem State.wroteOnly_modMe (s : State) (i : Instr) (lat : Nat) (e : PEffect) (g : Guard) (dv sf : Bool) (f : Slot → Slot)
    (hf : ∀ x, f x = { x with pend := x.pend ++ [⟨s.cyc + lat, s.cyc, e, false⟩], pc := s.me.pc + 1,
                              state := if g.hold = 0 then .run else .held, hold := g.hold.toNat,
                              lastDiv := if dv then some s.cyc else x.lastDiv,
                              lastSfu := if sf then some s.cyc else x.lastSfu }) :
    s.wroteOnly ((s.noteIssue i).modMe f) g (some e) dv sf ∧
      ((s.noteIssue i).modMe f).me.pend = s.me.pend ++ [⟨s.cyc + lat, s.cyc, e, false⟩] := by
  have hm := s.me_noteIssue i
  have hme : ((s.noteIssue i).modMe f).me = _ := (State.me_modMe _ f).trans ((hf _).trans (by rw [hm]))
  refine ⟨⟨⟨?_, ?_, ?_⟩, Slot.sameRegs_append _ _ ⟨s.cyc + lat, s.cyc, e, false⟩ (hme.trans ?_), s.memSame_noteIssue_modMe i _,
    s.onlyMe_noteIssue_modMe i _, ⟨lat, ?_⟩, hme.trans ?_⟩, ?_⟩ <;> rw [hme]

theorem State.wroteOnly_pend (s : State) (i : Instr) (lat : Nat) (e : PEffect) (g : Guard) :
    let t := ((s.noteIssue i).pendMe lat e).retire g
    s.wroteOnly t g (some e) ∧ t.me.pend = s.me.pend ++ [⟨s.cyc + lat, s.cyc, e, false⟩] := by
  have h := s.wroteOnly_modMe i lat e g false false (fun x =>
    { x with pend := x.pend ++ [⟨s.cyc + lat, s.cyc, e, false⟩], pc := s.me.pc + 1,
             state := if g.hold.toNat = 0 then .run else .held, hold := g.hold.toNat }) (fun x => by simp [hold_zero])
  simpa only [State.pendMe_retire, State.noteIssue_cyc, State.noteIssue_pc] using h

/-- A word that leaves one effect and starts the interval of its class. -/
theorem State.wroteOnly_pend_mod (s : State) (i : Instr) (lat : Nat) (e : PEffect) (g : Guard) (dv sf : Bool) (f : Slot → Slot)
    (hf : ∀ x, f x = { x with lastDiv := if dv then some s.cyc else x.lastDiv, lastSfu := if sf then some s.cyc else x.lastSfu }) :
    let t := (((s.noteIssue i).pendMe lat e).modMe f).retire g
    s.wroteOnly t g (some e) dv sf ∧ t.me.pend = s.me.pend ++ [⟨s.cyc + lat, s.cyc, e, false⟩] := by
  have hp : (((s.noteIssue i).pendMe lat e).modMe f).me.pc = s.me.pc := by
    rw [State.me_modMe, hf, State.pendMe, State.me_modMe, s.me_noteIssue i]
  have ht : (((s.noteIssue i).pendMe lat e).modMe f).retire g = (s.noteIssue i).modMe fun x =>
      let y := f { x with pend := x.pend ++ [⟨s.cyc + lat, s.cyc, e, false⟩] }
      { y with pc := s.me.pc + 1, state := if g.hold.toNat = 0 then .run else .held, hold := g.hold.toNat } := by
    simp only [State.retire, State.retireTo, hp]
    simp only [State.pendMe, State.modMe_modMe, State.noteIssue_cyc]
  intro t
  have h := s.wroteOnly_modMe i lat e g dv sf (fun x =>
    let y := f { x with pend := x.pend ++ [⟨s.cyc + lat, s.cyc, e, false⟩] }
    { y with pc := s.me.pc + 1, state := if g.hold.toNat = 0 then .run else .held, hold := g.hold.toNat }) (fun x => by
      simp only [hold_zero]; rw [hf])
  rw [← ht] at h
  exact h

/-- A word that writes no register and starts the interval of its class. -/
theorem State.wroteOnly_none_mod (s : State) (i : Instr) (g : Guard) (dv sf : Bool) (f : Slot → Slot)
    (hf : ∀ x, f x = { x with lastDiv := if dv then some s.cyc else x.lastDiv, lastSfu := if sf then some s.cyc else x.lastSfu }) :
    s.wroteOnly (((s.noteIssue i).modMe f).retire g) g none dv sf := by
  have hm := s.me_noteIssue i
  have hp : ((s.noteIssue i).modMe f).me.pc = s.me.pc := by rw [State.me_modMe, hf, hm]
  simp only [State.retire, State.retireTo, hp, State.modMe_modMe]
  refine ⟨⟨?_, ?_, ?_⟩, ?_, s.memSame_noteIssue_modMe i _, s.onlyMe_noteIssue_modMe i _, ?_, ?_⟩
  · simp only [State.me_modMe]
  · simp only [State.me_modMe]
  · simp only [State.me_modMe, hold_zero]
  · apply Slot.sameRegs_refl
    rw [State.me_modMe, hf, hm]
  · simp only [Slot.pends, State.me_modMe]; rw [hf, hm]
  · rw [State.me_modMe, hf, hm]

/-- A word that writes nothing. -/
theorem State.wroteOnly_none (s : State) (i : Instr) (g : Guard) : s.wroteOnly ((s.noteIssue i).retire g) g none := by
  have h := s.wroteOnly_none_mod i g false false id (fun x => by simp)
  have e : (s.noteIssue i).modMe id = s.noteIssue i := by
    simp only [State.noteIssue, State.modMe_modMe, id]
  rwa [e] at h

end Sys2Proof.Machine
end

