-- ==== Sys2Proof/Laws/Issue.lean ====
section
/-!
SUPPORT. The order of decision of each instruction word: its checks and its room are those of the tables of Safety.lean, and
what it does follows the note of its issue.
-/

namespace Sys2Proof.Machine

theorem execAdd_issue (g d a b ty sat) : ∃ eff, ∀ s,
    exec (.add g d a b ty sat) s = issue (.add g d a b ty sat) g s (checksOf (.add g d a b ty sat)) (roomOf (.add g d a b ty sat)) eff :=
  ⟨_, fun s => by show execAdd g d a b ty sat s = _; delta execAdd issueS issueFree; rfl⟩

theorem execAddImm_issue (g d a imm) : ∃ eff, ∀ s,
    exec (.addImm g d a imm) s = issue (.addImm g d a imm) g s (checksOf (.addImm g d a imm)) (roomOf (.addImm g d a imm)) eff :=
  ⟨_, fun s => by show execAddImm g d a imm s = _; delta execAddImm issueS issueFree; rfl⟩

theorem execSub_issue (g d a b ty sat) : ∃ eff, ∀ s,
    exec (.sub g d a b ty sat) s = issue (.sub g d a b ty sat) g s (checksOf (.sub g d a b ty sat)) (roomOf (.sub g d a b ty sat)) eff :=
  ⟨_, fun s => by show execSub g d a b ty sat s = _; delta execSub issueS issueFree; rfl⟩

theorem execSubImm_issue (g d a imm) : ∃ eff, ∀ s,
    exec (.subImm g d a imm) s = issue (.subImm g d a imm) g s (checksOf (.subImm g d a imm)) (roomOf (.subImm g d a imm)) eff :=
  ⟨_, fun s => by show execSubImm g d a imm s = _; delta execSubImm issueS issueFree; rfl⟩

theorem execMul_issue (g d a b ty sat) : ∃ eff, ∀ s,
    exec (.mul g d a b ty sat) s = issue (.mul g d a b ty sat) g s (checksOf (.mul g d a b ty sat)) (roomOf (.mul g d a b ty sat)) eff :=
  ⟨_, fun s => by show execMul g d a b ty sat s = _; delta execMul issueS issueFree; rfl⟩

theorem execMulImm_issue (g d a imm) : ∃ eff, ∀ s,
    exec (.mulImm g d a imm) s = issue (.mulImm g d a imm) g s (checksOf (.mulImm g d a imm)) (roomOf (.mulImm g d a imm)) eff :=
  ⟨_, fun s => by show execMulImm g d a imm s = _; delta execMulImm issueS issueFree; rfl⟩

theorem execMulh_issue (g d a b ty) : ∃ eff, ∀ s,
    exec (.mulh g d a b ty) s = issue (.mulh g d a b ty) g s (checksOf (.mulh g d a b ty)) (roomOf (.mulh g d a b ty)) eff :=
  ⟨_, fun s => by show execMulh g d a b ty s = _; delta execMulh issueS issueFree; rfl⟩

theorem execDiv_issue (g d a b ty) : ∃ eff, ∀ s,
    exec (.div g d a b ty) s = issue (.div g d a b ty) g s (checksOf (.div g d a b ty)) (roomOf (.div g d a b ty)) eff :=
  ⟨_, fun s => by show execDiv g d a b ty s = _; delta execDiv issueDiv issueChk; rfl⟩

theorem execRem_issue (g d a b ty) : ∃ eff, ∀ s,
    exec (.rem g d a b ty) s = issue (.rem g d a b ty) g s (checksOf (.rem g d a b ty)) (roomOf (.rem g d a b ty)) eff :=
  ⟨_, fun s => by show execRem g d a b ty s = _; delta execRem issueDiv issueChk; rfl⟩

theorem execAnd_issue (g d a b ty) : ∃ eff, ∀ s,
    exec (.and g d a b ty) s = issue (.and g d a b ty) g s (checksOf (.and g d a b ty)) (roomOf (.and g d a b ty)) eff :=
  ⟨_, fun s => by show execAnd g d a b ty s = _; delta execAnd issueS issueFree; rfl⟩

theorem execAndImm_issue (g d a imm) : ∃ eff, ∀ s,
    exec (.andImm g d a imm) s = issue (.andImm g d a imm) g s (checksOf (.andImm g d a imm)) (roomOf (.andImm g d a imm)) eff :=
  ⟨_, fun s => by show execAndImm g d a imm s = _; delta execAndImm issueS issueFree; rfl⟩

theorem execOr_issue (g d a b ty) : ∃ eff, ∀ s,
    exec (.or g d a b ty) s = issue (.or g d a b ty) g s (checksOf (.or g d a b ty)) (roomOf (.or g d a b ty)) eff :=
  ⟨_, fun s => by show execOr g d a b ty s = _; delta execOr issueS issueFree; rfl⟩

theorem execOrImm_issue (g d a imm) : ∃ eff, ∀ s,
    exec (.orImm g d a imm) s = issue (.orImm g d a imm) g s (checksOf (.orImm g d a imm)) (roomOf (.orImm g d a imm)) eff :=
  ⟨_, fun s => by show execOrImm g d a imm s = _; delta execOrImm issueS issueFree; rfl⟩

theorem execXor_issue (g d a b ty) : ∃ eff, ∀ s,
    exec (.xor g d a b ty) s = issue (.xor g d a b ty) g s (checksOf (.xor g d a b ty)) (roomOf (.xor g d a b ty)) eff :=
  ⟨_, fun s => by show execXor g d a b ty s = _; delta execXor issueS issueFree; rfl⟩

theorem execXorImm_issue (g d a imm) : ∃ eff, ∀ s,
    exec (.xorImm g d a imm) s = issue (.xorImm g d a imm) g s (checksOf (.xorImm g d a imm)) (roomOf (.xorImm g d a imm)) eff :=
  ⟨_, fun s => by show execXorImm g d a imm s = _; delta execXorImm issueS issueFree; rfl⟩

theorem execAndn_issue (g d a b ty) : ∃ eff, ∀ s,
    exec (.andn g d a b ty) s = issue (.andn g d a b ty) g s (checksOf (.andn g d a b ty)) (roomOf (.andn g d a b ty)) eff :=
  ⟨_, fun s => by show execAndn g d a b ty s = _; delta execAndn issueS issueFree; rfl⟩

theorem execShl_issue (g d a b ty) : ∃ eff, ∀ s,
    exec (.shl g d a b ty) s = issue (.shl g d a b ty) g s (checksOf (.shl g d a b ty)) (roomOf (.shl g d a b ty)) eff :=
  ⟨_, fun s => by show execShl g d a b ty s = _; delta execShl issueS issueFree; rfl⟩

theorem execShlImm_issue (g d a imm) : ∃ eff, ∀ s,
    exec (.shlImm g d a imm) s = issue (.shlImm g d a imm) g s (checksOf (.shlImm g d a imm)) (roomOf (.shlImm g d a imm)) eff :=
  ⟨_, fun s => by show execShlImm g d a imm s = _; delta execShlImm issueS issueFree; rfl⟩

theorem execShr_issue (g d a b ty) : ∃ eff, ∀ s,
    exec (.shr g d a b ty) s = issue (.shr g d a b ty) g s (checksOf (.shr g d a b ty)) (roomOf (.shr g d a b ty)) eff :=
  ⟨_, fun s => by show execShr g d a b ty s = _; delta execShr issueS issueFree; rfl⟩

theorem execShrImm_issue (g d a imm) : ∃ eff, ∀ s,
    exec (.shrImm g d a imm) s = issue (.shrImm g d a imm) g s (checksOf (.shrImm g d a imm)) (roomOf (.shrImm g d a imm)) eff :=
  ⟨_, fun s => by show execShrImm g d a imm s = _; delta execShrImm issueS issueFree; rfl⟩

theorem execSar_issue (g d a b ty) : ∃ eff, ∀ s,
    exec (.sar g d a b ty) s = issue (.sar g d a b ty) g s (checksOf (.sar g d a b ty)) (roomOf (.sar g d a b ty)) eff :=
  ⟨_, fun s => by show execSar g d a b ty s = _; delta execSar issueS issueFree; rfl⟩

theorem execSarImm_issue (g d a imm) : ∃ eff, ∀ s,
    exec (.sarImm g d a imm) s = issue (.sarImm g d a imm) g s (checksOf (.sarImm g d a imm)) (roomOf (.sarImm g d a imm)) eff :=
  ⟨_, fun s => by show execSarImm g d a imm s = _; delta execSarImm issueS issueFree; rfl⟩

theorem execRotl_issue (g d a b ty) : ∃ eff, ∀ s,
    exec (.rotl g d a b ty) s = issue (.rotl g d a b ty) g s (checksOf (.rotl g d a b ty)) (roomOf (.rotl g d a b ty)) eff :=
  ⟨_, fun s => by show execRotl g d a b ty s = _; delta execRotl issueS issueFree; rfl⟩

theorem execRotlImm_issue (g d a imm) : ∃ eff, ∀ s,
    exec (.rotlImm g d a imm) s = issue (.rotlImm g d a imm) g s (checksOf (.rotlImm g d a imm)) (roomOf (.rotlImm g d a imm)) eff :=
  ⟨_, fun s => by show execRotlImm g d a imm s = _; delta execRotlImm issueS issueFree; rfl⟩

theorem execMin_issue (g d a b ty) : ∃ eff, ∀ s,
    exec (.min g d a b ty) s = issue (.min g d a b ty) g s (checksOf (.min g d a b ty)) (roomOf (.min g d a b ty)) eff :=
  ⟨_, fun s => by show execMin g d a b ty s = _; delta execMin issueS issueFree; rfl⟩

theorem execMinImm_issue (g d a imm) : ∃ eff, ∀ s,
    exec (.minImm g d a imm) s = issue (.minImm g d a imm) g s (checksOf (.minImm g d a imm)) (roomOf (.minImm g d a imm)) eff :=
  ⟨_, fun s => by show execMinImm g d a imm s = _; delta execMinImm issueS issueFree; rfl⟩

theorem execMax_issue (g d a b ty) : ∃ eff, ∀ s,
    exec (.max g d a b ty) s = issue (.max g d a b ty) g s (checksOf (.max g d a b ty)) (roomOf (.max g d a b ty)) eff :=
  ⟨_, fun s => by show execMax g d a b ty s = _; delta execMax issueS issueFree; rfl⟩

theorem execMaxImm_issue (g d a imm) : ∃ eff, ∀ s,
    exec (.maxImm g d a imm) s = issue (.maxImm g d a imm) g s (checksOf (.maxImm g d a imm)) (roomOf (.maxImm g d a imm)) eff :=
  ⟨_, fun s => by show execMaxImm g d a imm s = _; delta execMaxImm issueS issueFree; rfl⟩

theorem execAbs_issue (g d a ty sat) : ∃ eff, ∀ s,
    exec (.abs g d a ty sat) s = issue (.abs g d a ty sat) g s (checksOf (.abs g d a ty sat)) (roomOf (.abs g d a ty sat)) eff :=
  ⟨_, fun s => by show execAbs g d a ty sat s = _; delta execAbs issueS issueFree; rfl⟩

theorem execClz_issue (g d a ty) : ∃ eff, ∀ s,
    exec (.clz g d a ty) s = issue (.clz g d a ty) g s (checksOf (.clz g d a ty)) (roomOf (.clz g d a ty)) eff :=
  ⟨_, fun s => by show execClz g d a ty s = _; delta execClz issueS issueFree; rfl⟩

theorem execCtz_issue (g d a ty) : ∃ eff, ∀ s,
    exec (.ctz g d a ty) s = issue (.ctz g d a ty) g s (checksOf (.ctz g d a ty)) (roomOf (.ctz g d a ty)) eff :=
  ⟨_, fun s => by show execCtz g d a ty s = _; delta execCtz issueS issueFree; rfl⟩

theorem execPopc_issue (g d a ty) : ∃ eff, ∀ s,
    exec (.popc g d a ty) s = issue (.popc g d a ty) g s (checksOf (.popc g d a ty)) (roomOf (.popc g d a ty)) eff :=
  ⟨_, fun s => by show execPopc g d a ty s = _; delta execPopc issueS issueFree; rfl⟩

theorem execBswap_issue (g d a ty) : ∃ eff, ∀ s,
    exec (.bswap g d a ty) s = issue (.bswap g d a ty) g s (checksOf (.bswap g d a ty)) (roomOf (.bswap g d a ty)) eff :=
  ⟨_, fun s => by show execBswap g d a ty s = _; delta execBswap issueS issueFree; rfl⟩

theorem execBfx_issue (g d a pos wid) : ∃ eff, ∀ s,
    exec (.bfx g d a pos wid) s = issue (.bfx g d a pos wid) g s (checksOf (.bfx g d a pos wid)) (roomOf (.bfx g d a pos wid)) eff :=
  ⟨_, fun s => by show execBfx g d a pos wid s = _; delta execBfx issueS issueFree; rfl⟩

theorem execBfi_issue (g d a pos wid) : ∃ eff, ∀ s,
    exec (.bfi g d a pos wid) s = issue (.bfi g d a pos wid) g s (checksOf (.bfi g d a pos wid)) (roomOf (.bfi g d a pos wid)) eff :=
  ⟨_, fun s => by show execBfi g d a pos wid s = _; delta execBfi issueS issueFree; rfl⟩

theorem execLea_issue (g d a b k) : ∃ eff, ∀ s,
    exec (.lea g d a b k) s = issue (.lea g d a b k) g s (checksOf (.lea g d a b k)) (roomOf (.lea g d a b k)) eff :=
  ⟨_, fun s => by show execLea g d a b k s = _; delta execLea issueS issueFree; rfl⟩

theorem execLeaImm_issue (g d a imm) : ∃ eff, ∀ s,
    exec (.leaImm g d a imm) s = issue (.leaImm g d a imm) g s (checksOf (.leaImm g d a imm)) (roomOf (.leaImm g d a imm)) eff :=
  ⟨_, fun s => by show execLeaImm g d a imm s = _; delta execLeaImm issueS issueFree; rfl⟩

theorem execMovi_issue (g d imm) : ∃ eff, ∀ s,
    exec (.movi g d imm) s = issue (.movi g d imm) g s (checksOf (.movi g d imm)) (roomOf (.movi g d imm)) eff :=
  ⟨_, fun s => by show execMovi g d imm s = _; delta execMovi issueS issueFree; rfl⟩

theorem execMovhi_issue (g d a imm) : ∃ eff, ∀ s,
    exec (.movhi g d a imm) s = issue (.movhi g d a imm) g s (checksOf (.movhi g d a imm)) (roomOf (.movhi g d a imm)) eff :=
  ⟨_, fun s => by show execMovhi g d a imm s = _; delta execMovhi issueS issueFree; rfl⟩

theorem execMov_issue (g d a ty) : ∃ eff, ∀ s,
    exec (.mov g d a ty) s = issue (.mov g d a ty) g s (checksOf (.mov g d a ty)) (roomOf (.mov g d a ty)) eff :=
  ⟨_, fun s => by show execMov g d a ty s = _; delta execMov issueS issueFree; rfl⟩

theorem execCmp_issue (g d a b ty cc) : ∃ eff, ∀ s,
    exec (.cmp g d a b ty cc) s = issue (.cmp g d a b ty cc) g s (checksOf (.cmp g d a b ty cc)) (roomOf (.cmp g d a b ty cc)) eff :=
  ⟨_, fun s => by show execCmp g d a b ty cc s = _; delta execCmp issueFree; rfl⟩

theorem execCmpImm_issue (g d a cc uns imm) : ∃ eff, ∀ s,
    exec (.cmpImm g d a cc uns imm) s = issue (.cmpImm g d a cc uns imm) g s (checksOf (.cmpImm g d a cc uns imm)) (roomOf (.cmpImm g d a cc uns imm)) eff :=
  ⟨_, fun s => by show execCmpImm g d a cc uns imm s = _; delta execCmpImm issueFree; rfl⟩

theorem execCsel_issue (g d a b p) : ∃ eff, ∀ s,
    exec (.csel g d a b p) s = issue (.csel g d a b p) g s (checksOf (.csel g d a b p)) (roomOf (.csel g d a b p)) eff :=
  ⟨_, fun s => by show execCsel g d a b p s = _; delta execCsel issueS issueFree; rfl⟩

theorem execPlog_issue (g d a b tt) : ∃ eff, ∀ s,
    exec (.plog g d a b tt) s = issue (.plog g d a b tt) g s (checksOf (.plog g d a b tt)) (roomOf (.plog g d a b tt)) eff :=
  ⟨_, fun s => by show execPlog g d a b tt s = _; delta execPlog issueFree; rfl⟩

theorem execPmov_issue (g f) : ∃ eff, ∀ s,
    exec (.pmov g f) s = issue (.pmov g f) g s (checksOf (.pmov g f)) (roomOf (.pmov g f)) eff :=
  ⟨_, fun s => by show execPmov g f s = _; delta execPmov issueFree; rfl⟩

theorem execNop_issue (g) : ∃ eff, ∀ s,
    exec (.nop g) s = issue (.nop g) g s (checksOf (.nop g)) (roomOf (.nop g)) eff :=
  ⟨_, fun s => by show execNop g s = _; delta execNop issueFree; rfl⟩

theorem execBr_issue (g off) : ∃ eff, ∀ s,
    exec (.br g off) s = issue (.br g off) g s (checksOf (.br g off)) (roomOf (.br g off)) eff :=
  ⟨_, fun s => by show execBr g off s = _; delta execBr issueChk; rfl⟩

theorem execJmp_issue (g lc off) : ∃ eff, ∀ s,
    exec (.jmp g lc off) s = issue (.jmp g lc off) g s (checksOf (.jmp g lc off)) (roomOf (.jmp g lc off)) eff :=
  ⟨_, fun s => by show execJmp g lc off s = _; delta execJmp issueChk; rfl⟩

theorem execCall_issue (g lc off) : ∃ eff, ∀ s,
    exec (.call g lc off) s = issue (.call g lc off) g s (checksOf (.call g lc off)) (roomOf (.call g lc off)) eff :=
  ⟨_, fun s => by show execCall g lc off s = _; delta execCall issueChk; rfl⟩

theorem execRet_issue (g lc) : ∃ eff, ∀ s,
    exec (.ret g lc) s = issue (.ret g lc) g s (checksOf (.ret g lc)) (roomOf (.ret g lc)) eff :=
  ⟨_, fun s => by show execRet g lc s = _; delta execRet issueChk; rfl⟩

theorem execLoop_issue (g lc off) : ∃ eff, ∀ s,
    exec (.loop g lc off) s = issue (.loop g lc off) g s (checksOf (.loop g lc off)) (roomOf (.loop g lc off)) eff :=
  ⟨_, fun s => by show execLoop g lc off s = _; delta execLoop issueChk; rfl⟩

theorem execYield_issue (g imm) : ∃ eff, ∀ s,
    exec (.yield g imm) s = issue (.yield g imm) g s (checksOf (.yield g imm)) (roomOf (.yield g imm)) eff :=
  ⟨_, fun s => by show execYield g imm s = _; delta execYield issueFree; rfl⟩

theorem execSleep_issue (g a imm) : ∃ eff, ∀ s,
    exec (.sleep g a imm) s = issue (.sleep g a imm) g s (checksOf (.sleep g a imm)) (roomOf (.sleep g a imm)) eff :=
  ⟨_, fun s => by show execSleep g a imm s = _; delta execSleep issueFree; rfl⟩

theorem execEndSlot_issue (g) : ∃ eff, ∀ s,
    exec (.endSlot g) s = issue (.endSlot g) g s (checksOf (.endSlot g)) (roomOf (.endSlot g)) eff :=
  ⟨_, fun s => by show execEndSlot g s = _; delta execEndSlot issueChk; rfl⟩

theorem execTrap_issue (g imm) : ∃ eff, ∀ s,
    exec (.trap g imm) s = issue (.trap g imm) g s (checksOf (.trap g imm)) (roomOf (.trap g imm)) eff :=
  ⟨_, fun s => by show execTrap g imm s = _; delta execTrap issueFree; rfl⟩

theorem execEret_issue (g skip) : ∃ eff, ∀ s,
    exec (.eret g skip) s = issue (.eret g skip) g s (checksOf (.eret g skip)) (roomOf (.eret g skip)) eff :=
  ⟨_, fun s => by show execEret g skip s = _; delta execEret issueChk; rfl⟩

theorem execMfs_issue (g d n) : ∃ eff, ∀ s,
    exec (.mfs g d n) s = issue (.mfs g d n) g s (checksOf (.mfs g d n)) (roomOf (.mfs g d n)) eff :=
  ⟨_, fun s => by show execMfs g d n s = _; delta execMfs issueChk; rfl⟩

theorem execMts_issue (g n a) : ∃ eff, ∀ s,
    exec (.mts g n a) s = issue (.mts g n a) g s (checksOf (.mts g n a)) (roomOf (.mts g n a)) eff :=
  ⟨_, fun s => by show execMts g n a s = _; delta execMts issueChk; rfl⟩

theorem execCycle_issue (g d) : ∃ eff, ∀ s,
    exec (.cycle g d) s = issue (.cycle g d) g s (checksOf (.cycle g d)) (roomOf (.cycle g d)) eff :=
  ⟨_, fun s => by show execCycle g d s = _; delta execCycle issueS issueFree; rfl⟩

theorem execTime_issue (g d) : ∃ eff, ∀ s,
    exec (.time g d) s = issue (.time g d) g s (checksOf (.time g d)) (roomOf (.time g d)) eff :=
  ⟨_, fun s => by show execTime g d s = _; delta execTime issueS issueFree; rfl⟩

theorem execCapq_issue (g d a) : ∃ eff, ∀ s,
    exec (.capq g d a) s = issue (.capq g d a) g s (checksOf (.capq g d a)) (roomOf (.capq g d a)) eff :=
  ⟨_, fun s => by show execCapq g d a s = _; delta execCapq issueS issueFree; rfl⟩

theorem execWidq_issue (g d f k) : ∃ eff, ∀ s,
    exec (.widq g d f k) s = issue (.widq g d f k) g s (checksOf (.widq g d f k)) (roomOf (.widq g d f k)) eff :=
  ⟨_, fun s => by show execWidq g d f k s = _; delta execWidq issueS issueFree; rfl⟩

theorem execLd_issue (g d a size sx off) : ∃ eff, ∀ s,
    exec (.ld g d a size sx off) s = issue (.ld g d a size sx off) g s (checksOf (.ld g d a size sx off)) (roomOf (.ld g d a size sx off)) eff :=
  ⟨_, fun s => by show execLd g d a size sx off s = _; delta execLd issueChk; rfl⟩

theorem execSt_issue (g d a size scope off) : ∃ eff, ∀ s,
    exec (.st g d a size scope off) s = issue (.st g d a size scope off) g s (checksOf (.st g d a size scope off)) (roomOf (.st g d a size scope off)) eff :=
  ⟨_, fun s => by show execSt g d a size scope off s = _; delta execSt issueChk; rfl⟩

theorem execLdp_issue (g d a size sx off) : ∃ eff, ∀ s,
    exec (.ldp g d a size sx off) s = issue (.ldp g d a size sx off) g s (checksOf (.ldp g d a size sx off)) (roomOf (.ldp g d a size sx off)) eff :=
  ⟨_, fun s => by show execLdp g d a size sx off s = _; delta execLdp issueChk; rfl⟩

theorem execStp_issue (g d a size scope off) : ∃ eff, ∀ s,
    exec (.stp g d a size scope off) s = issue (.stp g d a size scope off) g s (checksOf (.stp g d a size scope off)) (roomOf (.stp g d a size scope off)) eff :=
  ⟨_, fun s => by show execStp g d a size scope off s = _; delta execStp issueChk; rfl⟩

theorem execLatom_issue (g d a b c ty op) : ∃ eff, ∀ s,
    exec (.latom g d a b c ty op) s = issue (.latom g d a b c ty op) g s (checksOf (.latom g d a b c ty op)) (roomOf (.latom g d a b c ty op)) eff :=
  ⟨_, fun s => by show execLatom g d a b c ty op s = _; delta execLatom issueChk; rfl⟩

theorem execCwb_issue (g) : ∃ eff, ∀ s,
    exec (.cwb g) s = issue (.cwb g) g s (checksOf (.cwb g)) (roomOf (.cwb g)) eff :=
  ⟨_, fun s => by show execCwb g s = _; delta execCwb issueFree; rfl⟩

theorem execIinv_issue (g d a off) : ∃ eff, ∀ s,
    exec (.iinv g d a off) s = issue (.iinv g d a off) g s (checksOf (.iinv g d a off)) (roomOf (.iinv g d a off)) eff :=
  ⟨_, fun s => by show execIinv g d a off s = _; delta execIinv issueChk; rfl⟩

theorem execFetchb_issue (g) : ∃ eff, ∀ s,
    exec (.fetchb g) s = issue (.fetchb g) g s (checksOf (.fetchb g)) (roomOf (.fetchb g)) eff :=
  ⟨_, fun s => by show execFetchb g s = _; delta execFetchb issueFree; rfl⟩

theorem execVld_issue (g d a size sx off) : ∃ eff, ∀ s,
    exec (.vld g d a size sx off) s = issue (.vld g d a size sx off) g s (checksOf (.vld g d a size sx off)) (roomOf (.vld g d a size sx off)) eff :=
  ⟨_, fun s => by show execVld g d a size sx off s = _; delta execVld vloadEff issueChk; rfl⟩

theorem execVst_issue (g d a size scope off) : ∃ eff, ∀ s,
    exec (.vst g d a size scope off) s = issue (.vst g d a size scope off) g s (checksOf (.vst g d a size scope off)) (roomOf (.vst g d a size scope off)) eff :=
  ⟨_, fun s => by show execVst g d a size scope off s = _; delta execVst vstoreEff issueChk; rfl⟩

theorem execVlds_issue (g d a b ty m) : ∃ eff, ∀ s,
    exec (.vlds g d a b ty m) s = issue (.vlds g d a b ty m) g s (checksOf (.vlds g d a b ty m)) (roomOf (.vlds g d a b ty m)) eff :=
  ⟨_, fun s => by show execVlds g d a b ty m s = _; delta execVlds vloadEff issueChk; rfl⟩

theorem execVsts_issue (g a b c ty m) : ∃ eff, ∀ s,
    exec (.vsts g a b c ty m) s = issue (.vsts g a b c ty m) g s (checksOf (.vsts g a b c ty m)) (roomOf (.vsts g a b c ty m)) eff :=
  ⟨_, fun s => by show execVsts g a b c ty m s = _; delta execVsts vstoreEff issueChk; rfl⟩

theorem execVgath_issue (g d a b ty m k) : ∃ eff, ∀ s,
    exec (.vgath g d a b ty m k) s = issue (.vgath g d a b ty m k) g s (checksOf (.vgath g d a b ty m k)) (roomOf (.vgath g d a b ty m k)) eff :=
  ⟨_, fun s => by show execVgath g d a b ty m k s = _; delta execVgath vloadEff issueChk; rfl⟩

theorem execVscat_issue (g a b c ty m k) : ∃ eff, ∀ s,
    exec (.vscat g a b c ty m k) s = issue (.vscat g a b c ty m k) g s (checksOf (.vscat g a b c ty m k)) (roomOf (.vscat g a b c ty m k)) eff :=
  ⟨_, fun s => by show execVscat g a b c ty m k s = _; delta execVscat vstoreEff issueChk; rfl⟩

theorem execVadd_issue (g d a b ty m) : ∃ eff, ∀ s,
    exec (.vadd g d a b ty m) s = issue (.vadd g d a b ty m) g s (checksOf (.vadd g d a b ty m)) (roomOf (.vadd g d a b ty m)) eff :=
  ⟨_, fun s => by show execVadd g d a b ty m s = _; delta execVadd issueV issueFree; rfl⟩

theorem execVsub_issue (g d a b ty m) : ∃ eff, ∀ s,
    exec (.vsub g d a b ty m) s = issue (.vsub g d a b ty m) g s (checksOf (.vsub g d a b ty m)) (roomOf (.vsub g d a b ty m)) eff :=
  ⟨_, fun s => by show execVsub g d a b ty m s = _; delta execVsub issueV issueFree; rfl⟩

theorem execVmul_issue (g d a b ty m) : ∃ eff, ∀ s,
    exec (.vmul g d a b ty m) s = issue (.vmul g d a b ty m) g s (checksOf (.vmul g d a b ty m)) (roomOf (.vmul g d a b ty m)) eff :=
  ⟨_, fun s => by show execVmul g d a b ty m s = _; delta execVmul issueV issueFree; rfl⟩

theorem execVfma_issue (g d a b c ty m) : ∃ eff, ∀ s,
    exec (.vfma g d a b c ty m) s = issue (.vfma g d a b c ty m) g s (checksOf (.vfma g d a b c ty m)) (roomOf (.vfma g d a b c ty m)) eff :=
  ⟨_, fun s => by show execVfma g d a b c ty m s = _; delta execVfma issueV issueFree; rfl⟩

theorem execVfms_issue (g d a b c ty m) : ∃ eff, ∀ s,
    exec (.vfms g d a b c ty m) s = issue (.vfms g d a b c ty m) g s (checksOf (.vfms g d a b c ty m)) (roomOf (.vfms g d a b c ty m)) eff :=
  ⟨_, fun s => by show execVfms g d a b c ty m s = _; delta execVfms issueV issueFree; rfl⟩

theorem execVmin_issue (g d a b ty m) : ∃ eff, ∀ s,
    exec (.vmin g d a b ty m) s = issue (.vmin g d a b ty m) g s (checksOf (.vmin g d a b ty m)) (roomOf (.vmin g d a b ty m)) eff :=
  ⟨_, fun s => by show execVmin g d a b ty m s = _; delta execVmin issueV issueFree; rfl⟩

theorem execVmax_issue (g d a b ty m) : ∃ eff, ∀ s,
    exec (.vmax g d a b ty m) s = issue (.vmax g d a b ty m) g s (checksOf (.vmax g d a b ty m)) (roomOf (.vmax g d a b ty m)) eff :=
  ⟨_, fun s => by show execVmax g d a b ty m s = _; delta execVmax issueV issueFree; rfl⟩

theorem execVabs_issue (g d a ty m) : ∃ eff, ∀ s,
    exec (.vabs g d a ty m) s = issue (.vabs g d a ty m) g s (checksOf (.vabs g d a ty m)) (roomOf (.vabs g d a ty m)) eff :=
  ⟨_, fun s => by show execVabs g d a ty m s = _; delta execVabs issueV issueFree; rfl⟩

theorem execVneg_issue (g d a ty m) : ∃ eff, ∀ s,
    exec (.vneg g d a ty m) s = issue (.vneg g d a ty m) g s (checksOf (.vneg g d a ty m)) (roomOf (.vneg g d a ty m)) eff :=
  ⟨_, fun s => by show execVneg g d a ty m s = _; delta execVneg issueV issueFree; rfl⟩

theorem execVcmpf_issue (g d a b ty cc m) : ∃ eff, ∀ s,
    exec (.vcmpf g d a b ty cc m) s = issue (.vcmpf g d a b ty cc m) g s (checksOf (.vcmpf g d a b ty cc m)) (roomOf (.vcmpf g d a b ty cc m)) eff :=
  ⟨_, fun s => by show execVcmpf g d a b ty cc m s = _; delta execVcmpf issueM issueFree; rfl⟩

theorem execVclass_issue (g d a ty m) : ∃ eff, ∀ s,
    exec (.vclass g d a ty m) s = issue (.vclass g d a ty m) g s (checksOf (.vclass g d a ty m)) (roomOf (.vclass g d a ty m)) eff :=
  ⟨_, fun s => by show execVclass g d a ty m s = _; delta execVclass issueV issueFree; rfl⟩

theorem execVexp2_issue (g d a m) : ∃ eff, ∀ s,
    exec (.vexp2 g d a m) s = issue (.vexp2 g d a m) g s (checksOf (.vexp2 g d a m)) (roomOf (.vexp2 g d a m)) eff :=
  ⟨_, fun s => by show execVexp2 g d a m s = _; delta execVexp2 issueSfu issueChk; rfl⟩

theorem execVlog2_issue (g d a m) : ∃ eff, ∀ s,
    exec (.vlog2 g d a m) s = issue (.vlog2 g d a m) g s (checksOf (.vlog2 g d a m)) (roomOf (.vlog2 g d a m)) eff :=
  ⟨_, fun s => by show execVlog2 g d a m s = _; delta execVlog2 issueSfu issueChk; rfl⟩

theorem execVrcp_issue (g d a m) : ∃ eff, ∀ s,
    exec (.vrcp g d a m) s = issue (.vrcp g d a m) g s (checksOf (.vrcp g d a m)) (roomOf (.vrcp g d a m)) eff :=
  ⟨_, fun s => by show execVrcp g d a m s = _; delta execVrcp issueSfu issueChk; rfl⟩

theorem execVrsq_issue (g d a m) : ∃ eff, ∀ s,
    exec (.vrsq g d a m) s = issue (.vrsq g d a m) g s (checksOf (.vrsq g d a m)) (roomOf (.vrsq g d a m)) eff :=
  ⟨_, fun s => by show execVrsq g d a m s = _; delta execVrsq issueSfu issueChk; rfl⟩

theorem execVredadd_issue (g d a m) : ∃ eff, ∀ s,
    exec (.vredadd g d a m) s = issue (.vredadd g d a m) g s (checksOf (.vredadd g d a m)) (roomOf (.vredadd g d a m)) eff :=
  ⟨_, fun s => by show execVredadd g d a m s = _; delta execVredadd issueRedF issueS issueFree; rfl⟩

theorem execVredmax_issue (g d a m) : ∃ eff, ∀ s,
    exec (.vredmax g d a m) s = issue (.vredmax g d a m) g s (checksOf (.vredmax g d a m)) (roomOf (.vredmax g d a m)) eff :=
  ⟨_, fun s => by show execVredmax g d a m s = _; delta execVredmax issueRedF issueS issueFree; rfl⟩

theorem execVredmin_issue (g d a m) : ∃ eff, ∀ s,
    exec (.vredmin g d a m) s = issue (.vredmin g d a m) g s (checksOf (.vredmin g d a m)) (roomOf (.vredmin g d a m)) eff :=
  ⟨_, fun s => by show execVredmin g d a m s = _; delta execVredmin issueRedF issueS issueFree; rfl⟩

theorem execVscan_issue (g d a m) : ∃ eff, ∀ s,
    exec (.vscan g d a m) s = issue (.vscan g d a m) g s (checksOf (.vscan g d a m)) (roomOf (.vscan g d a m)) eff :=
  ⟨_, fun s => by show execVscan g d a m s = _; delta execVscan issueV issueFree; rfl⟩

theorem execVcvt_issue (g d a dst src rc m) : ∃ eff, ∀ s,
    exec (.vcvt g d a dst src rc m) s = issue (.vcvt g d a dst src rc m) g s (checksOf (.vcvt g d a dst src rc m)) (roomOf (.vcvt g d a dst src rc m)) eff :=
  ⟨_, fun s => by show execVcvt g d a dst src rc m s = _; delta execVcvt issueV issueFree; rfl⟩

theorem execVpack_issue (g d a b ty scale) : ∃ eff, ∀ s,
    exec (.vpack g d a b ty scale) s = issue (.vpack g d a b ty scale) g s (checksOf (.vpack g d a b ty scale)) (roomOf (.vpack g d a b ty scale)) eff :=
  ⟨_, fun s => by show execVpack g d a b ty scale s = _; delta execVpack issueFree; rfl⟩

theorem execVunpk_issue (g d a b ty scale) : ∃ eff, ∀ s,
    exec (.vunpk g d a b ty scale) s = issue (.vunpk g d a b ty scale) g s (checksOf (.vunpk g d a b ty scale)) (roomOf (.vunpk g d a b ty scale)) eff :=
  ⟨_, fun s => by show execVunpk g d a b ty scale s = _; delta execVunpk issueFree; rfl⟩

theorem execViadd_issue (g d a b ty sat m) : ∃ eff, ∀ s,
    exec (.viadd g d a b ty sat m) s = issue (.viadd g d a b ty sat m) g s (checksOf (.viadd g d a b ty sat m)) (roomOf (.viadd g d a b ty sat m)) eff :=
  ⟨_, fun s => by show execViadd g d a b ty sat m s = _; delta execViadd issueV issueFree; rfl⟩

theorem execVisub_issue (g d a b ty sat m) : ∃ eff, ∀ s,
    exec (.visub g d a b ty sat m) s = issue (.visub g d a b ty sat m) g s (checksOf (.visub g d a b ty sat m)) (roomOf (.visub g d a b ty sat m)) eff :=
  ⟨_, fun s => by show execVisub g d a b ty sat m s = _; delta execVisub issueV issueFree; rfl⟩

theorem execVimul_issue (g d a b ty sat m) : ∃ eff, ∀ s,
    exec (.vimul g d a b ty sat m) s = issue (.vimul g d a b ty sat m) g s (checksOf (.vimul g d a b ty sat m)) (roomOf (.vimul g d a b ty sat m)) eff :=
  ⟨_, fun s => by show execVimul g d a b ty sat m s = _; delta execVimul issueV issueFree; rfl⟩

theorem execVimulh_issue (g d a b ty m) : ∃ eff, ∀ s,
    exec (.vimulh g d a b ty m) s = issue (.vimulh g d a b ty m) g s (checksOf (.vimulh g d a b ty m)) (roomOf (.vimulh g d a b ty m)) eff :=
  ⟨_, fun s => by show execVimulh g d a b ty m s = _; delta execVimulh issueV issueFree; rfl⟩

theorem execVand_issue (g d a b ty m) : ∃ eff, ∀ s,
    exec (.vand g d a b ty m) s = issue (.vand g d a b ty m) g s (checksOf (.vand g d a b ty m)) (roomOf (.vand g d a b ty m)) eff :=
  ⟨_, fun s => by show execVand g d a b ty m s = _; delta execVand issueV issueFree; rfl⟩

theorem execVor_issue (g d a b ty m) : ∃ eff, ∀ s,
    exec (.vor g d a b ty m) s = issue (.vor g d a b ty m) g s (checksOf (.vor g d a b ty m)) (roomOf (.vor g d a b ty m)) eff :=
  ⟨_, fun s => by show execVor g d a b ty m s = _; delta execVor issueV issueFree; rfl⟩

theorem execVxor_issue (g d a b ty m) : ∃ eff, ∀ s,
    exec (.vxor g d a b ty m) s = issue (.vxor g d a b ty m) g s (checksOf (.vxor g d a b ty m)) (roomOf (.vxor g d a b ty m)) eff :=
  ⟨_, fun s => by show execVxor g d a b ty m s = _; delta execVxor issueV issueFree; rfl⟩

theorem execVshl_issue (g d a b ty m) : ∃ eff, ∀ s,
    exec (.vshl g d a b ty m) s = issue (.vshl g d a b ty m) g s (checksOf (.vshl g d a b ty m)) (roomOf (.vshl g d a b ty m)) eff :=
  ⟨_, fun s => by show execVshl g d a b ty m s = _; delta execVshl issueV issueFree; rfl⟩

theorem execVshr_issue (g d a b ty m) : ∃ eff, ∀ s,
    exec (.vshr g d a b ty m) s = issue (.vshr g d a b ty m) g s (checksOf (.vshr g d a b ty m)) (roomOf (.vshr g d a b ty m)) eff :=
  ⟨_, fun s => by show execVshr g d a b ty m s = _; delta execVshr issueV issueFree; rfl⟩

theorem execVsar_issue (g d a b ty m) : ∃ eff, ∀ s,
    exec (.vsar g d a b ty m) s = issue (.vsar g d a b ty m) g s (checksOf (.vsar g d a b ty m)) (roomOf (.vsar g d a b ty m)) eff :=
  ⟨_, fun s => by show execVsar g d a b ty m s = _; delta execVsar issueV issueFree; rfl⟩

theorem execVicmp_issue (g d a b ty cc m) : ∃ eff, ∀ s,
    exec (.vicmp g d a b ty cc m) s = issue (.vicmp g d a b ty cc m) g s (checksOf (.vicmp g d a b ty cc m)) (roomOf (.vicmp g d a b ty cc m)) eff :=
  ⟨_, fun s => by show execVicmp g d a b ty cc m s = _; delta execVicmp issueM issueFree; rfl⟩

theorem execVimin_issue (g d a b ty m) : ∃ eff, ∀ s,
    exec (.vimin g d a b ty m) s = issue (.vimin g d a b ty m) g s (checksOf (.vimin g d a b ty m)) (roomOf (.vimin g d a b ty m)) eff :=
  ⟨_, fun s => by show execVimin g d a b ty m s = _; delta execVimin issueV issueFree; rfl⟩

theorem execVimax_issue (g d a b ty m) : ∃ eff, ∀ s,
    exec (.vimax g d a b ty m) s = issue (.vimax g d a b ty m) g s (checksOf (.vimax g d a b ty m)) (roomOf (.vimax g d a b ty m)) eff :=
  ⟨_, fun s => by show execVimax g d a b ty m s = _; delta execVimax issueV issueFree; rfl⟩

theorem execVired_issue (g d a ty op m) : ∃ eff, ∀ s,
    exec (.vired g d a ty op m) s = issue (.vired g d a ty op m) g s (checksOf (.vired g d a ty op m)) (roomOf (.vired g d a ty op m)) eff :=
  ⟨_, fun s => by show execVired g d a ty op m s = _; delta execVired issueS issueFree; rfl⟩

theorem execVbcast_issue (g d a ty m) : ∃ eff, ∀ s,
    exec (.vbcast g d a ty m) s = issue (.vbcast g d a ty m) g s (checksOf (.vbcast g d a ty m)) (roomOf (.vbcast g d a ty m)) eff :=
  ⟨_, fun s => by show execVbcast g d a ty m s = _; delta execVbcast issueV issueFree; rfl⟩

theorem execVext_issue (g d a b ty) : ∃ eff, ∀ s,
    exec (.vext g d a b ty) s = issue (.vext g d a b ty) g s (checksOf (.vext g d a b ty)) (roomOf (.vext g d a b ty)) eff :=
  ⟨_, fun s => by show execVext g d a b ty s = _; delta execVext issueS issueFree; rfl⟩

theorem execVins_issue (g d a b ty) : ∃ eff, ∀ s,
    exec (.vins g d a b ty) s = issue (.vins g d a b ty) g s (checksOf (.vins g d a b ty)) (roomOf (.vins g d a b ty)) eff :=
  ⟨_, fun s => by show execVins g d a b ty s = _; delta execVins issueFree; rfl⟩

theorem execVsel_issue (g d a b c) : ∃ eff, ∀ s,
    exec (.vsel g d a b c) s = issue (.vsel g d a b c) g s (checksOf (.vsel g d a b c)) (roomOf (.vsel g d a b c)) eff :=
  ⟨_, fun s => by show execVsel g d a b c s = _; delta execVsel issueFree; rfl⟩

theorem execVpermb_issue (g d a b lane m) : ∃ eff, ∀ s,
    exec (.vpermb g d a b lane m) s = issue (.vpermb g d a b lane m) g s (checksOf (.vpermb g d a b lane m)) (roomOf (.vpermb g d a b lane m)) eff :=
  ⟨_, fun s => by show execVpermb g d a b lane m s = _; delta execVpermb issueV issueFree; rfl⟩

theorem execVshuf_issue (g d a b m) : ∃ eff, ∀ s,
    exec (.vshuf g d a b m) s = issue (.vshuf g d a b m) g s (checksOf (.vshuf g d a b m)) (roomOf (.vshuf g d a b m)) eff :=
  ⟨_, fun s => by show execVshuf g d a b m s = _; delta execVshuf issueV issueFree; rfl⟩

theorem execVslide_issue (g d a b c down m) : ∃ eff, ∀ s,
    exec (.vslide g d a b c down m) s = issue (.vslide g d a b c down m) g s (checksOf (.vslide g d a b c down m)) (roomOf (.vslide g d a b c down m)) eff :=
  ⟨_, fun s => by show execVslide g d a b c down m s = _; delta execVslide issueV issueFree; rfl⟩

theorem execViota_issue (g d a m) : ∃ eff, ∀ s,
    exec (.viota g d a m) s = issue (.viota g d a m) g s (checksOf (.viota g d a m)) (roomOf (.viota g d a m)) eff :=
  ⟨_, fun s => by show execViota g d a m s = _; delta execViota issueV issueFree; rfl⟩

theorem execMlog_issue (g d a b tt) : ∃ eff, ∀ s,
    exec (.mlog g d a b tt) s = issue (.mlog g d a b tt) g s (checksOf (.mlog g d a b tt)) (roomOf (.mlog g d a b tt)) eff :=
  ⟨_, fun s => by show execMlog g d a b tt s = _; delta execMlog issueMask issueFree; rfl⟩

theorem execMfirst_issue (g d a) : ∃ eff, ∀ s,
    exec (.mfirst g d a) s = issue (.mfirst g d a) g s (checksOf (.mfirst g d a)) (roomOf (.mfirst g d a)) eff :=
  ⟨_, fun s => by show execMfirst g d a s = _; delta execMfirst issueS issueFree; rfl⟩

theorem execMpopc_issue (g d a) : ∃ eff, ∀ s,
    exec (.mpopc g d a) s = issue (.mpopc g d a) g s (checksOf (.mpopc g d a)) (roomOf (.mpopc g d a)) eff :=
  ⟨_, fun s => by show execMpopc g d a s = _; delta execMpopc issueS issueFree; rfl⟩

theorem execMset_issue (g d a b first) : ∃ eff, ∀ s,
    exec (.mset g d a b first) s = issue (.mset g d a b first) g s (checksOf (.mset g d a b first)) (roomOf (.mset g d a b first)) eff :=
  ⟨_, fun s => by show execMset g d a b first s = _; delta execMset issueMask issueFree; rfl⟩

theorem execMget_issue (g d a hi) : ∃ eff, ∀ s,
    exec (.mget g d a hi) s = issue (.mget g d a hi) g s (checksOf (.mget g d a hi)) (roomOf (.mget g d a hi)) eff :=
  ⟨_, fun s => by show execMget g d a hi s = _; delta execMget issueS issueFree; rfl⟩

theorem execPld_issue (g d a b ty uns npl q) : ∃ eff, ∀ s,
    exec (.pld g d a b ty uns npl q) s = issue (.pld g d a b ty uns npl q) g s (checksOf (.pld g d a b ty uns npl q)) (roomOf (.pld g d a b ty uns npl q)) eff :=
  ⟨_, fun s => by show execPld g d a b ty uns npl q s = _; delta execPld issueArray issueQ; rfl⟩

theorem execPldv_issue (g d a b ty uns npl q) : ∃ eff, ∀ s,
    exec (.pldv g d a b ty uns npl q) s = issue (.pldv g d a b ty uns npl q) g s (checksOf (.pldv g d a b ty uns npl q)) (roomOf (.pldv g d a b ty uns npl q)) eff :=
  ⟨_, fun s => by show execPldv g d a b ty uns npl q s = _; delta execPldv issueArray issueQ; rfl⟩

theorem execAz_issue (g acc q) : ∃ eff, ∀ s,
    exec (.az g acc q) s = issue (.az g acc q) g s (checksOf (.az g acc q)) (roomOf (.az g acc q)) eff :=
  ⟨_, fun s => by show execAz g acc q s = _; delta execAz issueArray issueQ; rfl⟩

theorem execMma_issue (g a b acc wa npl ua ub bs nb q) : ∃ eff, ∀ s,
    exec (.mma g a b acc wa npl ua ub bs nb q) s = issue (.mma g a b acc wa npl ua ub bs nb q) g s (checksOf (.mma g a b acc wa npl ua ub bs nb q)) (roomOf (.mma g a b acc wa npl ua ub bs nb q)) eff :=
  ⟨_, fun s => by show execMma g a b acc wa npl ua ub bs nb q s = _; delta execMma issueArray issueQ; rfl⟩

theorem execArd_issue (g a b acc q) : ∃ eff, ∀ s,
    exec (.ard g a b acc q) s = issue (.ard g a b acc q) g s (checksOf (.ard g a b acc q)) (roomOf (.ard g a b acc q)) eff :=
  ⟨_, fun s => by show execArd g a b acc q s = _; delta execArd issueArray issueQ; rfl⟩

theorem execAwr_issue (g a b acc q) : ∃ eff, ∀ s,
    exec (.awr g a b acc q) s = issue (.awr g a b acc q) g s (checksOf (.awr g a b acc q)) (roomOf (.awr g a b acc q)) eff :=
  ⟨_, fun s => by show execAwr g a b acc q s = _; delta execAwr issueArray issueQ; rfl⟩

theorem execAscl_issue (g a acc q) : ∃ eff, ∀ s,
    exec (.ascl g a acc q) s = issue (.ascl g a acc q) g s (checksOf (.ascl g a acc q)) (roomOf (.ascl g a acc q)) eff :=
  ⟨_, fun s => by show execAscl g a acc q s = _; delta execAscl issueArray issueQ; rfl⟩

theorem execArowmax_issue (g a b acc q) : ∃ eff, ∀ s,
    exec (.arowmax g a b acc q) s = issue (.arowmax g a b acc q) g s (checksOf (.arowmax g a b acc q)) (roomOf (.arowmax g a b acc q)) eff :=
  ⟨_, fun s => by show execArowmax g a b acc q s = _; delta execArowmax issueArray issueQ; rfl⟩

theorem execAexp_issue (g a acc q) : ∃ eff, ∀ s,
    exec (.aexp g a acc q) s = issue (.aexp g a acc q) g s (checksOf (.aexp g a acc q)) (roomOf (.aexp g a acc q)) eff :=
  ⟨_, fun s => by show execAexp g a acc q s = _; delta execAexp issueArray issueQ; rfl⟩

theorem execArowsum_issue (g a b acc q) : ∃ eff, ∀ s,
    exec (.arowsum g a b acc q) s = issue (.arowsum g a b acc q) g s (checksOf (.arowsum g a b acc q)) (roomOf (.arowsum g a b acc q)) eff :=
  ⟨_, fun s => by show execArowsum g a b acc q s = _; delta execArowsum issueArray issueQ; rfl⟩

theorem execAcvt_issue (g a acc uns npl q) : ∃ eff, ∀ s,
    exec (.acvt g a acc uns npl q) s = issue (.acvt g a acc uns npl q) g s (checksOf (.acvt g a acc uns npl q)) (roomOf (.acvt g a acc uns npl q)) eff :=
  ⟨_, fun s => by show execAcvt g a acc uns npl q s = _; delta execAcvt issueArray issueQ; rfl⟩

theorem execAmask_issue (g a b acc q) : ∃ eff, ∀ s,
    exec (.amask g a b acc q) s = issue (.amask g a b acc q) g s (checksOf (.amask g a b acc q)) (roomOf (.amask g a b acc q)) eff :=
  ⟨_, fun s => by show execAmask g a b acc q s = _; delta execAmask issueArray issueQ; rfl⟩

theorem execAttv_issue (g d a b acc wa npl ub mk d128 q) : ∃ eff, ∀ s,
    exec (.attv g d a b acc wa npl ub mk d128 q) s = issue (.attv g d a b acc wa npl ub mk d128 q) g s (checksOf (.attv g d a b acc wa npl ub mk d128 q)) (roomOf (.attv g d a b acc wa npl ub mk d128 q)) eff :=
  ⟨_, fun s => by show execAttv g d a b acc wa npl ub mk d128 q s = _; delta execAttv issueArray issueQ; rfl⟩

theorem execAcmb_issue (g d a b acc d128 q) : ∃ eff, ∀ s,
    exec (.acmb g d a b acc d128 q) s = issue (.acmb g d a b acc d128 q) g s (checksOf (.acmb g d a b acc d128 q)) (roomOf (.acmb g d a b acc d128 q)) eff :=
  ⟨_, fun s => by show execAcmb g d a b acc d128 q s = _; delta execAcmb issueArray issueQ; rfl⟩

theorem execAnrm_issue (g a acc d128 q) : ∃ eff, ∀ s,
    exec (.anrm g a acc d128 q) s = issue (.anrm g a acc d128 q) g s (checksOf (.anrm g a acc d128 q)) (roomOf (.anrm g a acc d128 q)) eff :=
  ⟨_, fun s => by show execAnrm g a acc d128 q s = _; delta execAnrm issueArray issueQ; rfl⟩

theorem execTsend_issue (g a b q) : ∃ eff, ∀ s,
    exec (.tsend g a b q) s = issue (.tsend g a b q) g s (checksOf (.tsend g a b q)) (roomOf (.tsend g a b q)) eff :=
  ⟨_, fun s => by show execTsend g a b q s = _; delta execTsend issueNet issueQ; rfl⟩

theorem execTfwd_issue (g l b q) : ∃ eff, ∀ s,
    exec (.tfwd g l b q) s = issue (.tfwd g l b q) g s (checksOf (.tfwd g l b q)) (roomOf (.tfwd g l b q)) eff :=
  ⟨_, fun s => by show execTfwd g l b q s = _; delta execTfwd issueNet issueQ; rfl⟩

theorem execTfork_issue (g d l b q) : ∃ eff, ∀ s,
    exec (.tfork g d l b q) s = issue (.tfork g d l b q) g s (checksOf (.tfork g d l b q)) (roomOf (.tfork g d l b q)) eff :=
  ⟨_, fun s => by show execTfork g d l b q s = _; delta execTfork issueNet issueQ; rfl⟩

theorem execTjoin_issue (g d l) : ∃ eff, ∀ s,
    exec (.tjoin g d l) s = issue (.tjoin g d l) g s (checksOf (.tjoin g d l)) (roomOf (.tjoin g d l)) eff :=
  ⟨_, fun s => by show execTjoin g d l s = _; delta execTjoin issueChk; rfl⟩

theorem execTtake_issue (g d l word rel) : ∃ eff, ∀ s,
    exec (.ttake g d l word rel) s = issue (.ttake g d l word rel) g s (checksOf (.ttake g d l word rel)) (roomOf (.ttake g d l word rel)) eff :=
  ⟨_, fun s => by show execTtake g d l word rel s = _; delta execTtake issueChk; rfl⟩

theorem execHret_issue (g) : ∃ eff, ∀ s,
    exec (.hret g) s = issue (.hret g) g s (checksOf (.hret g)) (roomOf (.hret g)) eff :=
  ⟨_, fun s => by show execHret g s = _; delta execHret issueChk; rfl⟩

theorem execHset_issue (g a b) : ∃ eff, ∀ s,
    exec (.hset g a b) s = issue (.hset g a b) g s (checksOf (.hset g a b)) (roomOf (.hset g a b)) eff :=
  ⟨_, fun s => by show execHset g a b s = _; delta execHset issueChk; rfl⟩

theorem execHmsk_issue (g a b) : ∃ eff, ∀ s,
    exec (.hmsk g a b) s = issue (.hmsk g a b) g s (checksOf (.hmsk g a b)) (roomOf (.hmsk g a b)) eff :=
  ⟨_, fun s => by show execHmsk g a b s = _; delta execHmsk issueChk; rfl⟩

theorem execEos_issue (g a q) : ∃ eff, ∀ s,
    exec (.eos g a q) s = issue (.eos g a q) g s (checksOf (.eos g a q)) (roomOf (.eos g a q)) eff :=
  ⟨_, fun s => by show execEos g a q s = _; delta execEos issueNet issueQ; rfl⟩

theorem execCfgld_issue (g a b q) : ∃ eff, ∀ s,
    exec (.cfgld g a b q) s = issue (.cfgld g a b q) g s (checksOf (.cfgld g a b q)) (roomOf (.cfgld g a b q)) eff :=
  ⟨_, fun s => by show execCfgld g a b q s = _; delta execCfgld issueNet issueQ; rfl⟩

theorem execCfgswap_issue (g) : ∃ eff, ∀ s,
    exec (.cfgswap g) s = issue (.cfgswap g) g s (checksOf (.cfgswap g)) (roomOf (.cfgswap g)) eff :=
  ⟨_, fun s => by show execCfgswap g s = _; delta execCfgswap issueChk; rfl⟩

theorem execDrainq_issue (g d) : ∃ eff, ∀ s,
    exec (.drainq g d) s = issue (.drainq g d) g s (checksOf (.drainq g d)) (roomOf (.drainq g d)) eff :=
  ⟨_, fun s => by show execDrainq g d s = _; delta execDrainq issueS issueFree; rfl⟩

theorem execShlk_issue (g d a b q) : ∃ eff, ∀ s,
    exec (.shlk g d a b q) s = issue (.shlk g d a b q) g s (checksOf (.shlk g d a b q)) (roomOf (.shlk g d a b q)) eff :=
  ⟨_, fun s => by show execShlk g d a b q s = _; delta execShlk issueShard issueQ; rfl⟩

theorem execShmap_issue (g d a b new q) : ∃ eff, ∀ s,
    exec (.shmap g d a b new q) s = issue (.shmap g d a b new q) g s (checksOf (.shmap g d a b new q)) (roomOf (.shmap g d a b new q)) eff :=
  ⟨_, fun s => by show execShmap g d a b new q s = _; delta execShmap issueShard issueQ; rfl⟩

theorem execShunmap_issue (g d a b cond q) : ∃ eff, ∀ s,
    exec (.shunmap g d a b cond q) s = issue (.shunmap g d a b cond q) g s (checksOf (.shunmap g d a b cond q)) (roomOf (.shunmap g d a b cond q)) eff :=
  ⟨_, fun s => by show execShunmap g d a b cond q s = _; delta execShunmap issueShard issueQ; rfl⟩

theorem execShref_issue (g d a b dec q) : ∃ eff, ∀ s,
    exec (.shref g d a b dec q) s = issue (.shref g d a b dec q) g s (checksOf (.shref g d a b dec q)) (roomOf (.shref g d a b dec q)) eff :=
  ⟨_, fun s => by show execShref g d a b dec q s = _; delta execShref issueShard issueQ; rfl⟩

theorem execCpy_issue (g d a b e q) : ∃ eff, ∀ s,
    exec (.cpy g d a b e q) s = issue (.cpy g d a b e q) g s (checksOf (.cpy g d a b e q)) (roomOf (.cpy g d a b e q)) eff :=
  ⟨_, fun s => by show execCpy g d a b e q s = _; delta execCpy issueEng issueQ; rfl⟩

theorem execCpy2_issue (g d e q) : ∃ eff, ∀ s,
    exec (.cpy2 g d e q) s = issue (.cpy2 g d e q) g s (checksOf (.cpy2 g d e q)) (roomOf (.cpy2 g d e q)) eff :=
  ⟨_, fun s => by show execCpy2 g d e q s = _; delta execCpy2 issueDesc issueEng issueQ; rfl⟩

theorem execCpyl_issue (g d a e q) : ∃ eff, ∀ s,
    exec (.cpyl g d a e q) s = issue (.cpyl g d a e q) g s (checksOf (.cpyl g d a e q)) (roomOf (.cpyl g d a e q)) eff :=
  ⟨_, fun s => by show execCpyl g d a e q s = _; delta execCpyl issueEng issueQ; rfl⟩

theorem execCpyc_issue (g d e q) : ∃ eff, ∀ s,
    exec (.cpyc g d e q) s = issue (.cpyc g d e q) g s (checksOf (.cpyc g d e q)) (roomOf (.cpyc g d e q)) eff :=
  ⟨_, fun s => by show execCpyc g d e q s = _; delta execCpyc issueDesc issueEng issueQ; rfl⟩

theorem execFill_issue (g d a b e q) : ∃ eff, ∀ s,
    exec (.fill g d a b e q) s = issue (.fill g d a b e q) g s (checksOf (.fill g d a b e q)) (roomOf (.fill g d a b e q)) eff :=
  ⟨_, fun s => by show execFill g d a b e q s = _; delta execFill issueEng issueQ; rfl⟩

theorem execQfence_issue (g a e q) : ∃ eff, ∀ s,
    exec (.qfence g a e q) s = issue (.qfence g a e q) g s (checksOf (.qfence g a e q)) (roomOf (.qfence g a e q)) eff :=
  ⟨_, fun s => by show execQfence g a e q s = _; delta execQfence issueEng issueQ; rfl⟩

theorem execTwait_issue (g a tag any) : ∃ eff, ∀ s,
    exec (.twait g a tag any) s = issue (.twait g a tag any) g s (checksOf (.twait g a tag any)) (roomOf (.twait g a tag any)) eff :=
  ⟨_, fun s => by show execTwait g a tag any s = _; delta execTwait issueFree; rfl⟩

theorem execTfirst_issue (g d a) : ∃ eff, ∀ s,
    exec (.tfirst g d a) s = issue (.tfirst g d a) g s (checksOf (.tfirst g d a)) (roomOf (.tfirst g d a)) eff :=
  ⟨_, fun s => by show execTfirst g d a s = _; delta execTfirst issueS issueFree; rfl⟩

theorem execTclr_issue (g a) : ∃ eff, ∀ s,
    exec (.tclr g a) s = issue (.tclr g a) g s (checksOf (.tclr g a)) (roomOf (.tclr g a)) eff :=
  ⟨_, fun s => by show execTclr g a s = _; delta execTclr issueFree; rfl⟩

theorem execBkinit_issue (g k d a) : ∃ eff, ∀ s,
    exec (.bkinit g k d a) s = issue (.bkinit g k d a) g s (checksOf (.bkinit g k d a)) (roomOf (.bkinit g k d a)) eff :=
  ⟨_, fun s => by show execBkinit g k d a s = _; delta execBkinit issueChk; rfl⟩

theorem execBkaw_issue (g k d once) : ∃ eff, ∀ s,
    exec (.bkaw g k d once) s = issue (.bkaw g k d once) g s (checksOf (.bkaw g k d once)) (roomOf (.bkaw g k d once)) eff :=
  ⟨_, fun s => by show execBkaw g k d once s = _; delta execBkaw issueChk; rfl⟩

theorem execBkpost_issue (g k a b) : ∃ eff, ∀ s,
    exec (.bkpost g k a b) s = issue (.bkpost g k a b) g s (checksOf (.bkpost g k a b)) (roomOf (.bkpost g k a b)) eff :=
  ⟨_, fun s => by show execBkpost g k a b s = _; delta execBkpost issueChk; rfl⟩

theorem execBkrel_issue (g k a) : ∃ eff, ∀ s,
    exec (.bkrel g k a) s = issue (.bkrel g k a) g s (checksOf (.bkrel g k a)) (roomOf (.bkrel g k a)) eff :=
  ⟨_, fun s => by show execBkrel g k a s = _; delta execBkrel issueChk; rfl⟩

theorem execRst_issue (g d a size) : ∃ eff, ∀ s,
    exec (.rst g d a size) s = issue (.rst g d a size) g s (checksOf (.rst g d a size)) (roomOf (.rst g d a size)) eff :=
  ⟨_, fun s => by show execRst g d a size s = _; delta execRst issueElem; rfl⟩

theorem execRat_issue (g d a op size comb) : ∃ eff, ∀ s,
    exec (.rat g d a op size comb) s = issue (.rat g d a op size comb) g s (checksOf (.rat g d a op size comb)) (roomOf (.rat g d a op size comb)) eff :=
  ⟨_, fun s => by show execRat g d a op size comb s = _; delta execRat issueElem; rfl⟩

theorem execRatf_issue (g d a b op size q) : ∃ eff, ∀ s,
    exec (.ratf g d a b op size q) s = issue (.ratf g d a b op size q) g s (checksOf (.ratf g d a b op size q)) (roomOf (.ratf g d a b op size q)) eff :=
  ⟨_, fun s => by show execRatf g d a b op size q s = _; delta execRatf issueQ; rfl⟩

theorem execRld_issue (g d a size q) : ∃ eff, ∀ s,
    exec (.rld g d a size q) s = issue (.rld g d a size q) g s (checksOf (.rld g d a size q)) (roomOf (.rld g d a size q)) eff :=
  ⟨_, fun s => by show execRld g d a size q s = _; delta execRld issueQ; rfl⟩

theorem execHflush_issue (g d all q) : ∃ eff, ∀ s,
    exec (.hflush g d all q) s = issue (.hflush g d all q) g s (checksOf (.hflush g d all q)) (roomOf (.hflush g d all q)) eff :=
  ⟨_, fun s => by show execHflush g d all q s = _; delta execHflush issueQ; rfl⟩

theorem execHcfg_issue (g a) : ∃ eff, ∀ s,
    exec (.hcfg g a) s = issue (.hcfg g a) g s (checksOf (.hcfg g a)) (roomOf (.hcfg g a)) eff :=
  ⟨_, fun s => by show execHcfg g a s = _; delta execHcfg issueFree; rfl⟩

theorem execHstat_issue (g d a dst) : ∃ eff, ∀ s,
    exec (.hstat g d a dst) s = issue (.hstat g d a dst) g s (checksOf (.hstat g d a dst)) (roomOf (.hstat g d a dst)) eff :=
  ⟨_, fun s => by show execHstat g d a dst s = _; delta execHstat issueChk; rfl⟩

theorem execFence_issue (g k scope) : ∃ eff, ∀ s,
    exec (.fence g k scope) s = issue (.fence g k scope) g s (checksOf (.fence g k scope)) (roomOf (.fence g k scope)) eff :=
  ⟨_, fun s => by show execFence g k scope s = _; delta execFence; rfl⟩

theorem execBari_issue (g d a mem q) : ∃ eff, ∀ s,
    exec (.bari g d a mem q) s = issue (.bari g d a mem q) g s (checksOf (.bari g d a mem q)) (roomOf (.bari g d a mem q)) eff :=
  ⟨_, fun s => by show execBari g d a mem q s = _; delta execBari issueQ; rfl⟩

theorem execBara_issue (g d mem q) : ∃ eff, ∀ s,
    exec (.bara g d mem q) s = issue (.bara g d mem q) g s (checksOf (.bara g d mem q)) (roomOf (.bara g d mem q)) eff :=
  ⟨_, fun s => by show execBara g d mem q s = _; delta execBara issueQ; rfl⟩

theorem execBarw_issue (g d mem) : ∃ eff, ∀ s,
    exec (.barw g d mem) s = issue (.barw g d mem) g s (checksOf (.barw g d mem)) (roomOf (.barw g d mem)) eff :=
  ⟨_, fun s => by show execBarw g d mem s = _; delta execBarw; rfl⟩

theorem execWaitm_issue (g d a cc) : ∃ eff, ∀ s,
    exec (.waitm g d a cc) s = issue (.waitm g d a cc) g s (checksOf (.waitm g d a cc)) (roomOf (.waitm g d a cc)) eff :=
  ⟨_, fun s => by show execWaitm g d a cc s = _; delta execWaitm; rfl⟩

theorem execPhase_issue (g) : ∃ eff, ∀ s,
    exec (.phase g) s = issue (.phase g) g s (checksOf (.phase g)) (roomOf (.phase g)) eff :=
  ⟨_, fun s => by show execPhase g s = _; delta execPhase; rfl⟩

theorem execPrep_issue (g) : ∃ eff, ∀ s,
    exec (.prep g) s = issue (.prep g) g s (checksOf (.prep g)) (roomOf (.prep g)) eff :=
  ⟨_, fun s => by show execPrep g s = _; delta execPrep issueChk; rfl⟩

theorem execKeep_issue (g d a plain) : ∃ eff, ∀ s,
    exec (.keep g d a plain) s = issue (.keep g d a plain) g s (checksOf (.keep g d a plain)) (roomOf (.keep g d a plain)) eff :=
  ⟨_, fun s => by show execKeep g d a plain s = _; delta execKeep issueChk; rfl⟩

theorem execDisc_issue (g d a) : ∃ eff, ∀ s,
    exec (.disc g d a) s = issue (.disc g d a) g s (checksOf (.disc g d a)) (roomOf (.disc g d a)) eff :=
  ⟨_, fun s => by show execDisc g d a s = _; delta execDisc issueChk; rfl⟩

theorem execNred_issue (g d a b op size q) : ∃ eff, ∀ s,
    exec (.nred g d a b op size q) s = issue (.nred g d a b op size q) g s (checksOf (.nred g d a b op size q)) (roomOf (.nred g d a b op size q)) eff :=
  ⟨_, fun s => by show execNred g d a b op size q s = _; delta execNred issueColl issueQ; rfl⟩

theorem execNbcast_issue (g d a b size root q) : ∃ eff, ∀ s,
    exec (.nbcast g d a b size root q) s = issue (.nbcast g d a b size root q) g s (checksOf (.nbcast g d a b size root q)) (roomOf (.nbcast g d a b size root q)) eff :=
  ⟨_, fun s => by show execNbcast g d a b size root q s = _; delta execNbcast issueColl issueQ; rfl⟩

/-- Of every instruction word. -/
theorem exec_issue (i : Instr) (g : Guard) (h : i.guard = some g) :
    ∃ eff, ∀ s, exec i s = issue i g s (checksOf i) (roomOf i) eff := by
  cases i with
  | add g d a b ty sat => cases h; exact execAdd_issue ..
  | addImm g d a imm => cases h; exact execAddImm_issue ..
  | sub g d a b ty sat => cases h; exact execSub_issue ..
  | subImm g d a imm => cases h; exact execSubImm_issue ..
  | mul g d a b ty sat => cases h; exact execMul_issue ..
  | mulImm g d a imm => cases h; exact execMulImm_issue ..
  | mulh g d a b ty => cases h; exact execMulh_issue ..
  | div g d a b ty => cases h; exact execDiv_issue ..
  | rem g d a b ty => cases h; exact execRem_issue ..
  | and g d a b ty => cases h; exact execAnd_issue ..
  | andImm g d a imm => cases h; exact execAndImm_issue ..
  | or g d a b ty => cases h; exact execOr_issue ..
  | orImm g d a imm => cases h; exact execOrImm_issue ..
  | xor g d a b ty => cases h; exact execXor_issue ..
  | xorImm g d a imm => cases h; exact execXorImm_issue ..
  | andn g d a b ty => cases h; exact execAndn_issue ..
  | shl g d a b ty => cases h; exact execShl_issue ..
  | shlImm g d a imm => cases h; exact execShlImm_issue ..
  | shr g d a b ty => cases h; exact execShr_issue ..
  | shrImm g d a imm => cases h; exact execShrImm_issue ..
  | sar g d a b ty => cases h; exact execSar_issue ..
  | sarImm g d a imm => cases h; exact execSarImm_issue ..
  | rotl g d a b ty => cases h; exact execRotl_issue ..
  | rotlImm g d a imm => cases h; exact execRotlImm_issue ..
  | min g d a b ty => cases h; exact execMin_issue ..
  | minImm g d a imm => cases h; exact execMinImm_issue ..
  | max g d a b ty => cases h; exact execMax_issue ..
  | maxImm g d a imm => cases h; exact execMaxImm_issue ..
  | abs g d a ty sat => cases h; exact execAbs_issue ..
  | clz g d a ty => cases h; exact execClz_issue ..
  | ctz g d a ty => cases h; exact execCtz_issue ..
  | popc g d a ty => cases h; exact execPopc_issue ..
  | bswap g d a ty => cases h; exact execBswap_issue ..
  | bfx g d a pos wid => cases h; exact execBfx_issue ..
  | bfi g d a pos wid => cases h; exact execBfi_issue ..
  | lea g d a b k => cases h; exact execLea_issue ..
  | leaImm g d a imm => cases h; exact execLeaImm_issue ..
  | movi g d imm => cases h; exact execMovi_issue ..
  | movhi g d a imm => cases h; exact execMovhi_issue ..
  | mov g d a ty => cases h; exact execMov_issue ..
  | cmp g d a b ty cc => cases h; exact execCmp_issue ..
  | cmpImm g d a cc uns imm => cases h; exact execCmpImm_issue ..
  | csel g d a b p => cases h; exact execCsel_issue ..
  | plog g d a b tt => cases h; exact execPlog_issue ..
  | pmov g f => cases f <;> (cases h; exact execPmov_issue ..)
  | nop g => cases h; exact execNop_issue ..
  | br g off => cases h; exact execBr_issue ..
  | jmp g lc off => cases h; exact execJmp_issue ..
  | call g lc off => cases h; exact execCall_issue ..
  | ret g lc => cases h; exact execRet_issue ..
  | loop g lc off => cases h; exact execLoop_issue ..
  | yield g imm => cases h; exact execYield_issue ..
  | sleep g a imm => cases h; exact execSleep_issue ..
  | endSlot g => cases h; exact execEndSlot_issue ..
  | trap g imm => cases h; exact execTrap_issue ..
  | eret g skip => cases h; exact execEret_issue ..
  | mfs g d n => cases h; exact execMfs_issue ..
  | mts g n a => cases h; exact execMts_issue ..
  | cycle g d => cases h; exact execCycle_issue ..
  | time g d => cases h; exact execTime_issue ..
  | capq g d a => cases h; exact execCapq_issue ..
  | widq g d f k => cases h; exact execWidq_issue ..
  | ld g d a size sx off => cases h; exact execLd_issue ..
  | st g d a size scope off => cases h; exact execSt_issue ..
  | ldp g d a size sx off => cases h; exact execLdp_issue ..
  | stp g d a size scope off => cases h; exact execStp_issue ..
  | latom g d a b c ty op => cases h; exact execLatom_issue ..
  | cwb g => cases h; exact execCwb_issue ..
  | iinv g d a off => cases h; exact execIinv_issue ..
  | fetchb g => cases h; exact execFetchb_issue ..
  | vld g d a size sx off => cases h; exact execVld_issue ..
  | vst g d a size scope off => cases h; exact execVst_issue ..
  | vlds g d a b ty m => cases h; exact execVlds_issue ..
  | vsts g a b c ty m => cases h; exact execVsts_issue ..
  | vgath g d a b ty m k => cases h; exact execVgath_issue ..
  | vscat g a b c ty m k => cases h; exact execVscat_issue ..
  | vadd g d a b ty m => cases h; exact execVadd_issue ..
  | vsub g d a b ty m => cases h; exact execVsub_issue ..
  | vmul g d a b ty m => cases h; exact execVmul_issue ..
  | vfma g d a b c ty m => cases h; exact execVfma_issue ..
  | vfms g d a b c ty m => cases h; exact execVfms_issue ..
  | vmin g d a b ty m => cases h; exact execVmin_issue ..
  | vmax g d a b ty m => cases h; exact execVmax_issue ..
  | vabs g d a ty m => cases h; exact execVabs_issue ..
  | vneg g d a ty m => cases h; exact execVneg_issue ..
  | vcmpf g d a b ty cc m => cases h; exact execVcmpf_issue ..
  | vclass g d a ty m => cases h; exact execVclass_issue ..
  | vexp2 g d a m => cases h; exact execVexp2_issue ..
  | vlog2 g d a m => cases h; exact execVlog2_issue ..
  | vrcp g d a m => cases h; exact execVrcp_issue ..
  | vrsq g d a m => cases h; exact execVrsq_issue ..
  | vredadd g d a m => cases h; exact execVredadd_issue ..
  | vredmax g d a m => cases h; exact execVredmax_issue ..
  | vredmin g d a m => cases h; exact execVredmin_issue ..
  | vscan g d a m => cases h; exact execVscan_issue ..
  | vcvt g d a dst src rc m => cases h; exact execVcvt_issue ..
  | vpack g d a b ty scale => cases h; exact execVpack_issue ..
  | vunpk g d a b ty scale => cases h; exact execVunpk_issue ..
  | viadd g d a b ty sat m => cases h; exact execViadd_issue ..
  | visub g d a b ty sat m => cases h; exact execVisub_issue ..
  | vimul g d a b ty sat m => cases h; exact execVimul_issue ..
  | vimulh g d a b ty m => cases h; exact execVimulh_issue ..
  | vand g d a b ty m => cases h; exact execVand_issue ..
  | vor g d a b ty m => cases h; exact execVor_issue ..
  | vxor g d a b ty m => cases h; exact execVxor_issue ..
  | vshl g d a b ty m => cases h; exact execVshl_issue ..
  | vshr g d a b ty m => cases h; exact execVshr_issue ..
  | vsar g d a b ty m => cases h; exact execVsar_issue ..
  | vicmp g d a b ty cc m => cases h; exact execVicmp_issue ..
  | vimin g d a b ty m => cases h; exact execVimin_issue ..
  | vimax g d a b ty m => cases h; exact execVimax_issue ..
  | vired g d a ty op m => cases h; exact execVired_issue ..
  | vbcast g d a ty m => cases h; exact execVbcast_issue ..
  | vext g d a b ty => cases h; exact execVext_issue ..
  | vins g d a b ty => cases h; exact execVins_issue ..
  | vsel g d a b c => cases h; exact execVsel_issue ..
  | vpermb g d a b lane m => cases h; exact execVpermb_issue ..
  | vshuf g d a b m => cases h; exact execVshuf_issue ..
  | vslide g d a b c down m => cases h; exact execVslide_issue ..
  | viota g d a m => cases h; exact execViota_issue ..
  | mlog g d a b tt => cases h; exact execMlog_issue ..
  | mfirst g d a => cases h; exact execMfirst_issue ..
  | mpopc g d a => cases h; exact execMpopc_issue ..
  | mset g d a b first => cases h; exact execMset_issue ..
  | mget g d a hi => cases h; exact execMget_issue ..
  | pld g d a b ty uns npl q => cases h; exact execPld_issue ..
  | pldv g d a b ty uns npl q => cases h; exact execPldv_issue ..
  | az g acc q => cases h; exact execAz_issue ..
  | mma g a b acc wa npl ua ub bs nb q => cases h; exact execMma_issue ..
  | ard g a b acc q => cases h; exact execArd_issue ..
  | awr g a b acc q => cases h; exact execAwr_issue ..
  | ascl g a acc q => cases h; exact execAscl_issue ..
  | arowmax g a b acc q => cases h; exact execArowmax_issue ..
  | aexp g a acc q => cases h; exact execAexp_issue ..
  | arowsum g a b acc q => cases h; exact execArowsum_issue ..
  | acvt g a acc uns npl q => cases h; exact execAcvt_issue ..
  | amask g a b acc q => cases h; exact execAmask_issue ..
  | attv g d a b acc wa npl ub mk d128 q => cases h; exact execAttv_issue ..
  | acmb g d a b acc d128 q => cases h; exact execAcmb_issue ..
  | anrm g a acc d128 q => cases h; exact execAnrm_issue ..
  | tsend g a b q => cases h; exact execTsend_issue ..
  | tfwd g l b q => cases h; exact execTfwd_issue ..
  | tfork g d l b q => cases h; exact execTfork_issue ..
  | tjoin g d l => cases h; exact execTjoin_issue ..
  | ttake g d l word rel => cases h; exact execTtake_issue ..
  | hret g => cases h; exact execHret_issue ..
  | hset g a b => cases h; exact execHset_issue ..
  | hmsk g a b => cases h; exact execHmsk_issue ..
  | eos g a q => cases h; exact execEos_issue ..
  | cfgld g a b q => cases h; exact execCfgld_issue ..
  | cfgswap g => cases h; exact execCfgswap_issue ..
  | drainq g d => cases h; exact execDrainq_issue ..
  | shlk g d a b q => cases h; exact execShlk_issue ..
  | shmap g d a b new q => cases h; exact execShmap_issue ..
  | shunmap g d a b cond q => cases h; exact execShunmap_issue ..
  | shref g d a b dec q => cases h; exact execShref_issue ..
  | cpy g d a b e q => cases h; exact execCpy_issue ..
  | cpy2 g d e q => cases h; exact execCpy2_issue ..
  | cpyl g d a e q => cases h; exact execCpyl_issue ..
  | cpyc g d e q => cases h; exact execCpyc_issue ..
  | fill g d a b e q => cases h; exact execFill_issue ..
  | qfence g a e q => cases h; exact execQfence_issue ..
  | twait g a tag any => cases h; exact execTwait_issue ..
  | tfirst g d a => cases h; exact execTfirst_issue ..
  | tclr g a => cases h; exact execTclr_issue ..
  | bkinit g k d a => cases h; exact execBkinit_issue ..
  | bkaw g k d once => cases h; exact execBkaw_issue ..
  | bkpost g k a b => cases h; exact execBkpost_issue ..
  | bkrel g k a => cases h; exact execBkrel_issue ..
  | rst g d a size => cases h; exact execRst_issue ..
  | rat g d a op size comb => cases h; exact execRat_issue ..
  | ratf g d a b op size q => cases h; exact execRatf_issue ..
  | rld g d a size q => cases h; exact execRld_issue ..
  | hflush g d all q => cases h; exact execHflush_issue ..
  | hcfg g a => cases h; exact execHcfg_issue ..
  | hstat g d a dst => cases h; exact execHstat_issue ..
  | fence g k scope => cases h; exact execFence_issue ..
  | bari g d a mem q => cases h; exact execBari_issue ..
  | bara g d mem q => cases h; exact execBara_issue ..
  | barw g d mem => cases h; exact execBarw_issue ..
  | waitm g d a cc => cases h; exact execWaitm_issue ..
  | phase g => cases h; exact execPhase_issue ..
  | prep g => cases h; exact execPrep_issue ..
  | keep g d a plain => cases h; exact execKeep_issue ..
  | disc g d a => cases h; exact execDisc_issue ..
  | nred g d a b op size q => cases h; exact execNred_issue ..
  | nbcast g d a b size root q => cases h; exact execNbcast_issue ..
  | _ => cases h

end Sys2Proof.Machine
end

