-- ==== Sys2Proof/Laws/Operands.lean ====
section
/-!
SUPPORT. The laws of the operand forms: the 64-bit integer types as plain arithmetic on words, and results that depend on the
low bits only.
-/

namespace Sys2Proof.Machine

theorem valOf_i64 (x : W64) : valOf .i64 x.toNat = x.toInt := by
  have h : x.toNat % 2 ^ 64 = x.toNat := Nat.mod_eq_of_lt x.isLt
  simp only [valOf, Ty.isSigned, tyWidth, if_true, svOf, h, BitVec.toInt_eq_toNat_cond]
  split <;> split <;> omega

theorem valOf_n64 (x : W64) : valOf .n64 x.toNat = x.toNat := by
  have h : x.toNat % 2 ^ 64 = x.toNat := Nat.mod_eq_of_lt x.isLt
  have e : valOf .n64 x.toNat = ((x.toNat % 2 ^ 64 : Nat) : Int) := rfl
  rw [e, h]

theorem extOf_i64 (r : Int) : extOf .i64 r = BitVec.ofInt 64 r := by
  have h : wrapTo 64 r < 2 ^ 64 := by unfold wrapTo; omega
  simp only [extOf, Ty.isSigned, tyWidth, if_true, svOf, Nat.mod_eq_of_lt h]
  apply BitVec.eq_of_toNat_eq
  simp only [BitVec.toNat_ofInt]
  unfold wrapTo
  split <;> omega

/-- EXT sees an integer modulo 2^w (R200). -/
theorem extOf_congr {ty : Ty} {x y : Int} (h : x % (2 ^ tyWidth ty : Nat) = y % (2 ^ tyWidth ty : Nat)) :
    extOf ty x = extOf ty y := by
  simp only [extOf, wrapTo, h]

theorem extOf_and (ty : Ty) (x y : Nat) :
    extOf ty (uvOf (tyWidth ty) x &&& uvOf (tyWidth ty) y : Nat) = extOf ty (x &&& y : Nat) := by
  apply extOf_congr
  rw [uvOf, uvOf, ← Nat.and_mod_two_pow]
  rw [← Int.natCast_emod, ← Int.natCast_emod, Nat.mod_mod]

theorem extOf_or (ty : Ty) (x y : Nat) :
    extOf ty (uvOf (tyWidth ty) x ||| uvOf (tyWidth ty) y : Nat) = extOf ty (x ||| y : Nat) := by
  apply extOf_congr
  rw [uvOf, uvOf, ← Nat.or_mod_two_pow]
  rw [← Int.natCast_emod, ← Int.natCast_emod, Nat.mod_mod]

theorem extOf_xor (ty : Ty) (x y : Nat) :
    extOf ty (uvOf (tyWidth ty) x ^^^ uvOf (tyWidth ty) y : Nat) = extOf ty (x ^^^ y : Nat) := by
  apply extOf_congr
  rw [uvOf, uvOf, ← Nat.xor_mod_two_pow]
  rw [← Int.natCast_emod, ← Int.natCast_emod, Nat.mod_mod]

/-- A count of bits is not changed by EXT. -/
theorem extOf_small (ty : Ty) (n : Nat) (h : n ≤ tyWidth ty) : extOf ty (n : Int) = BitVec.ofNat 64 n := by
  have key : ∀ w, 4 ≤ w → n ≤ w → n < 2 ^ (w - 1) := by
    intro w hw hn
    have : ∀ k, 3 ≤ k → k + 1 < 2 ^ k := by
      intro k hk
      induction k with
      | zero => omega
      | succ k ih =>
        rcases Nat.lt_or_ge 3 (k + 1) with h1 | h1
        · have := ih (by omega); rw [Nat.pow_succ]; omega
        · have : k = 2 := by omega
          subst this; decide
    have := this (w - 1) (by omega)
    omega
  have hw : 4 ≤ tyWidth ty := by cases ty <;> decide
  have h1 := key _ hw h
  have h2 : 2 ^ (tyWidth ty - 1) < 2 ^ tyWidth ty := Nat.pow_lt_pow_right (by omega) (by omega)
  have h3 : wrapTo (tyWidth ty) (n : Int) = n := by
    unfold wrapTo
    rw [← Int.natCast_emod, Int.toNat_natCast]
    exact Nat.mod_eq_of_lt (by omega)
  simp only [extOf, h3, svOf, Nat.mod_eq_of_lt (show n < 2 ^ tyWidth ty by omega), h1, if_true]
  split
  · exact BitVec.ofInt_natCast 64 n
  · rfl

theorem clzN_le (w x : Nat) : clzN w x ≤ w := by unfold clzN; split <;> omega

theorem lowestSet_lt {x n k : Nat} (h : lowestSet x n = some k) : k < n := by
  have := List.mem_of_find?_eq_some h
  simpa using this

theorem ctzN_le (w x : Nat) : ctzN w x ≤ w := by
  unfold ctzN
  cases h : lowestSet x w with
  | none => simp
  | some k => have := lowestSet_lt h; simp; omega

theorem popNat_le (x n : Nat) : popNat x n ≤ n := by
  induction n with
  | zero => simp [popNat]
  | succ n ih => simp only [popNat]; split <;> omega

/-- A bit below a modulus. -/
theorem bitOf_mod (x w n : Nat) (h : n < w) : bitOf (x % 2 ^ w) n = bitOf x n := by
  unfold bitOf
  have h1 : x % 2 ^ w / 2 ^ n % 2 = x / 2 ^ n % 2 := by
    have := Nat.testBit_mod_two_pow x w n
    simp only [Nat.testBit, h, decide_true, Bool.true_and, Nat.shiftRight_eq_div_pow] at this
    have e : ∀ y : Nat, (1 &&& y != 0) = (y % 2 == 1) := by
      intro y
      rw [Nat.and_comm, Nat.and_one_is_mod]
      rcases Nat.mod_two_eq_zero_or_one y with h | h <;> simp [h]
    rw [e, e] at this
    rcases Nat.mod_two_eq_zero_or_one (x % 2 ^ w / 2 ^ n) with h1 | h1 <;>
      rcases Nat.mod_two_eq_zero_or_one (x / 2 ^ n) with h2 | h2 <;> simp [h1, h2] at this ⊢
  rw [h1]

theorem popNat_mod (x w n : Nat) (h : n ≤ w) : popNat (x % 2 ^ w) n = popNat x n := by
  induction n with
  | zero => rfl
  | succ n ih => simp only [popNat, bitOf_mod x w n (by omega), ih (by omega)]

/-- A field of a word. -/
theorem ofNat_fld (x : W64) (pos wid : Nat) :
    BitVec.ofNat 64 (fld x pos wid) = x >>> pos &&& BitVec.ofNat 64 (2 ^ wid - 1) := by
  apply BitVec.eq_of_getLsbD_eq
  intro i hi
  simp only [BitVec.getLsbD_ofNat, BitVec.getLsbD_and, BitVec.getLsbD_ushiftRight, hi, decide_true, Bool.true_and, fld, bitsOf,
    Nat.testBit_mod_two_pow, Nat.testBit_div_two_pow, Nat.testBit_two_pow_sub_one]
  rw [BitVec.getLsbD, Nat.add_comm, Bool.and_comm]

/-! ### Masks -/

theorem maskOf_succ (n : Nat) (f : Nat → Bool) : maskOf (n + 1) f = maskOf n f + if f n then 2 ^ n else 0 := by
  simp [maskOf, List.range_succ, List.foldl_append]

theorem maskOf_lt (n : Nat) (f : Nat → Bool) : maskOf n f < 2 ^ n := by
  induction n with
  | zero => simp [maskOf]
  | succ n ih =>
    rw [maskOf_succ, Nat.pow_succ]
    split <;> omega

theorem bitOf_eq_testBit (x n : Nat) : bitOf x n = x.testBit n := by
  rw [bitOf, Nat.testBit_eq_decide_div_mod_eq]
  by_cases h : x / 2 ^ n % 2 = 1 <;> simp [h]

/-- A bit of a mask built from its bits. -/
theorem bitOf_maskOf (n k : Nat) (f : Nat → Bool) : bitOf (maskOf n f) k = (decide (k < n) && f k) := by
  induction n with
  | zero => simp [maskOf, bitOf]
  | succ n ih =>
    rw [maskOf_succ, bitOf_eq_testBit]
    have hlt := maskOf_lt n f
    rcases Nat.lt_trichotomy k n with h | h | h
    · have e : (maskOf n f + if f n = true then 2 ^ n else 0).testBit k = (maskOf n f).testBit k := by
        split
        · rw [Nat.add_comm, Nat.testBit_two_pow_add_gt h]
        · rfl
      rw [e, ← bitOf_eq_testBit, ih]
      simp [h, Nat.lt_succ_of_lt h]
    · subst h
      have e := Nat.testBit_lt_two_pow hlt
      cases hf : f k
      · simp [e]
      · simp only [if_true, Nat.add_comm (maskOf k f), Nat.testBit_two_pow_add_eq, e]
        simp
    · have : (maskOf n f + if f n = true then 2 ^ n else 0) < 2 ^ k := by
        have h1 : 2 ^ (n + 1) ≤ 2 ^ k := Nat.pow_le_pow_right (by omega) h
        rw [Nat.pow_succ] at h1
        split <;> omega
      rw [Nat.testBit_lt_two_pow this]
      simp; omega

/-! ### Immediate forms (R202) -/

theorem immOf_toInt {n : Nat} (imm : BitVec n) : (immOf imm).toInt = (imm.signExtend 64).toInt := rfl

theorem imm_add (x y : W64) : extOf .i64 (valOf .i64 x.toNat + y.toInt) = x + y := by
  rw [valOf_i64, extOf_i64, BitVec.ofInt_add]; simp

theorem imm_sub (x y : W64) : extOf .i64 (valOf .i64 x.toNat - y.toInt) = x - y := by
  rw [valOf_i64, extOf_i64, Int.sub_eq_add_neg, BitVec.ofInt_add, BitVec.ofInt_neg, BitVec.sub_eq_add_neg]; simp

theorem imm_mul (x y : W64) : extOf .i64 (valOf .i64 x.toNat * y.toInt) = x * y := by
  rw [valOf_i64, extOf_i64, BitVec.ofInt_mul]; simp

theorem imm_min (x y : W64) :
    extOf .i64 (if valOf .i64 x.toNat ≤ y.toInt then valOf .i64 x.toNat else y.toInt) = if x.sle y then x else y := by
  rw [valOf_i64]
  simp only [BitVec.sle, decide_eq_true_eq]
  split <;> (rw [extOf_i64]; simp)

theorem imm_max (x y : W64) :
    extOf .i64 (if valOf .i64 x.toNat ≤ y.toInt then y.toInt else valOf .i64 x.toNat) = if x.sle y then y else x := by
  rw [valOf_i64]
  simp only [BitVec.sle, decide_eq_true_eq]
  split <;> (rw [extOf_i64]; simp)

theorem extOf_i64_nat (n : Nat) : extOf .i64 (n : Int) = BitVec.ofNat 64 n := by
  rw [extOf_i64]; exact BitVec.ofInt_natCast 64 n

theorem uv64 (x : W64) : uvOf 64 x.toNat = x.toNat := Nat.mod_eq_of_lt x.isLt

theorem imm_shl (x : W64) (n : Nat) : extOf .i64 (shlN 64 (uvOf 64 x.toNat) n : Nat) = x <<< n := by
  rw [extOf_i64_nat, uv64]
  apply BitVec.eq_of_toNat_eq
  simp only [shlN, BitVec.toNat_ofNat, BitVec.toNat_shiftLeft, Nat.shiftLeft_eq]
  split
  · simp
  · next h =>
    have : 2 ^ n = 2 ^ 64 * 2 ^ (n - 64) := by rw [← Nat.pow_add]; congr 1; omega
    rw [this, ← Nat.mul_assoc, Nat.mul_comm x.toNat, Nat.mul_assoc, Nat.mul_mod_right]

theorem imm_shr (x : W64) (n : Nat) : extOf .i64 (shrN 64 (uvOf 64 x.toNat) n : Nat) = x >>> n := by
  rw [extOf_i64_nat, uv64]
  apply BitVec.eq_of_toNat_eq
  simp only [shrN, BitVec.toNat_ofNat, BitVec.toNat_ushiftRight, Nat.shiftRight_eq_div_pow]
  split
  · exact Nat.mod_eq_of_lt (Nat.lt_of_le_of_lt (Nat.div_le_self _ _) x.isLt)
  · next h =>
    have h1 : 2 ^ 64 ≤ 2 ^ n := Nat.pow_le_pow_right (by omega) (by omega)
    rw [Nat.div_eq_of_lt (Nat.lt_of_lt_of_le x.isLt h1)]

theorem imm_sar (x : W64) (n : Nat) : extOf .i64 (sarI 64 x.toNat n) = x.sshiftRight n := by
  have h0 : svOf 64 x.toNat = x.toInt := by
    have := valOf_i64 x
    simpa [valOf, Ty.isSigned, tyWidth] using this
  rw [extOf_i64]
  unfold sarI
  rw [h0]
  show _ = BitVec.ofInt 64 (x.toInt >>> n)
  rw [Int.shiftRight_eq_div_pow]
  have hlo := BitVec.le_toInt x
  have hhi := BitVec.toInt_lt (x := x)
  have hp : (0 : Int) ≤ (2 ^ n : Nat) := Int.natCast_nonneg _
  split
  · rw [Int.fdiv_eq_ediv_of_nonneg _ hp]
  · next h =>
    have h1 : 2 ^ 64 ≤ 2 ^ n := Nat.pow_le_pow_right (by omega) (by omega)
    have h2 : ((2 ^ 64 : Nat) : Int) ≤ (2 ^ n : Nat) := by exact_mod_cast h1
    split
    · rw [Int.ediv_eq_neg_one_of_neg_of_le (by omega) (by omega)]
    · rw [Int.ediv_eq_zero_of_lt (by omega) (by omega)]

theorem imm_rotl (x : W64) (n : Nat) : extOf .i64 (rotlN 64 (uvOf 64 x.toNat) n : Nat) = x.rotateLeft (n % 64) := by
  rw [extOf_i64_nat, uv64]
  simp only [rotlN]
  have hm : n % 64 < 64 := Nat.mod_lt _ (by omega)
  generalize n % 64 = k at hm
  rw [BitVec.rotateLeft_eq_rotateLeftAux_of_lt hm]
  apply BitVec.eq_of_toNat_eq
  simp only [BitVec.rotateLeftAux, BitVec.toNat_or, BitVec.toNat_shiftLeft, BitVec.toNat_ushiftRight, BitVec.toNat_ofNat]
  have hx := x.isLt
  generalize x.toNat = y at hx
  have h1 : y * 2 ^ k % 2 ^ 64 = (y % 2 ^ (64 - k)) * 2 ^ k := by
    rw [show (2 : Nat) ^ 64 = 2 ^ (64 - k) * 2 ^ k by rw [← Nat.pow_add]; congr 1; omega, Nat.mul_mod_mul_right]
  have h2 : y / 2 ^ (64 - k) < 2 ^ k := by
    rw [Nat.div_lt_iff_lt_mul (Nat.two_pow_pos _), ← Nat.pow_add]
    exact Nat.lt_of_lt_of_le hx (Nat.pow_le_pow_right (by omega) (by omega))
  have h3 : y % 2 ^ (64 - k) < 2 ^ (64 - k) := Nat.mod_lt _ (Nat.two_pow_pos _)
  rw [Nat.shiftLeft_eq, Nat.shiftRight_eq_div_pow, h1, ← Nat.shiftLeft_eq, Nat.shiftLeft_add_eq_or_of_lt h2]
  apply Nat.mod_eq_of_lt
  rw [← Nat.shiftLeft_add_eq_or_of_lt h2, Nat.shiftLeft_eq]
  have h4 : (y % 2 ^ (64 - k) + 1) * 2 ^ k ≤ 2 ^ (64 - k) * 2 ^ k := Nat.mul_le_mul_right _ h3
  rw [← Nat.pow_add, show 64 - k + k = 64 by omega, Nat.add_mul] at h4
  omega

end Sys2Proof.Machine
end

