-- ==== Sys2Proof/Laws/Registers.lean ====
section
/-!
SUPPORT. What the shared forms of the register instructions do: the write with its latency, what the slot then reads, and that
nothing else changes.
-/

namespace Sys2Proof.Machine

/-- The write of a scalar, as what the slot reads in its landing cycle. -/
theorem State.writeS_retire (s : State) (i : Instr) (g : Guard) (lat : Nat) (d : SReg) (w : W64)
    (ht : s.me.timely s.cyc = true) :
    let t := ((s.noteIssue i).writeS lat d w).retire g
    t.me.regS (s.cyc + lat) d.toNat = (if d = 0 then 0 else w) ∧
      s.wroteOnly t g (if d = 0 then none else some (.s d.toNat w)) := by
  by_cases hd : d = 0
  · subst hd
    simp only [State.writeS, if_true]
    exact ⟨by simp [Slot.regS], s.wroteOnly_none i g⟩
  · have h := s.wroteOnly_pend i lat (.s d.toNat w) g
    simp only [State.writeS, hd, if_false]
    refine ⟨?_, h.1⟩
    have hz : ¬ d.toNat = 0 := fun e => hd (BitVec.eq_of_toNat_eq e)
    simp only [Slot.regS, hz, if_false, h.2]
    exact viewReg_land _ _ _ _ _ _ _ _ (by simp [selS]) (by simpa [Slot.timely_iff] using ht)

/-- The write of a scalar by an instruction of which the slot keeps the cycle. -/
theorem State.writeS_mod_retire (s : State) (i : Instr) (g : Guard) (lat : Nat) (d : SReg) (w : W64) (dv sf : Bool) (f : Slot → Slot)
    (hf : ∀ x, f x = { x with lastDiv := if dv then some s.cyc else x.lastDiv, lastSfu := if sf then some s.cyc else x.lastSfu })
    (ht : s.me.timely s.cyc = true) :
    let t := (((s.noteIssue i).writeS lat d w).modMe f).retire g
    t.me.regS (s.cyc + lat) d.toNat = (if d = 0 then 0 else w) ∧
      s.wroteOnly t g (if d = 0 then none else some (.s d.toNat w)) dv sf := by
  by_cases hd : d = 0
  · subst hd
    simp only [State.writeS, if_true]
    exact ⟨by simp [Slot.regS], s.wroteOnly_none_mod i g dv sf f hf⟩
  · have h := s.wroteOnly_pend_mod i lat (.s d.toNat w) g dv sf f hf
    simp only [State.writeS, hd, if_false]
    refine ⟨?_, h.1⟩
    have hz : ¬ d.toNat = 0 := fun e => hd (BitVec.eq_of_toNat_eq e)
    simp only [Slot.regS, hz, if_false, h.2]
    exact viewReg_land _ _ _ _ _ _ _ _ (by simp [selS]) (by simpa [Slot.timely_iff] using ht)

/-- A scalar result of a fixed pipeline. -/
theorem issueS_result (i : Instr) (g : Guard) (s : State) (lat : Nat) (d : SReg) (v : State → W64) (w : W64)
    (hr : s.ready i g = true) (ht : s.me.timely s.cyc = true) (hv : v (s.noteIssue i) = w) :
    ∃ t, issueS i g s lat d v = .next t ∧ t.me.regS (s.cyc + lat) d.toNat = (if d = 0 then 0 else w) ∧
      s.wroteOnly t g (if d = 0 then none else some (.s d.toNat w)) := by
  have h := issue_runs i g s (fun _ => none) (fun _ => true) (fun s => (s.writeS lat d (v s)).retire g) hr rfl rfl
  exact ⟨_, h, by simpa only [hv] using s.writeS_retire i g lat d w ht⟩

/-- A scalar divide. -/
theorem issueDiv_result (i : Instr) (g : Guard) (s : State) (d : SReg) (v : State → W64) (w : W64)
    (hr : s.ready i g = true) (hc : intervalTrap 1 24 s.me.lastDiv s.cyc = none) (ht : s.me.timely s.cyc = true)
    (hv : v (s.noteIssue i) = w) :
    ∃ t, issueDiv i g d v s = .next t ∧ t.me.regS (s.cyc + 24) d.toNat = (if d = 0 then 0 else w) ∧
      s.wroteOnly t g (if d = 0 then none else some (.s d.toNat w)) true := by
  have h := issue_runs i g s (fun s => intervalTrap 1 24 s.me.lastDiv s.cyc) (fun _ => true)
    (fun s => ((s.writeS latDiv d (v s)).modMe fun x => { x with lastDiv := some s.cyc }).retire g) hr hc rfl
  subst hv
  exact ⟨_, h, s.writeS_mod_retire i g 24 d _ true false (fun x => { x with lastDiv := some s.cyc }) (fun x => by simp) ht⟩

end Sys2Proof.Machine
end

