-- ==== Sys2Proof/Tests/Slice0.lean ====
section
/-!
SUPPORT. Tests. The words are put together here from the formats of R178 and R179, the opcodes of the opcode map and the fields
that each instruction's rule gives; expected results come from the worked examples and tables of spec/ or from calculation by hand.
-/

-- one theorem after another: many at once, each with a stack of its own, fill the memory
set_option Elab.async false

namespace Sys2Proof.Tests

open Sys2Proof Sys2Proof.Machine

/-! ### Words by format (R178, R179), all with PRED = 2, PNEG = 1, HOLD = 1 -/

def gd : Guard := ⟨2, true, 1⟩
def word (op low : Nat) : BitVec 64 := BitVec.ofNat 64 (op * 2 ^ 54 + 2 * 2 ^ 51 + 2 ^ 50 + 2 ^ 47 + low)
def three (d s1 s2 : Nat) : Nat := d * 2 ^ 40 + s1 * 2 ^ 33 + s2 * 2 ^ 26
def fA (op d s1 s2 s3 ty msk mz sat sub : Nat) : BitVec 64 :=
  word op (three d s1 s2 + s3 * 2 ^ 19 + ty * 2 ^ 14 + msk * 2 ^ 11 + mz * 2 ^ 10 + sat * 2 ^ 9 + sub)
def fI (op d s1 imm : Nat) : BitVec 64 := word op (three d s1 0 + imm)
def fM (op data base size scope sx off : Nat) : BitVec 64 :=
  word op (three data base 0 + size * 2 ^ 30 + scope * 2 ^ 27 + sx * 2 ^ 26 + off)
def fJ (op lc off : Nat) : BitVec 64 := word op (lc * 2 ^ 40 + off)
def fE (op desc s1 s2 tag queue eng scope kind sub : Nat) : BitVec 64 :=
  word op (three desc s1 s2 + tag * 2 ^ 20 + queue * 2 ^ 17 + eng * 2 ^ 13 + scope * 2 ^ 10 + kind * 2 ^ 8 + sub)
def fX (op d s1 s2 acc npl fmt sub : Nat) : BitVec 64 :=
  word op (three d s1 s2 + acc * 2 ^ 24 + npl * 2 ^ 20 + fmt * 2 ^ 14 + sub)
def fY (op d s1 sys yimm : Nat) : BitVec 64 := word op (three d s1 0 + sys * 2 ^ 21 + yimm)

/-- Vector register, predicate, lane mask and token latch specifiers (R169). -/
def v (n : Nat) : Nat := 0x40 + n
def p (n : Nat) : Nat := 0x60 + n
def m (n : Nat) : Nat := 0x68 + n
def t (n : Nat) : Nat := 0x74 + n

/-- Each word decodes to the instruction beside it. -/
def reads (l : List (BitVec 64 × Instr)) : Bool := l.all fun x => decode x.1 == .ok x.2

/-- Scalar arithmetic, logic, moves and predicates (R200 to R212). -/
theorem test_decode_scalar : reads [
  (fA 0x001 5 6 7 0 3 0 0 1 0, .add gd 5 6 7 .i64 true),
  (fA 0x002 5 6 7 0 4 0 0 0 0, .sub gd 5 6 7 .n8 false),
  (fA 0x003 5 6 7 0 1 0 0 1 0, .mul gd 5 6 7 .i16 true),
  (fA 0x004 5 6 7 0 2 0 0 0 0, .mulh gd 5 6 7 .i32),
  (fA 0x005 5 6 7 0 5 0 0 0 0, .div gd 5 6 7 .n16),
  (fA 0x006 5 6 7 0 6 0 0 0 0, .rem gd 5 6 7 .n32),
  (fA 0x007 5 6 7 0 7 0 0 0 0, .and gd 5 6 7 .n64),
  (fA 0x008 5 6 7 0 0 0 0 0 0, .or gd 5 6 7 .i8),
  (fA 0x009 5 6 7 0 3 0 0 0 0, .xor gd 5 6 7 .i64),
  (fA 0x00A 5 6 7 0 4 0 0 0 0, .andn gd 5 6 7 .n8),
  (fA 0x00B 5 6 7 0 1 0 0 0 0, .shl gd 5 6 7 .i16),
  (fA 0x00C 5 6 7 0 2 0 0 0 0, .shr gd 5 6 7 .i32),
  (fA 0x00D 5 6 7 0 3 0 0 0 0, .sar gd 5 6 7 .i64),
  (fA 0x00E 5 6 7 0 5 0 0 0 0, .rotl gd 5 6 7 .n16),
  (fA 0x00F 5 6 7 0 0 0 0 0 0, .min gd 5 6 7 .i8),
  (fA 0x010 5 6 7 0 7 0 0 0 0, .max gd 5 6 7 .n64),
  (fA 0x011 5 6 0 0 2 0 0 1 0, .abs gd 5 6 .i32 true),
  (fA 0x012 5 6 0 0 3 0 0 0 0, .clz gd 5 6 .i64),
  (fA 0x013 5 6 0 0 6 0 0 0 0, .ctz gd 5 6 .n32),
  (fA 0x014 5 6 0 0 0 0 0 0 0, .popc gd 5 6 .i8),
  (fA 0x015 5 6 0 0 7 0 0 0 0, .bswap gd 5 6 .n64),
  (fA 0x01B 5 6 0 0 1 0 0 0 0, .mov gd 5 6 .i16),
  (fA 0x018 5 6 7 0 0 0 0 0 3, .lea gd 5 6 7 3),
  (fA 0x01C (p 3) 6 7 0 7 0 0 0 5, .cmp gd 3 6 7 .n64 .ge),
  (fA 0x01D 5 6 7 (p 4) 0 0 0 0 0, .csel gd 5 6 7 4),
  (fA 0x01E (p 3) (p 1) (p 2) 0 0 0 0 0 4, .plog gd 3 1 2 4),
  (fA 0x01F 5 0 0 0 0 0 0 0 0, .pmov gd (.pk 5)),
  (fA 0x01F 0 6 0 0 0 0 0 0 1, .pmov gd (.upk 6)),
  (fA 0x01F (p 5) 6 0 0 0 0 0 0 2, .pmov gd (.sp 5 6)),
  (fA 0x01F 5 (p 6) 0 0 0 0 0 0 3, .pmov gd (.ps 5 6))] = true := by decide

/-- The I format (R202, R207, R208, R209). -/
theorem test_decode_immediates : reads [
  (fI 0x021 5 6 (2 ^ 33 - 3), .addImm gd 5 6 (-3)),
  (fI 0x022 5 6 (2 ^ 33 - 3), .subImm gd 5 6 (-3)),
  (fI 0x023 5 6 (2 ^ 33 - 3), .mulImm gd 5 6 (-3)),
  (fI 0x027 5 6 (2 ^ 33 - 3), .andImm gd 5 6 (-3)),
  (fI 0x028 5 6 (2 ^ 33 - 3), .orImm gd 5 6 (-3)),
  (fI 0x029 5 6 (2 ^ 33 - 3), .xorImm gd 5 6 (-3)),
  (fI 0x02B 5 6 (2 ^ 33 - 3), .shlImm gd 5 6 (-3)),
  (fI 0x02C 5 6 (2 ^ 33 - 3), .shrImm gd 5 6 (-3)),
  (fI 0x02D 5 6 (2 ^ 33 - 3), .sarImm gd 5 6 (-3)),
  (fI 0x02E 5 6 (2 ^ 33 - 3), .rotlImm gd 5 6 (-3)),
  (fI 0x02F 5 6 (2 ^ 33 - 3), .minImm gd 5 6 (-3)),
  (fI 0x030 5 6 (2 ^ 33 - 3), .maxImm gd 5 6 (-3)),
  (fI 0x038 5 6 (2 ^ 33 - 3), .leaImm gd 5 6 (-3)),
  (fI 0x016 5 6 (60 + 64 * 64), .bfx gd 5 6 60 64),
  (fI 0x017 5 6 (3 + 64 * 8), .bfi gd 5 6 3 8),
  (fI 0x019 5 0 40, .movi gd 5 40),
  (fI 0x01A 5 6 0x80000001, .movhi gd 5 6 0x80000001),
  (fI 0x03C (p 1) 6 (100 * 32 + 16 + 2), .cmpImm gd 1 6 .lt true 100),
  (fI 0x03C (p 2) 6 ((2 ^ 28 - 1) * 32 + 1), .cmpImm gd 2 6 .ne false (-1))] = true := by decide

/-- Control and system instructions (R213 to R218, R228 to R232, R465). -/
theorem test_decode_control : reads [
  (word 0x080 0, .nop gd),
  (fJ 0x081 0 (2 ^ 40 - 3), .br gd (-3)),
  (fJ 0x082 9 4, .jmp gd 9 4),
  (fJ 0x083 9 5, .call gd 9 5),
  (fJ 0x084 9 0, .ret gd 9),
  (fJ 0x085 9 (2 ^ 40 - 4), .loop gd 9 (-4)),
  (fY 0x086 0 0 0 0x1FFFFF, .yield gd 0x1FFFFF),
  (fY 0x087 0 6 0 12, .sleep gd 6 12),
  (word 0x088 0, .endSlot gd),
  (fY 0x089 0 0 0 7, .trap gd 7),
  (fY 0x08A 0 0 0 1, .eret gd true),
  (fY 0x08B 4 0 0x020 0, .mfs gd 4 0x020),
  (fY 0x08C 0 6 0x030 0, .mts gd 0x030 6),
  (fY 0x08D 5 0 0 0, .cycle gd 5),
  (fY 0x08E 5 0 0 0, .time gd 5),
  (fY 0x08F 5 6 0 0, .capq gd 5 6),
  (fY 0x090 5 0 0 0x26, .widq gd 5 .part 6),
  (fY 0x090 5 0 0 0x30, .widq gd 5 .sbase 0),
  (fY 0x090 5 0 0 0x11, .widq gd 5 .ext 1),
  (fY 0x090 5 0 0 0x02, .widq gd 5 .fld 2)] = true := by decide

/-- Local memory and code (R219 to R227, R243, R244). -/
theorem test_decode_memory : reads [
  (fM 0x100 4 2 2 0 1 16, .ld gd 4 2 2 true 16),
  (fM 0x101 4 2 3 4 0 (2 ^ 26 - 8), .st gd 4 2 3 .dom (-8)),
  (fM 0x102 6 2 1 0 0 4, .ldp gd 3 2 1 false 4),
  (fM 0x103 62 2 0 1 0 4, .stp gd 31 2 0 .tile 4),
  (fA 0x104 5 6 7 0 2 0 0 0 1, .latom gd 5 6 7 0 .i32 .add),
  (fA 0x104 5 6 7 8 7 0 0 0 10, .latom gd 5 6 7 8 .n64 .cas),
  (fA 0x104 5 6 7 0 8 0 0 0 13, .latom gd 5 6 7 0 .f32 .fmax),
  (word 0x105 0, .cwb gd),
  (fM 0x106 4 2 0 0 0 32, .iinv gd 4 2 32),
  (word 0x107 0, .fetchb gd),
  (fM 0x108 (v 1) 2 2 0 0 0x40, .vld gd 1 2 2 false 0x40),
  (fM 0x109 (v 31) 2 0 2 0 0x40, .vst gd 31 2 0 .die 0x40),
  (fA 0x10A (v 1) 2 3 0 11 2 1 0 0, .vlds gd 1 2 3 .e4m3 ⟨2, true⟩),
  (fA 0x10B 0 2 3 (v 4) 5 5 0 0 0, .vsts gd 2 3 4 .n16 5),
  (fA 0x10C (v 1) 2 (v 3) 0 8 2 0 0 3, .vgath gd 1 2 3 .f32 ⟨2, false⟩ 3),
  (fA 0x10D 0 2 (v 3) (v 4) 0 6 0 0 1, .vscat gd 2 3 4 .i8 6 1)] = true := by decide

/-- Vector instructions on floating-point elements (R239 to R241, R250, R252 to R256). -/
theorem test_decode_vectorFloat : reads [
  (fA 0x180 (v 3) (v 1) (v 2) 0 8 2 1 0 0, .vadd gd 3 1 2 .f32 ⟨2, true⟩),
  (fA 0x181 (v 3) (v 1) (v 2) 0 9 2 1 0 0, .vsub gd 3 1 2 .f16 ⟨2, true⟩),
  (fA 0x182 (v 3) (v 1) (v 2) 0 10 2 1 0 0, .vmul gd 3 1 2 .bf16 ⟨2, true⟩),
  (fA 0x185 (v 3) (v 1) (v 2) 0 8 2 1 0 0, .vmin gd 3 1 2 .f32 ⟨2, true⟩),
  (fA 0x186 (v 3) (v 1) (v 2) 0 9 2 1 0 0, .vmax gd 3 1 2 .f16 ⟨2, true⟩),
  (fA 0x183 (v 3) (v 1) (v 2) (v 4) 8 2 0 0 0, .vfma gd 3 1 2 4 .f32 ⟨2, false⟩),
  (fA 0x184 (v 3) (v 1) (v 2) (v 4) 8 2 0 0 0, .vfms gd 3 1 2 4 .f32 ⟨2, false⟩),
  (fA 0x187 (v 3) (v 1) 0 0 8 7 0 0 0, .vabs gd 3 1 .f32 ⟨7, false⟩),
  (fA 0x188 (v 3) (v 1) 0 0 10 7 0 0 0, .vneg gd 3 1 .bf16 ⟨7, false⟩),
  (fA 0x18A (v 3) (v 1) 0 0 9 7 0 0 0, .vclass gd 3 1 .f16 ⟨7, false⟩),
  (fA 0x189 (m 3) (v 1) (v 2) 0 8 2 1 0 6, .vcmpf gd 3 1 2 .f32 .un ⟨2, true⟩),
  (fA 0x18B (v 3) (v 1) 0 0 8 2 1 0 0, .vexp2 gd 3 1 ⟨2, true⟩),
  (fA 0x18C (v 3) (v 1) 0 0 8 2 1 0 0, .vlog2 gd 3 1 ⟨2, true⟩),
  (fA 0x18D (v 3) (v 1) 0 0 8 2 1 0 0, .vrcp gd 3 1 ⟨2, true⟩),
  (fA 0x18E (v 3) (v 1) 0 0 8 2 1 0 0, .vrsq gd 3 1 ⟨2, true⟩),
  (fA 0x192 (v 3) (v 1) 0 0 8 2 1 0 0, .vscan gd 3 1 ⟨2, true⟩),
  (fA 0x18F 5 (v 1) 0 0 8 2 0 0 0, .vredadd gd 5 1 2),
  (fA 0x190 5 (v 1) 0 0 8 2 0 0 0, .vredmax gd 5 1 2),
  (fA 0x191 5 (v 1) 0 0 8 2 0 0 0, .vredmin gd 5 1 2),
  (fA 0x193 (v 2) (v 1) 0 0 12 0 0 0 0x44, .vcvt gd 2 1 .e5m2 .f32 4 ⟨0, false⟩),
  (fA 0x194 (v 2) (v 1) 3 0 16 0 0 0 1, .vpack gd 2 1 3 .mxi8 true),
  (fA 0x195 (v 2) (v 1) 3 0 15 0 0 0 0, .vunpk gd 2 1 3 .mx4 false)] = true := by decide

/-- Vector integer, lane move, permute and mask instructions (R242, R247 to R249, R251, R257). -/
theorem test_decode_vectorInt : reads [
  (fA 0x200 (v 3) (v 1) (v 2) 0 0 2 1 1 0, .viadd gd 3 1 2 .i8 true ⟨2, true⟩),
  (fA 0x201 (v 3) (v 1) (v 2) 0 5 2 1 0 0, .visub gd 3 1 2 .n16 false ⟨2, true⟩),
  (fA 0x202 (v 3) (v 1) (v 2) 0 2 2 1 1 0, .vimul gd 3 1 2 .i32 true ⟨2, true⟩),
  (fA 0x203 (v 3) (v 1) (v 2) 0 1 1 0 0 0, .vimulh gd 3 1 2 .i16 ⟨1, false⟩),
  (fA 0x204 (v 3) (v 1) (v 2) 0 4 1 0 0 0, .vand gd 3 1 2 .n8 ⟨1, false⟩),
  (fA 0x205 (v 3) (v 1) (v 2) 0 5 1 0 0 0, .vor gd 3 1 2 .n16 ⟨1, false⟩),
  (fA 0x206 (v 3) (v 1) (v 2) 0 6 1 0 0 0, .vxor gd 3 1 2 .n32 ⟨1, false⟩),
  (fA 0x207 (v 3) (v 1) (v 2) 0 0 1 0 0 0, .vshl gd 3 1 2 .i8 ⟨1, false⟩),
  (fA 0x208 (v 3) (v 1) (v 2) 0 6 1 0 0 0, .vshr gd 3 1 2 .n32 ⟨1, false⟩),
  (fA 0x209 (v 3) (v 1) (v 2) 0 2 1 0 0 0, .vsar gd 3 1 2 .i32 ⟨1, false⟩),
  (fA 0x20B (v 3) (v 1) (v 2) 0 1 1 0 0 0, .vimin gd 3 1 2 .i16 ⟨1, false⟩),
  (fA 0x20C (v 3) (v 1) (v 2) 0 4 1 0 0 0, .vimax gd 3 1 2 .n8 ⟨1, false⟩),
  (fA 0x20A (m 3) (v 1) (v 2) 0 6 1 0 0 5, .vicmp gd 3 1 2 .n32 .ge ⟨1, false⟩),
  (fA 0x20D 5 (v 1) 0 0 1 1 0 0 3, .vired gd 5 1 .i16 .smax 1),
  (fA 0x20E (v 3) 6 0 0 12 1 1 0 0, .vbcast gd 3 6 .e5m2 ⟨1, true⟩),
  (fA 0x20F 5 (v 1) 7 0 10 0 0 0 0, .vext gd 5 1 7 .bf16),
  (fA 0x210 (v 3) 6 7 0 2 0 0 0 0, .vins gd 3 6 7 .i32),
  (fA 0x211 (v 3) (v 1) (v 2) (m 6) 0 0 0 0 0, .vsel gd 3 1 2 6),
  (fA 0x212 (v 3) (v 1) (v 2) 0 0 1 1 0 1, .vpermb gd 3 1 2 true ⟨1, true⟩),
  (fA 0x213 (v 3) (v 1) (v 2) 0 0 1 0 0 0, .vshuf gd 3 1 2 ⟨1, false⟩),
  (fA 0x214 (v 3) (v 1) (v 2) 9 0 1 0 0 1, .vslide gd 3 1 2 9 true ⟨1, false⟩),
  (fA 0x215 (v 3) 6 0 0 0 1 0 0 0, .viota gd 3 6 ⟨1, false⟩),
  (fA 0x216 (m 3) (m 1) (m 2) 0 0 0 0 0 0xE, .mlog gd 3 1 2 0xE),
  (fA 0x217 5 (m 1) 0 0 0 0 0 0 0, .mfirst gd 5 1),
  (fA 0x218 5 (m 1) 0 0 0 0 0 0 0, .mpopc gd 5 1),
  (fA 0x219 (m 3) 6 7 0 0 0 0 0 0, .mset gd 3 6 7 false),
  (fA 0x219 (m 3) 6 0 0 0 0 0 0 1, .mset gd 3 6 0 true),
  (fA 0x21A 5 (m 1) 0 0 0 0 0 0 1, .mget gd 5 1 true)] = true := by decide

/-- Plane array instructions (R260 to R274). -/
theorem test_decode_array : reads [
  (fX 0x280 5 6 7 0 7 (32 + 8) (3 * 256 + 128), .pld gd 5 6 7 .f32 true 7 ⟨3, true⟩),
  (fX 0x281 5 (v 1) 7 0 3 10 (3 * 256 + 128), .pldv gd 5 1 7 .bf16 false 3 ⟨3, true⟩),
  (fX 0x282 0 0 0 2 0 0 0, .az gd 2 ⟨0, false⟩),
  (fX 0x283 0 4 5 1 7 (32 + 2 * 7 + 1) (3 * 256 + 128 + 64 + 3), .mma gd 4 5 1 7 7 true true true 3 ⟨3, true⟩),
  (fX 0x284 0 6 7 2 0 0 (9 * 256 + 128), .ard gd 6 7 2 ⟨9, true⟩),
  (fX 0x285 0 6 7 2 0 0 0, .awr gd 6 7 2 ⟨0, false⟩),
  (fX 0x286 0 6 0 2 0 0 0, .ascl gd 6 2 ⟨0, false⟩),
  (fX 0x287 0 6 7 2 0 0 0, .arowmax gd 6 7 2 ⟨0, false⟩),
  (fX 0x288 0 6 0 2 0 0 0, .aexp gd 6 2 ⟨0, false⟩),
  (fX 0x289 0 6 7 2 0 0 0, .arowsum gd 6 7 2 ⟨0, false⟩),
  (fX 0x28A 0 6 0 2 3 (32 + 8) 0, .acvt gd 6 2 true 3 ⟨0, false⟩),
  (fX 0x28B 0 6 7 2 0 0 0, .amask gd 6 7 2 ⟨0, false⟩),
  (fX 0x28C 6 7 8 0 7 (2 * 7) (5 * 256 + 128 + 3), .attv gd 6 7 8 0 7 7 false true true ⟨5, true⟩),
  (fX 0x28D 5 6 7 2 0 0 2, .acmb gd 5 6 7 2 true ⟨0, false⟩),
  (fX 0x28E 0 6 0 2 0 0 0, .anrm gd 6 2 false ⟨0, false⟩)] = true := by decide

/-- Token, route and shard instructions (R276 to R291). -/
theorem test_decode_token : reads [
  (fX 0x300 0 6 7 0 0 0 (4 * 256 + 128), .tsend gd 6 7 ⟨4, true⟩),
  (fX 0x301 0 (t 2) 7 0 0 0 0, .tfwd gd 2 7 ⟨0, false⟩),
  (fX 0x302 5 (t 2) 7 0 0 0 0, .tfork gd 5 2 7 ⟨0, false⟩),
  (fX 0x303 5 (t 3) 0 0 0 0 0, .tjoin gd 5 3),
  (fX 0x304 5 (t 1) 0 0 0 0 (8 + 6), .ttake gd 5 1 6 true),
  (word 0x305 0, .hret gd),
  (fX 0x306 0 6 7 0 0 0 0, .hset gd 6 7),
  (fX 0x307 0 6 7 0 0 0 0, .hmsk gd 6 7),
  (fX 0x308 0 6 0 0 0 0 (4 * 256 + 128), .eos gd 6 ⟨4, true⟩),
  (fX 0x309 0 6 7 0 0 0 0, .cfgld gd 6 7 ⟨0, false⟩),
  (word 0x30A 0, .cfgswap gd),
  (fX 0x30B 5 0 0 0 0 0 0, .drainq gd 5),
  (fX 0x30C 5 6 7 0 0 0 (4 * 256 + 128), .shlk gd 5 6 7 ⟨4, true⟩),
  (fX 0x30D 5 6 7 0 0 0 1, .shmap gd 5 6 7 true ⟨0, false⟩),
  (fX 0x30E 5 6 7 0 0 0 1, .shunmap gd 5 6 7 true ⟨0, false⟩),
  (fX 0x30F 5 6 7 0 0 0 1, .shref gd 5 6 7 true ⟨0, false⟩)] = true := by decide

/-- Copy engines and tags (R294 to R305). -/
theorem test_decode_engine : reads [
  (fE 0x380 4 5 6 5 2 3 0 0 0x80, .cpy gd 4 5 6 ⟨2, 3⟩ ⟨5, true⟩),
  (fE 0x381 4 0 0 0 2 3 0 0 0, .cpy2 gd 4 ⟨2, 3⟩ ⟨0, false⟩),
  (fE 0x382 4 5 0 0 7 15 0 0 0, .cpyl gd 4 5 ⟨7, 15⟩ ⟨0, false⟩),
  (fE 0x383 4 0 0 0 1 0 0 0 0, .cpyc gd 4 ⟨1, 0⟩ ⟨0, false⟩),
  (fE 0x384 4 5 6 0 0 1 0 0 0, .fill gd 4 5 6 ⟨0, 1⟩ ⟨0, false⟩),
  (fE 0x385 0 5 0 63 1 3 0 0 0x80, .qfence gd 5 ⟨1, 3⟩ ⟨63, true⟩),
  (fE 0x386 0 0 0 5 0 0 0 0 0, .twait gd 0 5 false),
  (fE 0x386 0 6 0 0 0 0 0 0 1, .twait gd 6 0 true),
  (fE 0x387 4 5 0 0 0 0 0 0 0, .tfirst gd 4 5),
  (fE 0x388 0 5 0 0 0 0 0 0 0, .tclr gd 5)] = true := by decide

/-- Baskets, remote operations, barriers and collectives (R306 to R324). -/
theorem test_decode_remote : reads [
  (fE 0x389 4 5 0 0 0 0 0 0 9, .bkinit gd 9 4 5),
  (fE 0x38A 4 0 0 0 0 0 0 0 (16 + 9), .bkaw gd 9 4 true),
  (fE 0x38B 0 5 6 0 0 0 0 0 9, .bkpost gd 9 5 6),
  (fE 0x38C 0 5 0 0 0 0 0 0 9, .bkrel gd 9 5),
  (fE 0x38D 4 5 0 0 0 0 0 0 0x30, .rst gd 4 5 3),
  (fE 0x38E 7 8 0 0 0 0 0 0 0x71, .rat gd 7 8 .add 3 true),
  (fE 0x38E 7 8 0 0 0 0 0 0 0x2C, .rat gd 7 8 .fmin 2 false),
  (fE 0x38F 4 6 7 5 0 0 0 0 (128 + 0x3A), .ratf gd 4 6 7 .cas 3 ⟨5, true⟩),
  (fE 0x390 4 5 0 5 0 0 0 0 (128 + 0x10), .rld gd 4 5 1 ⟨5, true⟩),
  (fE 0x391 0 0 0 5 0 0 0 0 (128 + 1), .hflush gd 0 true ⟨5, true⟩),
  (fE 0x391 4 0 0 0 0 0 0 0 0, .hflush gd 4 false ⟨0, false⟩),
  (fE 0x392 0 5 0 0 0 0 0 0 0, .hcfg gd 5),
  (fE 0x393 4 5 0 0 0 0 0 0 1, .hstat gd 4 5 true),
  (fE 0x394 0 0 0 0 0 0 2 1 0, .fence gd .rel .die),
  (fE 0x394 0 0 0 0 0 0 4 2 0, .fence gd .full .dom),
  (fE 0x395 4 5 0 5 0 0 0 0 (128 + 1), .bari gd 4 5 true ⟨5, true⟩),
  (fE 0x396 4 0 0 0 0 0 0 0 1, .bara gd 4 true ⟨0, false⟩),
  (fE 0x397 4 0 0 0 0 0 0 0 0, .barw gd 4 false),
  (fE 0x398 4 5 0 0 0 0 0 0 2, .waitm gd 4 5 .geu),
  (fE 0x399 0 0 0 0 0 0 0 0 0, .phase gd),
  (fE 0x39A 0 0 0 0 0 0 0 0 0, .prep gd),
  (fE 0x39B 4 5 0 0 0 0 0 0 1, .keep gd 4 5 true),
  (fE 0x39C 4 5 0 0 0 0 0 0 0, .disc gd 4 5),
  (fE 0x39D 4 5 6 5 0 0 0 0 (128 + 0x2B), .nred gd 4 5 6 .fadd 2 ⟨5, true⟩),
  (fE 0x39E 4 5 6 0 0 0 0 0 (0x40 + 0x30), .nbcast gd 4 5 6 3 true ⟨0, false⟩)] = true := by decide

/-! ### A small state in which every instruction word runs -/

def g0 : Guard := ⟨0, false, 0⟩
def q0 : QTag := ⟨3, true⟩
def qn : QTag := ⟨0, false⟩
def k0 : Msk := ⟨0, false⟩

/-- The kernel of tile 0: two main slots over the whole allocation, on network channels 5 and 6. -/
def kern : Kernel :=
  { Kernel.whole with slots := [(0, 0), (1, 1)], mains := [0], l := 3, node := 2, graph := 1, wid := 0x1234, cfgOuts := 1,
                      sram := 0x10000, planes := 0x8000 }

/-- The registers: a local offset 0, a count 1, the window of the tile's own SRAM, a row word, a group word, a route word to
tile 0, an arrival of kind 1 on channel 6, handler-table entries for channels 5 and 6. -/
def regs : Sparse W64 :=
  [(2, 1), (3, 0x8000000000000000), (4, 0x400040), (5, 0x180000001), (6, 0x400), (8, 0x1000000000000006), (9, 0x8000A00000000000),
   (10, 0x8020C00000000000), (11, 0x4000000000000000)]

def main0 : Slot :=
  { Slot.reset with state := .run, count := 4, pc := 5, s := regs, v := [(128, 0x3F800000)], tcause := 0x8000000000000009, tepc := 7 }
def hand1 : Slot := { main0 with hslot := true, hnd := some ⟨0, 5, 0, true, 1⟩ }

def tile0 : Tile :=
  { Tile.reset with
    wheel := 0, kernels := [kern], slots := [(0, main0), (1, hand1)], sram := [(1225, 0x11)],
    hent := [(0, 0x8000A00000000000), (1, 0x8020C00000000000)], hste := [(0, ⟨0, 1, false, true⟩)],
    latches := [(0, [0x1050000300000040, 0x77001100, 0, 0, 0, 0, 0, 0])],
    baskets := [(0, ⟨true, false, 3, 1, 0, 0, 16, []⟩), (1, ⟨true, false, 3, 1, 0, 0, 32, [(0, .claimed)]⟩)], tags := 0xFFFFFFFFFFFFFFF7,
    box := { Box.reset with loaded := true } }

/-- Slot k of tile 0 stands at its position. -/
def at0 (k : Nat) : State := { State.reset with cyc := 100, tiles := [(0, tile0)], curSlot := k, free := 9 }

/-- Each instruction runs there, its table gives it an effect, and nothing pends that has not issued. -/
def runsAs (k : Nat) (f : Instr → State → Bool) (l : List Instr) : Bool :=
  l.all fun i => match i.guard with
    | some g => (at0 k).runs i g && f i (at0 k) && (at0 k).me.timely 100
    | none => false

theorem test_runs_scalar : runsAs 0 (fun i s => (scalarOut i s).isSome) [
  .add g0 12 2 3 .i64 false, .addImm g0 12 2 5, .sub g0 12 2 3 .i64 false, .subImm g0 0 2 5, .mul g0 12 2 3 .i64 false, .mulImm g0 12 2 5,
  .mulh g0 12 2 3 .i64, .div g0 12 3 1 .i64, .rem g0 12 3 2 .i64, .and g0 12 2 3 .i64, .andImm g0 12 2 5, .or g0 12 2 3 .i64,
  .orImm g0 12 2 5, .xor g0 12 2 3 .i64, .xorImm g0 12 2 5, .andn g0 12 2 3 .i64, .shl g0 12 2 3 .i64, .shlImm g0 12 2 5,
  .shr g0 12 2 3 .i64, .shrImm g0 12 2 5, .sar g0 12 2 3 .i64, .sarImm g0 12 2 5, .rotl g0 12 2 3 .i64, .rotlImm g0 12 2 5,
  .min g0 12 2 3 .i64, .minImm g0 12 2 5, .max g0 12 2 3 .i64, .maxImm g0 12 2 5, .abs g0 12 3 .i64 true, .clz g0 12 1 .i64,
  .ctz g0 12 1 .i64, .popc g0 12 3 .i64, .bswap g0 12 3 .i64, .bfx g0 12 3 0 64, .bfi g0 12 3 63 1, .lea g0 12 2 3 1, .leaImm g0 12 2 5,
  .movi g0 12 5, .movhi g0 12 2 5, .mov g0 12 3 .i64, .csel g0 12 2 3 1, .pmov g0 (.pk 12), .mfs g0 12 0x20,
  .cycle g0 12, .time g0 12, .capq g0 12 2, .widq g0 12 .sbase 0] = true := by decide
theorem test_runs_scalar_units : runsAs 0 (fun i s => (scalarOut i s).isSome) [
  .vredadd g0 12 1 1, .vredmax g0 12 1 1, .vredmin g0 12 1 1, .vired g0 12 1 .i32 .add 1, .vext g0 12 1 2 .n32, .mfirst g0 12 1,
  .mpopc g0 12 1, .mget g0 12 1 false, .tfirst g0 12 1, .drainq g0 12, .hstat g0 12 1 false] = true := by decide

theorem test_runs_predicates : runsAs 0 (fun i s => (predOut i s).isSome) [
  .cmp g0 1 2 3 .i64 .lt, .cmpImm g0 0 2 .ge true 5, .plog g0 2 0 1 6, .pmov g0 (.sp 3 2)] = true ∧
  (at0 0).runs (.pmov g0 (.upk 3)) g0 = true := by decide
theorem test_runs_vector : runsAs 0 (fun i s => (vectorOut i s).isSome) [
  .vadd g0 2 1 1 .f32 k0, .vsub g0 2 1 1 .f32 k0, .vmul g0 2 1 1 .f16 k0, .vfma g0 2 1 1 1 .f32 k0, .vfms g0 2 1 1 1 .f32 k0,
  .vmin g0 2 1 1 .f32 k0, .vmax g0 2 1 1 .f32 k0, .vabs g0 2 1 .f32 k0, .vneg g0 2 1 .f32 k0, .vclass g0 2 1 .f32 k0,
  .vexp2 g0 2 1 k0, .vlog2 g0 2 1 k0, .vrcp g0 2 1 k0, .vrsq g0 2 1 k0, .vscan g0 2 1 k0, .vcvt g0 2 1 .bf16 .f32 0 k0,
  .vpack g0 2 1 2 .e4m3 false, .vunpk g0 2 1 2 .e4m3 false, .viadd g0 2 1 1 .i32 true k0, .visub g0 2 1 1 .i32 false k0,
  .vimul g0 2 1 1 .i16 false k0, .vimulh g0 2 1 1 .i32 k0, .vand g0 2 1 1 .n32 k0, .vor g0 2 1 1 .n32 k0, .vxor g0 2 1 1 .n32 k0,
  .vshl g0 2 1 1 .n32 k0, .vshr g0 2 1 1 .n32 k0, .vsar g0 2 1 1 .i32 k0, .vimin g0 2 1 1 .i32 k0, .vimax g0 2 1 1 .i32 ⟨1, true⟩,
  .vbcast g0 2 2 .n32 k0, .vins g0 2 2 1 .n32, .vsel g0 2 1 1 0, .vpermb g0 2 1 1 false k0, .vshuf g0 2 1 1 k0,
  .vslide g0 2 1 1 2 false k0, .viota g0 2 2 k0] = true := by decide
theorem test_runs_masks : runsAs 0 (fun i s => (maskOut i s).isSome) [
  .vcmpf g0 1 1 1 .f32 .eq k0, .vicmp g0 1 1 1 .i32 .le ⟨1, true⟩, .mlog g0 1 0 2 6, .mset g0 0 2 0 true] = true := by decide
theorem test_runs_flow : runsAs 0 (fun i s => (flowOut i s).isSome) [
  .nop g0, .br g0 (-5), .jmp g0 2 0x1FFE, .call g0 12 0, .ret g0 1, .loop g0 3 (-1), .loop g0 2 (-9)] = true ∧
  runsAs 0 (fun _ _ => true) [.yield g0 0x1FFFFF, .endSlot g0, .trap g0 9, .eret g0 false, .eret g0 true, .prep g0] = true ∧
  runsAs 0 (fun i s => (sleepOut i s).isSome && s.me.faults == []) [
    .sleep g0 2 7, .cwb g0, .fetchb g0, .twait g0 0 3 false, .twait g0 2 0 true] = true := by decide
theorem test_runs_tables : runsAs 0 (fun i s => (tableOut i s).isSome) [
  .mts g0 0x20 2, .mts g0 0x30 3, .mts g0 0x34 3, .hcfg g0 2, .tclr g0 2, .hset g0 2 10, .hmsk g0 1 2, .bkinit g0 2 1 2, .bkpost g0 1 1 8,
  .bkrel g0 1 1, .keep g0 1 2 false, .keep g0 1 2 true, .disc g0 1 2] = true := by decide
theorem test_runs_local : runsAs 0 (fun i s => (accessOut i s).isSome) [
  .ld g0 12 1 3 false 8, .ldp g0 6 1 3 false 0xFFF0, .st g0 3 1 0 .slot 0xFFFF, .stp g0 2 1 2 .tile 8, .latom g0 12 1 2 2 .i64 .cas,
  .iinv g0 2 1 0, .vld g0 2 1 2 false 0, .vst g0 1 1 2 .slot 0, .vlds g0 2 1 1 .n32 k0, .vsts g0 1 1 1 .n32 0,
  .vgath g0 2 1 3 .n32 k0 2, .vscat g0 1 3 1 .n32 0 2] = true := by decide
theorem test_runs_array : runsAs 0 (fun i s => (arrayOut i s).isSome) [
  .pld g0 1 1 2 .f32 false 8 q0, .pldv g0 1 1 2 .f32 false 8 q0, .az g0 3 q0, .mma g0 1 1 0 8 8 false false false 0 q0,
  .mma g0 1 1 0 8 8 false false true 3 q0, .ard g0 4 1 0 q0, .awr g0 4 1 1 qn, .ascl g0 1 0 q0, .arowmax g0 1 1 0 q0, .aexp g0 1 0 q0,
  .arowsum g0 1 1 0 q0, .acvt g0 1 0 false 8 q0, .amask g0 0 2 0 q0, .amask g0 1 2 0 q0, .attv g0 1 1 1 0 8 8 false false true q0,
  .acmb g0 1 1 1 0 false q0, .anrm g0 1 0 false q0] = true := by decide
theorem test_runs_network : runsAs 0 (fun i s => (netOut i s).isSome) [
  .tsend g0 1 6 q0, .eos g0 1 q0, .cfgld g0 3 2 q0] = true ∧
  runsAs 1 (fun i s => (netOut i s).isSome) [.tfwd g0 0 6 q0, .tfork g0 6 0 6 q0] = true ∧
  runsAs 0 (fun i s => (shardOut i s).isSome) [
    .shlk g0 12 3 2 q0, .shmap g0 11 3 2 true q0, .shunmap g0 12 3 2 true q0, .shref g0 12 3 2 false q0] = true := by decide
theorem test_runs_engine : runsAs 0 (fun i s => (engineOut i s).isSome) [
  .cpy g0 3 3 2 ⟨0, 8⟩ q0, .cpy2 g0 1 ⟨7, 0⟩ q0, .cpyl g0 1 2 ⟨0, 0⟩ q0, .cpyc g0 1 ⟨0, 15⟩ q0, .fill g0 3 3 2 ⟨0, 0⟩ qn,
  .qfence g0 2 ⟨0, 0⟩ q0] = true ∧
  runsAs 0 (fun i s => (insertOut i s).isSome) [.rst g0 3 3 3, .rat g0 3 3 .add 3 true, .hflush g0 3 false q0, .hflush g0 0 true q0] = true ∧
  runsAs 0 (fun i s => (requestOut i s).isSome) [
    .ratf g0 3 3 1 .add 3 q0, .rld g0 3 1 3 q0, .bari g0 1 2 false q0, .bara g0 1 false q0] = true := by decide
theorem test_runs_collectives : runsAs 0 (fun _ _ => true) [.nred g0 1 1 5 .add 2 q0, .nbcast g0 1 1 5 2 true q0] = true := by decide
theorem test_runs_handlers : runsAs 1 (fun _ _ => true) [
    .ttake g0 12 0 1 true, .ttake g0 12 0 7 false, .tjoin g0 12 0, .hret g0] = true ∧
  (at0 1).me.hnd = some ⟨0, 5, 0, true, 1⟩ ∧ (at0 1).me.faults = [] ∧
  runsAs 0 (fun _ _ => true) [.bkaw g0 0 12 false, .bkaw g0 0 12 true] = true := by decide
theorem test_runs_waits : runsAs 0 (fun i s => s.me.faults == [] && (match i with | .waitm .. => s.here.freeMon.isSome | _ => true)) [
  .fence g0 .rel .die, .fence g0 .acq .slot, .fence g0 .full .tile, .phase g0, .barw g0 1 false, .waitm g0 1 2 .geu, .cfgswap g0] = true ∧
  (∀ k, k ∈ (at0 0).phaseSlots → ((at0 0).here.slot k).faults = []) ∧ (at0 0).compactStands (at0 0).kern = false ∧
  (at0 0).runs (.prep g0) g0 = true := by decide

/-! ### The premises of the other statements about words are met -/

/-- The machine at tile 0 with its slot k, its tile or itself changed. -/
def slotIs (k : Nat) (f : Slot → Slot) : State := (at0 k).modSlot 0 k f
def tileIs (k : Nat) (f : Tile → Tile) : State := (at0 k).modTile 0 f
def trapped (i : Instr) (s : State) (g : Guard) (cls code : Nat) : Bool :=
  (headTrap i s).isNone && (checksOf i s).any fun f => f.cls == cls && f.code == code && s.rP g.pred != g.pneg

/-- R481: a fault of the encoding (a vector word with no lanes), of the use mask, of the palette, of the operands. -/
theorem test_meets_ChecksTrap :
    headTrap (.vadd g0 2 1 1 .f32 k0) (slotIs 0 fun x => { x with count := 0 }) = some ⟨1, 0x0A, 0, 0⟩ ∧
    ((headTrap (.vadd g0 2 1 1 .f32 k0) (tileIs 0 fun t => { t with kernels := [{ kern with useMask := 7 }] })).any fun f => f.cls == 2) = true ∧
    ((headTrap (.vadd g0 2 1 1 .f32 k0) (tileIs 0 fun t => { t with palette := 7 })).any fun f => f.cls == 3) = true ∧
    trapped (.latom g0 12 2 2 2 .i64 .cas) (at0 0) g0 5 2 = true ∧ trapped (.ld g0 12 1 3 false 0x10000) (at0 0) g0 5 1 = true ∧
    (at0 0).me.state = .run ∧ (at0 0).me.hold = 0 := by decide
theorem test_meets_FalsePredicate :
    headTrap (.endSlot ⟨1, false, 63⟩) (at0 0) = none ∧ (at0 0).overLimit = false ∧ (at0 0).rP 1 = false := by decide
theorem test_meets_FullQueueBacks :
    let s := tileIs 0 fun t => { t with insQ := [(1, .fence 0), (1, .fence 0), (1, .fence 0), (1, .fence 0)] }
    s.ready (.rst g0 3 3 3) g0 = true ∧ checksOf (.rst g0 3 3 3) s = none ∧ roomOf (.rst g0 3 3 3) s = false := by decide
/-- A handler over its budget, before a word with a true predicate and before one with a false predicate. -/
theorem test_meets_Overrun :
    let s := slotIs 1 fun x => { x with budget := 1, hnd := some ⟨0, 5, 0, true, 4096⟩ }
    s.overLimit = true ∧ headTrap (.nop g0) s = none ∧ checksOf (.nop g0) s = none ∧ s.rP 1 = false := by decide
theorem test_meets_IssueIntervals :
    let s := slotIs 0 fun x => { x with lastDiv := some 77, lastSfu := some 97 }
    headTrap (.div g0 12 3 2 .i64) s = none ∧ headTrap (.rem g0 12 3 2 .n8) s = none ∧ s.rP 0 ≠ false ∧ s.cyc - 77 = 23 ∧
    headTrap (.vexp2 g0 2 1 k0) s = none ∧ headTrap (.vlog2 g0 2 1 k0) s = none ∧ headTrap (.vrcp g0 2 1 k0) s = none ∧
    headTrap (.vrsq g0 2 1 k0) s = none ∧ s.cyc - 97 = 3 := by decide
theorem test_meets_SystemRegisters :
    (at0 0).sysRead 0x0F0 = none ∧ headTrap (.mfs g0 12 0x0F0) (at0 0) = none ∧ headTrap (.mts g0 0x0F0 2) (at0 0) = none ∧
    (at0 0).sysRead 0x31 ≠ none ∧ headTrap (.mts g0 0x31 2) (at0 0) = none ∧
    headTrap (.endSlot g0) (at0 1) = none ∧ (at0 1).me.hslot = true ∧ headTrap (.hret g0) (at0 0) = none ∧ (at0 0).handler = none := by decide
/-- A table with entry e for each e of l, each of a token that the held one does not wait for; with the held one's sibling at 15. -/
def joinsOf (l : List Nat) : Sparse Join := l.map fun e => (e, ⟨0, 0x7700, 1, 0, true, 0, 2, 640, 5⟩)
def siblingIn : State := tileIs 1 fun t => { t with joins := joinsOf [3] ++
  [(15, ⟨0, fld ((at0 1).joinWord 0) 16 48, fld ((at0 1).joinWord 0) 12 4, 0, true, 2, 3, 704, 5⟩)] }
theorem test_meets_TokenReads :
    let waits (s : State) (j : Join) : Bool := let w := s.joinWord 0
      let bit := fld w 12 4 - 1
      j.kern == s.me.kern && j.tokid == fld w 16 48 && j.depth == fld w 12 4 && j.path == fld w 0 8 - (if bitOf (fld w 0 8) bit then 2 ^ bit else 0)
    let full := tileIs 1 fun t => { t with joins := joinsOf (List.range 16) }
    let room := tileIs 1 fun t => { t with joins := joinsOf (List.range 15) }
    ([siblingIn, full, room].all fun s => s.runs (.tjoin g0 12 0) g0 && s.me.timely s.cyc && s.runs (.ttake g0 12 0 7 false) g0) = true ∧
    (siblingIn.here.joins.filter fun x => waits siblingIn x.2).map (·.1) = [15] ∧
    (full.here.joins.all fun x => !waits full x.2) = true ∧ (room.here.joins.all fun x => !waits room x.2) = true ∧
    (∀ e, e < 16 → full.here.joins.any (·.1 == e) = true) ∧ room.here.joins.any (·.1 == 15) = false := by decide
theorem test_meets_BasketClaims :
    let s := tileIs 0 fun t => { t with baskets := [(0, ⟨true, false, 0, 1, 0, 0, 16, [(0, .held)]⟩)] }
    ((at0 0).here.basket 0).pick false = some 0 ∧ (s.here.basket 0).pick false = none ∧
    s.runs (.bkaw g0 0 12 true) g0 = true ∧ s.runs (.bkaw g0 0 12 false) g0 = true := by decide
theorem test_meets_SynchronisingWaits :
    let s := { at0 0 with sched := { Sched.reset with preempts := [⟨3, 2, true, false, none, false, false, false, false, 0, []⟩] } }
    s.compactStands s.kern = true ∧ s.runs (.prep g0) g0 = true ∧ s.here.freeMon = some 0 := by decide

def tr0 : Trace := (at0 0).trace 0x4000040484000010 (some 3)
def acc0 (a : LAct) : LAccess := ⟨100, tr0, a⟩
/-- A pair at the top of the address space of the tile and s0, lanes 0 and 127 with two lanes to be cleared, pieces of two lanes on
one byte, an unaligned store, an atomic on eight bytes, the invalidation of one line and of none. -/
theorem test_meets_LocalAccessesPerform :
    let clear (n : Nat) : Bool := ((at0 0).slot 0 (acc0 (.iinv 0 0)).tr.slot).clearAt 100 n
    (acc0 (.load [(12, 0xFFF0), (13, 0xFFF8)] 3 false)).tr.site = 0 ∧ (acc0 (.load [(12, 0xFFF0), (0, 0xFFF8)] 3 false)).tr.slot = 0 ∧
    ([(12, 0xFFF0), (13, 0xFFF8)].map (·.1) : List Nat).Nodup ∧ clear 103 = true ∧ clear 104 = true ∧
    anyPoison 3 ((at0 0).tile 0).sramPoison 0xFFF0 8 = false ∧ anyPoison 3 ((at0 0).tile 0).sramPoison 0xFFF8 8 = false ∧
    ([(0, 1225), (127, 1221)].map (·.1) : List Nat).Nodup ∧ (∀ d, d ∈ [(0, 1225), (127, 1221)] → d.1 ∉ [1, 126]) ∧
    anyPoison 3 ((at0 0).tile 0).sramPoison 1225 4 = false ∧ anyPoison 3 ((at0 0).tile 0).sramPoison 1221 4 = false ∧
    anyPoison 3 ((at0 0).tile 0).sramPoison 1224 8 = false ∧ anyPoison 3 ((at0 0).tile 0).sramPoison 0 64 = false ∧
    splitAligned 1230 [1, 2, 3, 4] = [(1230, [1, 2]), (1232, [3, 4])] := by decide
theorem test_access_effects :
    let t (a : LAct) : State := (at0 0).performAccess 0 (acc0 a)
    ((t (.load [(12, 1224), (13, 1225)] 0 true)).slot 0 0).regS 103 13 = 0x11 ∧
    ((t (.vload 2 [(0, 1225), (127, 1221)] 2 false [1])).slot 0 0).lane 104 2 0 = 0x11 ∧
    loadNat ((t (.store [(1224, [7, 8]), (1225, [9])] false false)).tile 0).sram 1224 2 = 0x0907 ∧
    loadNat ((t (.atom 12 1224 .add 3 0x100 0 false)).tile 0).sram 1224 8 = 0x1200 ∧
    ((t (.atom 12 1224 .add 3 0x100 0 false)).slot 0 0).regS 103 12 = 0x1100 := by decide
/-- A fault that its slot takes at the last address of the allocation, and three that it does not take. -/
theorem test_meets_FaultsTaken :
    let s := slotIs 0 fun x => { x with tvec := 0x800007FE00000010, tcause := 0 }
    let f : FaultRec := ⟨7, 1, tr0, true, 5, 0, 90, [], false, false, false⟩
    let x := s.slot f.tr.site 0
    f.cls ≠ 3 ∧ f.cls ≠ 13 ∧ f.cls ≠ 14 ∧ f.cls < 256 ∧ f.code < 256 ∧ f.tr.slot = 0 ∧ 0x3FFFF < 2 ^ 18 ∧
    fld (x.sysReg s.cyc 0x30) 63 1 = 1 ∧ fld x.tcause 63 1 = 0 ∧ 64 * fld (x.sysReg s.cyc 0x30) 33 15 + 64 = ((s.tile 0).kernelOf x.kern).sram ∧
    fld ((at0 0).me.sysReg 100 0x30) 63 1 = 0 ∧ fld (at0 0).me.tcause 63 1 = 1 ∧ (at0 0).me.state ≠ .done := by decide
/-- A word placed where the machine fetches: the first step runs it. -/
theorem test_meets_StepRunsDecodedWord :
    let s := State.reset.withFetchWord 64 0x0640010000000028
    let u : State := { s with issues := [], curSite := 0, curSlot := fld (s.tile 0).wheel (4 * (s.cyc % 16)) 4 }
    s.mg.tripped = false ∧ s.todo = [] ∧ s.issues = [0] ∧ u.curSlot < 8 ∧ u.me.state = .run ∧ u.me.deferredDue s.cyc = none ∧
    u.slotStops 0 u.curSlot = false ∧ u.overLimit = false ∧ u.me.hslot = false ∧ 8 * u.me.pc + 8 ≤ u.kern.sram ∧ u.fetch.2.fetchPoisoned = false ∧
    u.fetch.2.wordCode u.fetch.1.toNat = none ∧ decode u.fetch.1 = .ok (.movi g0 1 40) ∧ getD [] u.me.ahead 0 = [] ∧
    getD [] u.here.fetch 0 = [] := by decide
theorem test_step_runs_the_word :
    (match step (State.reset.withFetchWord 64 0x0640010000000028) with
      | .next t => (t.slot 0 0).pc == 1 && (t.slot 0 0).regS 1 1 == 0 && (t.slot 0 0).regS 2 1 == 40
      | _ => false) = true := by decide
theorem test_meets_StepTakesDueSteps :
    encode (.linkReplay 3) = none ∧ encode (.nop g0) ≠ none ∧ State.reset.todo = [] ∧ State.reset.issues = [] ∧ State.reset.late = [] ∧ State.reset.agenda = [] ∧
    State.reset.mg.tripped = false := by decide

/-! ### The premises of the statements about slots, handlers and tokens are met -/

def fault7 : FaultRec := ⟨7, 0x15, tr0, true, 5, 0, 90, [], false, false, false⟩

theorem test_meets_SlotEvents :
    let woke (w : Wake) : State := slotIs 0 fun x => { x with state := .asleep, wake := some w }
    ((slotIs 0 fun x => { x with state := .held, hold := 1 }).slot 0 0).state = .held ∧
    ((slotIs 0 fun x => { x with state := .backed }).slot 0 0).state = .backed ∧
    (woke (.time 100)).wakeMet 0 0 = true ∧ (woke (.time 101)).wakeMet 0 0 = false ∧
    (woke (.tags 0x8 false)).wakeMet 0 0 = false ∧ (woke (.tags 0x8 true)).wakeMet 0 0 = false ∧
    (woke (.tags 0x18 true)).wakeMet 0 0 = true ∧ (woke (.tags 0 true)).wakeMet 0 0 = true ∧
    (woke (.bkaw 0 12)).wakeMet 0 0 = true ∧ (((woke (.bkaw 0 12)).tile 0).basket 0).pick false = some 0 ∧
    ((woke (.bkaw 0 12)).slot 0 0).timely 100 = true := by decide
theorem test_meets_EffectsLand :
    [PEffect.tclr 8, .hset 0 5, .hmsk 1 0, .bkinit 2 0 1, .bkpost 1 0 6, .bkrel 1 0, .marks 0 3 2].all (fun e =>
      let s := slotIs 0 fun x => { x with pend := [⟨100, 98, e, false⟩] }
      (s.slot 0 0).pend == [⟨100, 98, e, false⟩] && decide (100 ≤ s.cyc) && (s.tile 0).kernels.any (·.owner == (s.slot 0 0).kern)) =
      true := by decide
/-- An entry that has waited 4,096 cycles, two entries that a free handler slot may take, and a handler over its budget. -/
theorem test_meets_HandlerEvents :
    let a (chan due : Nat) : Arrival := ⟨chan, 0, chan - 5, some 1, 8, [7], due, some (chan - 5)⟩
    let s := tileIs 1 fun t => { t with
      slots := [(0, main0), (1, { hand1 with hnd := none })], hste := [(0, ⟨4096, 1, false, false⟩), (1, ⟨3, 2, true, false⟩)],
      baskets := [(0, ⟨true, false, 3, 1, 0, 0, 16, [(1, .ready)]⟩), (1, ⟨true, false, 3, 1, 0, 0, 32, [(1, .ready)]⟩)],
      arrivals := [a 5 90, a 6 91] }
    let u := s.tile 0
    let x := s.slot 0 1
    0 < (u.hsteOf 0).pend ∧ (u.hsteOf 0).running = false ∧ 4096 ≤ (u.hsteOf 0).age ∧ x.state = .run ∧ x.hslot = true ∧ x.hnd = none ∧
    u.writesOpen s.cyc 1 = false ∧ s.selectionMasked (u.kernelOf x.kern) = false ∧ u.candidates (u.kernelOf x.kern).owner = [0, 1] ∧
    (∀ n, n ∈ u.candidates (u.kernelOf x.kern).owner → u.arrivals.any (·.entry == some n) = true) ∧
    ({ slotIs 1 (fun x => { x with budget := 1, hnd := some ⟨0, 5, 0, true, 4096⟩ }) with curSite := 0, curSlot := 1 } : State).overLimit = true := by
  decide
def takes (x : Slot) : Slot := { x with tvec := 0x8000008000000010, tcause := 0 }
/-- A recorded fault under the TWAIT that covers it, a deferred fault that is due, and the end of the allocation. -/
theorem test_meets_FaultEvents :
    let s := slotIs 0 fun x => { takes x with state := .asleep, wake := some (.tags 8 false), faults := [fault7] }
    let u := slotIs 0 fun x => { takes x with deferred := [(100, { fault7 with async := false })] }
    let v := slotIs 0 fun x => { x with pc := 0x2000 }
    (s.tile 0).coveredFault 0 = some fault7 ∧ fault7.tr.site = 0 ∧
    (s.slot 0 0).takes s.cyc ((s.tile 0).kernelOf (s.slot 0 0).kern).sram fault7.cls = true ∧ fault7.tr.tag = some 3 ∧
    ((u.slot 0 0).deferredDue u.cyc).isSome = true ∧ fault7.tr.slot = 0 ∧
    (v.slot 0 0).state = .run ∧ ({ v with curSite := 0, curSlot := 0 } : State).kern.sram / 8 = (v.slot 0 0).pc ∧
    ({ v with curSite := 0, curSlot := 0 } : State).overLimit = false := by decide

/-- A token image at offset 64 with BORN set, and one at offset 128 whose word 0 is bad. -/
def sendState (a : W64) : State :=
  let e : QEntry := { i := .tsend g0 1 6 q0, tr := tr0, d := 0, a := a, b := 0x405, lanes := [], bslot := none, iss := 96 }
  tileIs 0 fun t => { t with
    netQ := [e], sram := [(64, 0x40), (71, 0x10), (74, 5), (87, 0x80), (128, 0x41), (135, 0x10)] }
theorem test_meets_TokenSends_head :
    let s := sendState 64
    let e := ((s.tile 0).netQ.head?).getD ⟨.nop g0, tr0, 0, 0, 0, [], none, 0⟩
    let w (n j : Nat) : W64 := BitVec.ofNat 64 (loadNat (s.tile 0).sram (n + 8 * j) 8)
    s.netHead 0 = some e ∧ e.i = .tsend g0 1 6 q0 ∧ s.imageAt 0 e = (64, 64, 0xFFC0) ∧
    anyPoison 3 (s.tile 0).sramPoison 64 24 = false ∧ imageBad (w 64 0) 0xFFC0 = false ∧ fld (w 64 2) 63 1 = 1 ∧
    64 ≤ (s.imageAt 0 e).2.2 ∧ s.sendReach 0 e e.b (s.sendDest 0 e e.b) = true ∧ coordPkg (s.sendDest 0 e e.b) = s.pkg ∧
    (sendState 128).netHead 0 = some { e with a := 128 } ∧ imageBad (w 128 0) 0xFF80 = true ∧ e.tr.site = 0 ∧
    (s.slot 0 e.tr.slot).keeps = true := by decide +kernel
def send0 : Send :=
  ⟨4, { i := .tsend g0 1 6 q0, tr := tr0, d := 0, a := 64, b := 0x405, lanes := [], bslot := none, iss := 96 }, 0, 5, 64, none, false, 90⟩
def claim0 : Claim := ⟨0, 4, 0, 5, 64, 9, true, 3, 0, 0, none⟩
/-- What message n is, with what holds without it. -/
def takenIs (s : State) (n : Nat) (m : Msg) (p : State → Bool) : Bool := (s.taken n).any fun x => x.1 == ⟨n, none, m⟩ && p x.2
/-- A claim whose slot is as large as its basket's, one that is longer, one on a channel that no entry binds, and one that the
gateway of its tile refuses. -/
theorem test_meets_TokenSends_claim :
    let s (c : Claim) : State := { at0 0 with wire := [⟨2, none, .claim c⟩] }
    let bytes := ((tile0.basket (hentBasket (tile0.hentOf 0))).bytes)
    (takenIs (s claim0) 2 (.claim claim0) fun u => (u.tile 0).entryFor 5 == some 0 && !u.windowBad 0 0 && (u.refusal none 0 0 (.tile 0 0)).isNone) = true ∧
    claim0.len = bytes ∧ bytes < 65 ∧ (tile0.basket 0).valid = true ∧ coordPkg claim0.dst = (at0 0).pkg ∧
    (takenIs (s { claim0 with chan := 9 }) 2 (.claim { claim0 with chan := 9 }) fun u => (u.tile 0).entryFor 9 == none) = true ∧
    (({ at0 0 with mg := { State.reset.mg with part := [(0, 0x8000000000000007)] } } : State).refusal none 0 0 (.tile 0 0)).isSome = true := by
  decide +kernel
def granting : State := tileIs 0 fun t => { t with sends := [send0], claims := [claim0] }
def reserved : State := tileIs 0 fun t => { t with
  sends := [send0], claims := [claim0], oldest := [(3, 9)], baskets := [(0, ⟨true, true, 1, 1, 0, 0, 16, [(0, .held)]⟩)] }
theorem test_meets_TokenSends_grant :
    ((granting.tile 0).claims.all fun c => (granting.tile (coordSite c.src)).sends.any (·.id == c.id)) = true ∧
    (granting.tile 0).claimsAt 0 = [claim0] ∧ claim0.len ≤ ((granting.tile 0).basket 0).bytes ∧ ((granting.tile 0).basket 0).pick false = some 0 ∧
    ((reserved.tile 0).basket 0).pick false = none ∧ ((reserved.tile 0).basket 0).pick true = some ((reserved.tile 0).basket 0).nm1 ∧
    ((reserved.tile 0).claimsAt 0).find? (fun c => c.born && ((reserved.tile 0).oldest.find? (·.1 == c.l)).any (·.2 == c.tokid)) =
      some claim0 := by decide
theorem test_meets_TokenSends_perform :
    let g (slot : Option (Nat × Nat)) (code : Nat) : Msg := .grant 0 0 4 slot code
    ([(some (0, 0), 0), (none, 9)].all fun (slot, code) =>
      takenIs { granting with wire := [⟨7, none, g slot code⟩] } 7 (g slot code) fun u =>
        (u.tile 0).sends.find? (·.id == 4) == some send0 && (u.slot 0 send0.e.tr.slot).keeps) = true ∧
    granting.rewriting = false ∧ coordPkg send0.dst = granting.pkg ∧ send0.born = false ∧ send0.e.tr.site = 0 := by decide +kernel
def token0 : TokenMsg :=
  { src := 0, dst := 0, chan := 5, basket := 0, slot := 1, id := 4, asp := 0, owner := 0, image := List.replicate 64 (7, false) }
/-- A token image in the slot granted to its send, and one that the gateway of its tile rejects. -/
theorem test_meets_TokenSends_deliver :
    let s := { tileIs 0 fun t => { t with grants := [(0, 1, 0, 4)] } with wire := [⟨7, none, .token token0⟩] }
    (takenIs s 7 (.token token0) fun u => (u.refusal none 0 0 (.tile 0 0)).isNone && (u.tile 0).grants.contains (0, 1, 0, 4)) = true ∧
    (takenIs { s with mg := { s.mg with part := [(0, 0x8000000000000007)] } } 7 (.token token0) fun u =>
      (u.refusal none 0 0 (.tile 0 0)).isSome) = true := by decide +kernel

/-! ### The premises of the statements about hampers, requests, barriers, queues and engines are met -/

def elem0 (off : Nat) : Elem := ⟨0, .add, true, 2, 0, off, 5, 0, tr0, []⟩
def hd0 : HDest := .tile 0 0 0
def ham (closed : Option Nat) (l : List Elem) : Hamper := ⟨closed, hd0, l, 64, 4, 90, 95, false⟩

theorem test_meets_InsertionEvents_bind :
    let s := tileIs 0 fun t => { t with insQ := [(100, .elem 0 hd0 (elem0 8))], hampers := (List.range 15).map fun n => (n, { ham none [] with dst := .virt n 0 }) }
    s.preempting 0 0 = false ∧ (s.tile 0).hamperFor hd0 = none ∧
    (List.range 16).find? (fun n => !(s.tile 0).hampers.any (·.1 == n)) = some 15 := by decide
/-- A combining element behind one that it merges into, and one that touches none, at the last room of the hamper. -/
theorem test_meets_InsertionEvents_join :
    let h := ham none [elem0 8]
    let s := tileIs 0 fun t => { t with insQ := [(100, .elem 0 hd0 (elem0 8))], hampers := [(3, h)] }
    (s.tile 0).hamperFor hd0 = some (3, h) ∧ (s.tile 0).hampers.find? (·.1 == 3) = some (3, h) ∧
    (elem0 8).touches (elem0 8) = true ∧ (elem0 8).takes (elem0 8) = true ∧ (elem0 8).touches (elem0 12) = false ∧
    h.count + (elem0 12).positions ≤ 32 ∧ (ham none ((List.range 31).map fun k => elem0 (16 * k))).count + (elem0 12).positions = 32 := by decide
theorem test_meets_InsertionEvents_close :
    let s := tileIs 0 fun t => { t with insQ := [(100, .fence 0)], hampers := [(3, ham none [elem0 8])] }
    (s.tile 0).hampers.find? (·.1 == 3) = some (3, ham none [elem0 8]) ∧ (ham none [elem0 8]).ofSlot 0 = true ∧
    s.cyc < (ham none []).first + (ham none []).age ∧ { s with cyc := 154 }.cyc = (ham none []).first + (ham none []).age := by decide

def pkt0 (l : List Elem) : HPacket := { id := 4, src := 0, asp := 0, owner := 0, seq := none, dst := .tile 0 0, hdst := hd0, marked := false, elems := l }
theorem test_meets_PacketEvents_handOff :
    let s := tileIs 0 fun t => { t with hampers := [(3, ham (some 99) [elem0 8])] }
    (s.tile 0).egress.length < 8 ∧
    (s.tile 0).hampers.find? (fun x => x.2.closed.any (· < s.cyc) && !x.2.stopped) = some (3, ham (some 99) [elem0 8]) ∧
    s.windowBad 0 0 = false ∧ (s.wayTo 0 (.tile 0 0)).isSome = true ∧ coordPkg 0 = s.pkg := by decide +kernel
/-- The first of two elements, the last one, and a packet that the gateway of the tile's partition refuses. -/
theorem test_meets_PacketEvents_perform :
    let p (n : Nat) : HPacket := { pkt0 [elem0 8, elem0 12] with done := n }
    let s (n : Nat) : State := { at0 0 with wire := [⟨6, none, .packet (p n)⟩] }
    let r := { s 0 with mg := { (s 0).mg with part := [(0, 0x8000000000000007)] } }
    ([0, 1].all fun n => takenIs (s n) 6 (.packet (p n)) fun _ => true) = true ∧ (p 0).elems[0]? = some (elem0 8) ∧ (p 1).elems[1]? = some (elem0 12) ∧
    (s 0).packetFail none (p 0) = none ∧ (s 0).opFail (.sram 0 8) .add 4 0 = none ∧ (s 1).opFail (.sram 0 12) .add 4 0 = none ∧
    r.packetFail none (pkt0 [elem0 8]) = some (12, 1) := by decide +kernel
/-- Acknowledgements of a packet, good and with a failed element, and of a token image. -/
theorem test_meets_PacketEvents_ack :
    let x : HeldPkt := ⟨4, 90, pkt0 [elem0 8]⟩
    let s (l : List ElemFail) : State := { tileIs 0 fun t => { t with unacked := [x] } with wire := [⟨6, none, .ack 0 0 4 l⟩] }
    let u (l : List ElemFail) : State := { tileIs 0 fun t => { t with tokensOut := [(send0, token0)] } with wire := [⟨6, none, .ack 0 0 4 l⟩] }
    ([[], [⟨0, 12, 9⟩]].all fun l =>
      (takenIs (s l) 6 (.ack 0 0 4 l) fun v => (v.tile 0).unacked.find? (·.id == 4) == some x && (v.tile 0).tokensOut.isEmpty) &&
      takenIs (u l) 6 (.ack 0 0 4 l) fun v => (v.tile 0).tokensOut.find? (·.1.id == 4) == some (send0, token0) && (v.tile 0).unacked.isEmpty) = true ∧
    (tile0.flushes = [] ∧ x.pkt.elems = [elem0 8] ∧ (elem0 8).merged = [] ∧
    (elem0 8).slot = (elem0 8).tr.slot ∧ (elem0 8).tr.site = 0 ∧ send0.e.tr.site = 0 ∧ ((at0 0).slot 0 0).keeps = true) := by decide +kernel

def req0 (k : ReqKind) (addr : W64) (mem : Bool) : Req := ⟨0, 4, k, addr, none, mem, tr0, []⟩
def held (k : ReqKind) (addr : W64) (mem : Bool) (gen : Option W64) : RReq := ⟨4, req0 k addr mem, 64, 80, false, false, gen, false, none⟩
def reqState (k : ReqKind) (addr : W64) (mem : Bool) (gen : Option W64) : State :=
  { tileIs 0 fun t => { t with remote := [held k addr mem gen] } with wire := [⟨6, none, .req (req0 k addr mem)⟩] }
def pair0 : W64 := 0x8000002000000100

/-- A load and an atomic that are performed, and that a gateway refuses. -/
theorem test_meets_RemoteRequests_perform :
    [ReqKind.rld 3, .ratf .add 3 5 0].all (fun k =>
      let s := reqState k 0x80000000001FFFF8 false none
      let r := req0 k 0x80000000001FFFF8 false
      s.reqReady r && r.phys.isNone && gaddr r.addr == .tile 0 0 0x1FFFF8 && (s.answerOf none r).isNone &&
        (takenIs s 6 (.req r) fun u => !u.windowBad 0 0 && (u.spotFail none r (.tile 0 0) 0x1FFFF8).isNone &&
          !anyPoison 3 (u.tile 0).sramPoison 0x1FFFF8 8 && (u.tile 0).shadow.isEmpty &&
          (u.opFail (.sram 0 0x1FFFF8) .add 8 r.tr.asp).isNone) &&
        takenIs { s with mg := { s.mg with part := [(0, 0x8000000000000007)] } } 6 (.req r) fun u =>
          (u.spotFail none r (.tile 0 0) 0x1FFFF8).isSome) = true := by decide +kernel
theorem test_meets_RemoteRequests_response :
    let s (a : Answer) : State := { reqState (.rld 3) 0x8000000000000008 false none with wire := [⟨6, none, .resp 0 0 4 0 0 a⟩] }
    ([Answer.data 9 false, .done, .fail 12 8].all fun a => takenIs (s a) 6 (.resp 0 0 4 0 0 a) fun u =>
      (u.refusal none 0 0 (.tile 0 0)).isNone && (u.tile 0).remote.find? (·.id == 4) == some (held (.rld 3) 0x8000000000000008 false none) &&
      (u.slot 0 tr0.slot).keeps) = true ∧ tr0.site = 0 ∧
    (takenIs { s .done with mg := { State.reset.mg with part := [(0, 0x8000000000000007)] } } 6 (.resp 0 0 4 0 0 .done) fun u =>
      (u.refusal none 0 0 (.tile 0 0)).isSome) = true := by decide +kernel
/-- The last arrival at an object that one waits for, another arrival, one at an object never initialised, counts set and refused, and
wait requests for the generation and for one that has passed. -/
theorem test_meets_BarrierEvents_object :
    let s (k : ReqKind) (addr : W64) : State := (reqState k addr false none).modTile 0 fun t =>
      { t with bobjs := [(3, ⟨true, 3, 1, 7, none, 0⟩), (4, ⟨true, 2, 1, 7, none, 0⟩)], bwaits := [⟨4, 7, 0, 3, 0, 0⟩, ⟨3, 7, 0, 2, 0, 0⟩] }
    ([(ReqKind.arrive, 3), (.arrive, 4), (.arrive, 5), (.bari 2, 5), (.bari 2, 4), (.waitGen 7, 4), (.waitGen 6, 4)].all fun (k, n) =>
      let a : W64 := BitVec.ofNat 64 n
      let r := req0 k a false
      (s k a).reqReady r && (s k a).objectOf r == (0, n) && takenIs (s k a) 6 (.req r) fun u =>
        (u.spotFail none r (.tile (u.coord 0) 0) 0).isNone && !u.windowBad (u.coord 0) 0) = true ∧
    (let t := (s .arrive 3).tile 0
     (t.bobj 3).arrived + 1 ≠ (t.bobj 3).count ∧ (t.bobj 3).valid = true ∧ (t.bobj 4).arrived + 1 = (t.bobj 4).count ∧
     (t.bobj 4).gen = 7 ∧ t.bwaits.filter (fun w => w.obj == 4 && w.gen == 7) = [⟨4, 7, 0, 3, 0, 0⟩] ∧
     (t.bobj 5).valid = false ∧ (t.bobj 5).arrived = 0 ∧ 0 < (t.bobj 4).arrived) := by decide +kernel
/-- A pair in the vault with its words ARRIVED and COUNT, and whether its granules read as poison. -/
def pairState (k : ReqKind) (arrived count : Byte) (poison : Bool) : State :=
  { reqState k pair0 true none with
    vault := (if arrived = 0 then [] else [(0x100, arrived)]) ++ (if count = 0 then [] else [(0x104, count)]),
    vaultPoison := if poison then [4] else [] }
/-- The pair is set, refuses to be set, counts, completes, refuses an arrival with no count, fails, and is read. -/
theorem test_meets_BarrierEvents_pair :
    ([(ReqKind.bari 3, 0, 3, false), (.bari 3, 1, 3, false), (.arrive, 1, 3, false), (.arrive, 2, 3, false), (.arrive, 0, 0, false),
      (.arrive, 1, 3, true), (.bari 3, 0, 3, true), (.poll, 1, 3, false)].all fun (k, a, c, bad) =>
      let s := pairState k a c bad
      let r := req0 k pair0 true
      let off := if k == .poll then 0x108 else 0x100
      s.reqReady r && (s.answerOf none r).isNone && takenIs s 6 (.req r) fun u =>
        (match u.spotOf r with
          | (.at p o, v) => decide (p = .tile 0 2) && o == off && destPackage s.pkg p == s.pkg && !s.mustWait (memAt p o) (ReqKind.access k).2 &&
              (v.spotFail none r p o).isNone && memAt p o == .vault 0 off &&
              (v.opFailWith (memAt p o) .add 16 (v.keysFor r.src r.tr.asp r.key)).isSome == bad &&
              (k == .poll || v.valueAt (memAt p o) 16 == a.toNat + 2 ^ 32 * c.toNat) && (bad || !anyPoison 6 v.vaultPoison off 8)
          | _ => false)) = true := by decide +kernel
theorem test_meets_BarrierEvents_poll :
    let s := { reqState .arrive pair0 true (some 7) with cyc := 336 }
    let q := held .arrive pair0 true (some 7)
    (s.tile 0).remote.find? (·.id == 4) = some q ∧ q.sent = false ∧ q.stopped = false ∧ q.since + 256 = s.cyc ∧ q.id = 4 ∧
    ((reqState .arrive 3 false (some 7)).tile 0).remote.find? (·.id == 4) = some (held .arrive 3 false (some 7)) := by decide +kernel
/-- The answers to a request that a sleeping BARW has sent: joined, complete, and GEN unchanged and changed. -/
theorem test_meets_BarrierEvents_answers :
    let q := { held .arrive pair0 true (some 7) with barw := true }
    let s (a : Answer) : State :=
      { slotIs 0 fun x => { x with state := .asleep, wake := some (.bar pair0 true none false) } with wire := [⟨6, none, .resp 0 0 4 0 0 a⟩] }
    ([Answer.joined 7 false, .joined 7 true, .data 7 false, .data 8 false].all fun a =>
      takenIs ((s a).modTile 0 fun t => { t with remote := [q] }) 6 (.resp 0 0 4 0 0 a) fun u =>
        (u.refusal none 0 0 (.tile 0 0)).isNone && (u.tile 0).remote.find? (·.id == 4) == some q &&
        (u.slot 0 q.req.tr.slot).wake == some (.bar pair0 true none false)) = true ∧
    q.id = 4 ∧ q.req.tr.site = 0 := by decide +kernel

def entry (i : Instr) (d a b : W64) : QEntry := ⟨i, tr0, d, a, b, [], none, 60⟩
/-- An entry at the head of the array queue of a kernel with three accumulators, once it is due. -/
def arrayState (e : QEntry) : State :=
  { tileIs 0 fun t => { t with kernels := [{ kern with accs := [2, 0, 3] }], arrayQ := [e] } with cyc := 100000 }
theorem test_meets_QueuedUnits_array :
    ([Instr.az g0 2 q0, .mma g0 1 1 2 8 8 false false false 0 q0, .awr g0 4 1 2 q0, .ascl g0 1 0 q0, .aexp g0 1 0 q0, .amask g0 1 2 0 q0,
      .anrm g0 1 0 false q0, .anrm g0 1 0 true q0].all fun i =>
      let e := entry i 0 0 0
      let s := arrayState e
      (s.tile 0).arrayQ == [e] && (accOut e s).length == (if i == .anrm g0 1 0 true q0 then 2 else 1) &&
        ((accOut e s).all fun x => decide (x.1 < (s.arr e.tr).accs.length)) && decide (e.iss + busyOf e + 8 ≤ s.cyc)) = true ∧
    ([Instr.pld g0 1 1 2 .f32 false 8 q0, .pldv g0 1 1 2 .f32 false 8 q0, .acvt g0 1 0 false 8 q0].all fun i =>
      let e := { entry i 0 0 1 with lanes := List.replicate 32 0 }
      (planesOut e (arrayState e)).isSome && decide (e.iss + busyOf e + 8 ≤ (arrayState e).cyc)) = true ∧
    ([Instr.ard g0 4 1 0 q0, .arowmax g0 1 1 0 q0, .arowsum g0 1 1 0 q0, .acmb g0 1 1 1 1 true q0, .attv g0 1 1 1 0 8 8 false false true q0].all
      fun i => decide ((entry i 0 0 0).iss + busyOf (entry i 0 0 0) + 8 ≤ 100000)) = true ∧
    ((arrayState (entry (.az g0 2 q0) 0 0 0)).arr tr0).accs = [2, 0, 3] ∧ ([2, 0, 3] : List Nat).Nodup ∧
    (at0 0).cyc < (entry (.mma g0 1 1 0 8 8 false false false 15 q0) 0 0 0).iss + busyOf (entry (.mma g0 1 1 0 8 8 false false false 15 q0) 0 0 0) + 8 ∧
    256 ≤ rowStride 0x40007F ∧ rowFirst 0x40007F = 63 ∧ rowCount 0x40007F = 1 := by decide +kernel

/-- A shard table of one bucket at HBM 0: its first entry has the key 5, the others are empty, or all are taken. -/
def shardState (full : Bool) : State :=
  { at0 0 with
    mg := { State.reset.mg with shtcfg := [(0, 0x8000000000000000)] },
    hbm := (0, 5) :: (23, 0x40) :: (if full then (List.range 7).map fun k => (32 * k + 55, 0x40) else []) }
theorem test_meets_QueuedUnits_shard :
    let e (i : Instr) (key : W64) : QEntry := entry i 0x4000000000000000 key 0
    let s (full : Bool) (i : Instr) (key : W64) : State := (shardState full).modTile 0 fun t => { t with shardQ := [e i key] }
    ([(false, Instr.shlk g0 12 3 2 q0, 5, some 0, some 32), (false, .shmap g0 11 3 2 true q0, 6, none, some 32),
      (true, .shmap g0 11 3 2 true q0, 6, none, none), (false, .shunmap g0 12 3 2 true q0, 5, some 0, some 32)].all
        fun (full, i, key, found, free) =>
      (s full i key).shardAt 0 key 0 == some 0 && (s full i key).shardFind 0 key 0 == (found, free) &&
        ((s full i key).tile 0).shardQ == [e i key]) = true ∧
    (shardState true).slicing 0 = false ∧ (granules 6 0 256).any ((shardState true).lineBad 0) = false ∧
    (((at0 0).slot 0 tr0.slot).timely 100 && ((at0 0).slot 0 tr0.slot).pend.all fun p => decide (p.land ≤ 100)) = true := by decide +kernel

def cmd0 (op : EOp) : ECmd := ⟨11, 90, tr0, 0, 2, op, false, false, false, [], false, none, [], 0, []⟩
theorem test_meets_EngineCommands_port :
    let s := tileIs 0 fun t => { t with engPort := [cmd0 (.qfence 3 [])] }
    (s.tile 0).engPort = [cmd0 (.qfence 3 [])] ∧ (s.engQueue 0 2).length < 16 ∧
    ({ s with engines := [(2, (List.range 16).map fun k => { cmd0 (.qfence 0 []) with id := k })] } : State).engQueue 0 2 ≠ [] ∧
    16 ≤ (({ s with engines := [(2, (List.range 16).map fun k => { cmd0 (.qfence 0 []) with id := k })] } : State).engQueue 0 2).length := by decide +kernel
def cpyState (c : ECmd) : State := { at0 0 with engines := [(2, [c])] }
/-- What CPYC reads: three FP32 elements, converted to FP16. -/
def descC : List W64 := [0x8000000000001000, 0x8000000000000400, 3, 0x908]
/-- A copy to the last bytes of the tile, a fill of 9 bytes, a CPYC; a QFENCE; a descriptor that is refused. -/
theorem test_meets_EngineCommands_copy :
    let cpy : EOp := .cpy 0x80000000001FFFC0 0x8000000000000000 64
    ([cpy, .fill 0x8000000000001000 0x0102030405060708 9, .cpyc (some descC)].all fun op =>
      let s := cpyState (cmd0 op)
      s.engQueue 0 2 == [cmd0 op] && s.feeders 0 2 == [] && (cmd0 op).queue == 2 && match s.bytesOut (cmd0 op) with
        | some (x, b) => !b.isEmpty && (s.tilePlace (cmd0 op) .write x b.length).isSome
        | none => false) = true ∧
    ((cpyState (cmd0 cpy)).bytesOut (cmd0 cpy)).map (·.1) = some 0x80000000001FFFC0 ∧
    (cpyState (cmd0 cpy)).tilePlace (cmd0 cpy) .read 0x8000000000000000 64 = some (.sram 0 0) ∧
    (cpyState (cmd0 cpy)).tilePlace (cmd0 cpy) .write 0x80000000001FFFC0 64 = some (.sram 0 0x1FFFC0) ∧
    cpycBad descC = false ∧ cpycBad [0, 0, 0, 0x20] = true ∧ (((at0 0).slot tr0.site tr0.slot).keeps) = true ∧
    (cmd0 cpy).iss + 4 ≤ (at0 0).cyc := by decide +kernel
/-- Two rows of a CPY2 and two entries of a CPYL, each apart from all the others. -/
theorem test_meets_EngineCommands_runs :
    let two : EOp := .cpy2 (some [0x8000000000001000, 0x8000000000000400, 0x0000000200000008, 0x0000010000000080])
    let list : EOp := .cpyl 0x800 2 none
    let s (op : EOp) : State := (cpyState (cmd0 op)).modTile 0 fun t => { t with
      sram := [(0x801, 0x10), (0x807, 0x80), (0x809, 4), (0x80F, 0x80), (0x810, 8), (0x819, 0x12), (0x81F, 0x80), (0x821, 5), (0x827, 0x80), (0x828, 4)] }
    ((s two).runsOut (cmd0 two)).map (·.map ((s two).legOf (cmd0 two))) =
      some [some (.sram 0 0x1000, .sram 0 0x400, 8), some (.sram 0 0x1100, .sram 0 0x480, 8)] ∧
    ((s list).runsOut (cmd0 list)).map (·.map ((s list).legOf (cmd0 list))) =
      some [some (.sram 0 0x1000, .sram 0 0x400, 8), some (.sram 0 0x1200, .sram 0 0x500, 4)] := by decide +kernel

def ruck0 : Ruck :=
  { l := 3, node := 2, site := 0, compact := false, addr := 0x10000, offs := [256, 512, 512, 512, 512, 512, 512, 512, 512], kern := kern,
    slots := [(0, main0)], tagSave := 0, pendSave := [], late := 2, baskets := [], joins := [], bobjs := [], mons := [], hent := [], hste := [],
    arrivals := [], latches := [], cmds := [], sends := [], branches := [], colls := [], waits := [], reloc := [], collSeq := [],
    wheel := 0xFFFFFFFFFFFFFFFF, dest := none, idle := 0 }
/-- Late commands with and without a tag, of a rucksack with one more and of one with none: a QFENCE, and fills within the saved
allocation, beyond it and in another tile. -/
theorem test_meets_EngineCommands_late :
    ([(EOp.qfence 3 [], none, 2), (.qfence 3 [], some 3, 2), (.qfence 3 [], some 3, 1), (.fill 0x8000000000001000 7 8, none, 2),
      (.fill 0x8000000000010000 7 8, none, 2), (.fill 0x8000008000001000 7 8, none, 2)].all fun (op, tag, late) =>
      let c : ECmd := { cmd0 op with late := true, tr := { tr0 with tag := tag } }
      let r := { ruck0 with late := late, pendSave := [(3, 1)] }
      let s := { cpyState c with sched := { Sched.reset with rucks := [r] } }
      s.engQueue 0 2 == [c] && (match s.ruckOf c.tr with | some x => decide (x = r) | none => false) && !s.ruckWaits c && (match op with
        | .qfence .. => true
        | _ => match s.bytesOut c with
          | some (x, b) => (s.tilePlace c .write x b.length).isSome
          | none => false)) = true ∧
    gaddr 0x8000000000001000 = .tile 0 0 0x1000 ∧ ruck0.kern.sbase ≤ 0x1000 ∧ 0x1008 ≤ ruck0.kern.sbase + ruck0.kern.sram ∧
    ruck0.kern.sbase + ruck0.kern.sram ≤ 0x10000 ∧ ruck0.holds ((0x1000 - ruck0.kern.sbase) / 64) = true := by decide +kernel

def coll0 (site off n : Nat) (op : Option AOp) (root : Bool) : CEntry :=
  { tr := { tr0 with site := site }, iss := 90, d := 0x100, a := off, n := n, size := 2, op := op, root := root, group := 5,
    count := 3, level := 0, index := 0 }
def collState (l : List CEntry) : State := { at0 0 with tiles := l.map fun c => (c.tr.site, { tile0 with collQ := [c] }) }
def reg0 : RegionId := ⟨3, 2, 0x1234⟩
/-- Three contributions to a reduction, and to a broadcast of one root, of none and of two; three that do not agree, and two only. -/
theorem test_meets_CollectiveEvents :
    let three (op : Option AOp) (a b c : Bool) : List CEntry := [coll0 0 0x40 1 op a, coll0 1 0x80 1 op b, coll0 2 0xC0 1 op c]
    let differ : List CEntry := [coll0 0 0x40 1 (some .add) false, coll0 1 0x80 2 (some .add) false, coll0 2 0xC0 1 (some .add) false]
    ([three (some .add) false false false, three none true false false, three none false false false, three none true true false, differ,
      differ.take 2].all fun l =>
      let s := collState l
      let x := s.coll reg0.l 0 (s.fieldsOf reg0 0 (s.contributions reg0 0 0)) 0
      s.contributions reg0 0 0 == l.map (fun c => (c.tr.site, c)) && !x.broken && x.result.isNone &&
        l.all fun c => (s.slot c.tr.site c.tr.slot).keeps) = true ∧
    ([0, 1, 2] : List Nat).Nodup ∧ (three none true false false).length = 3 := by decide +kernel
/-- A collective one of whose tiles has left service before it has contributed. -/
theorem test_meets_CollectiveEvents_broken :
    let s := { collState [coll0 0 0x40 1 (some .add) false] with
      mg := { State.reset.mg with svc := [0] }, tiles := [(0, { tile0 with collQ := [coll0 0 0x40 1 (some .add) false] }), (1, tile0)] }
    s.collBroken reg0 0 (s.contributions reg0 0 0) = true ∧ s.contributions reg0 0 0 = [(0, coll0 0 0x40 1 (some .add) false)] := by decide +kernel

/-- A monitor whose word has reached its value and one whose word has not. -/
theorem test_meets_RegionEvents_monitor :
    let m (v : W64) : Mon := ⟨0, .geu, 0x1FF8, v, true⟩
    let s (v : W64) : State := ((slotIs 0 fun x => { x with state := .asleep, wake := some (.mon 1 false) }).modTile 0 fun t =>
      { t with mons := [(1, m v)], sram := [(0xFFC0, 9)] })
    ((s 9).tile 0).mons.find? (·.1 == 1) = some (1, m 9) ∧ ((s 10).tile 0).mons.find? (·.1 == 1) = some (1, m 10) ∧
    ((s 9).slot 0 0).wake = some (.mon 1 false) ∧ loadNat ((s 9).tile 0).sram (8 * 0x1FF8) 8 = 9 := by decide
def alone : Kernel := { kern with slots := [(0, 0)] }
def regionState (x : Slot) : State := { at0 0 with tiles := [(0, { tile0 with kernels := [alone], slots := [(0, x)] })] }
theorem test_meets_RegionEvents_region :
    let waiting := regionState { main0 with state := .asleep, wake := some (.phase false) }
    let swapping := (regionState { main0 with state := .asleep, wake := some (.swap false) }).modTile 0 fun t =>
      { t with box := { t.box with swapWait := true } }
    waiting.regionOn reg0 = [(0, alone)] ∧ (waiting.tile 0).kernelOf alone.owner = alone ∧ alone.mains = [0] ∧
    (waiting.slot 0 0).hnd = none ∧ (waiting.slot 0 0).faults = [] ∧ (waiting.slot 0 0).deferred = [] ∧ waiting.regionQuiet reg0 = true ∧
    swapping.regionOn reg0 = [(0, alone)] ∧ (swapping.tile 0).box.isLocal = true ∧ (swapping.tile 0).box.loaded = true ∧
    (swapping.tile 0).box.strays = [] ∧ swapping.regionFaulted reg0 = false := by decide +kernel
/-- The region on two tiles, one of which has a store of another kernel to perform and one of its own. -/
theorem test_meets_RegionEvents_tiles :
    let t (x : Slot) : Tile := { tile0 with kernels := [alone], slots := [(0, x)], shadow := [⟨5, 4, 90, [(8, 1)], false, false⟩, ⟨0, 0, 91, [(64, 1)], false, false⟩] }
    let asleep (w : Wake) : Tile := t { main0 with state := .asleep, wake := some w }
    let waiting : State := { at0 0 with tiles := [(0, asleep (.phase false)), (1, t { main0 with state := .done })] }
    let box (b : Tile) : Tile := { b with box := { b.box with swapWait := true } }
    let swapping : State := { at0 0 with tiles := [(0, box (asleep (.swap false))), (1, box (asleep (.swap false)))] }
    let done : State := { at0 0 with tiles := [(0, t { main0 with state := .done }), (1, t { main0 with state := .done })] }
    ([waiting, swapping, done].all fun s => s.regionOn reg0 == [(0, alone), (1, alone)] && (s.tile 0).kernelOf 0 == alone && (s.tile 1).kernelOf 0 == alone &&
      [0, 1].all fun n => (s.slot n 0).hnd.isNone && (s.slot n 0).faults.isEmpty && (s.slot n 0).deferred.isEmpty) = true ∧
    waiting.regionQuiet reg0 = true ∧ swapping.regionFaulted reg0 = false ∧ done.regionIdle reg0 = true ∧
    (swapping.tile 1).box.isLocal = true ∧ (swapping.tile 1).box.loaded = true ∧ (swapping.tile 1).box.strays = [] ∧
    (⟨5, 4, 90, [(8, 1)], false, false⟩ : Shadow).leads ⟨0, 0, 91, [(64, 1)], false, false⟩ = false := by decide +kernel
theorem test_meets_RegionEvents_completion :
    let s := regionState { main0 with state := .done }
    s.regionOn reg0 = [(0, alone)] ∧ alone.started = true ∧ (s.slot 0 0).state = .done ∧ s.regionIdle reg0 = true ∧
    s.nodeStopped reg0.l reg0.node = false ∧ ((regionState main0).slot 0 0).state = .run := by decide +kernel
theorem test_meets_RegionEvents_stray :
    let c : BoxCfg := ⟨[0, 0, 0, 0, 0], none, none, none⟩
    let s := tileIs 0 fun t => { t with box := { t.box with active := some c, swapTr := some tr0, strays := [2] } }
    (s.tile 0).box.active = some c ∧ c.sel.contains 2 = false ∧ (s.tile 0).box.strays.contains 2 = true ∧
    (s.slot 0 tr0.slot).keeps = true := by decide

/-- A configuration image of one box, as R402 and R403 lay it out, and one whose name is wrong. -/
def image (name : W64) : List Host.Cell :=
  (wordBytes [name, 0x00010001, 0, 0, 0, 0, 0, 0, 0, 0, 0, 0, 0, 0, 0, 0]).zipIdx.filterMap fun (b, k) => if b = 0 then none else some (k, b)
def cfgldState (name : W64) : State :=
  tileIs 0 fun t => { t with sram := image name, netQ := [entry (.cfgld g0 3 2 q0) 0 0x8000000000000000 128] }
def imageRead (name : W64) (good : Bool) : Bool :=
  let s := cfgldState name
  let e := entry (.cfgld g0 3 2 q0) 0 0x8000000000000000 128
  s.netHead 0 == some e &&
  match s.locateAll (portEgress 0) 0 e.tr .read (cutRange e.a e.b.toNat) with
  | (.ok src, u) => match u.readPieces e.tr.asp (ownSlots e.tr) [] src with
    | .ok (b, v) => !anyBad b && (match v.boxesOf e.tr b with
        | some (_, far) => good && farBoxes [] far == some true
        | none => !good) && (v.slot 0 e.tr.slot).keeps
    | .error _ => false
  | _ => false
theorem test_meets_RouteEvents_load :
    imageRead 0x474643455455_4F52 true = true ∧ imageRead 1 false = true := by decide +kernel
theorem test_meets_RouteEvents_delivery :
    let c : BoxCfg := ⟨[0, 0, 0, 0, 1], none, some (1, 0, 5), none⟩
    let s := tileIs 0 fun t => { t with box := { t.box with active := some c, inbuf := List.replicate 64 (7, false) } }
    let u := tileIs 0 fun t => { t with box := { t.box with active := some c, eos := some false } }
    (s.tile 0).entryFor 5 = some 0 ∧ 64 * 1 ≤ (s.tile 0).box.inbuf.length ∧ hentBasket ((s.tile 0).hentOf 0) = 0 ∧
    64 * 1 ≤ ((s.tile 0).basket 0).bytes ∧ ((s.tile 0).basket 0).pick false = some 0 ∧ (u.tile 0).box.eos = some false ∧
    (u.tile 0).box.inbuf = [] := by decide

/-! ### The premises of the statements about the fabric, failed work, bring-up, launches and pre-emption are met -/

/-- Lane group 0 is live and every package's traffic leaves by port 0. -/
def fabric0 : State :=
  { at0 0 with mg := { State.reset.mg with lgb := [(0, 0x9000000000000000)], fwdt := [(1, 0)], part := [(0, 0x8000000000000000)] } }
def npkt (n : Nat) : HPacket := { pkt0 [elem0 8] with src := 8192, seq := some n }
/-- What stands forwarded, refused, inside the window of package 8, before it, seen in it and past it. -/
theorem test_meets_FabricArrivals_window :
    let s := { fabric0 with winBase := [(8, 5)], winSeen := [(8, [6])], winFails := [(8, [(6, [⟨0, 12, 9⟩])])] }
    let m : Msg := .ack (9 * 1024) 0 4 []
    let far : Msg := .claim { claim0 with dst := 9 * 1024, owner := 3 }
    let at' (n : Nat) : Nat := (n + 2 ^ 32 - getD 0 s.winBase 8) % 2 ^ 32
    let seen := getD [] s.winSeen 8
    s.laneUp 0 = true ∧ s.laneUp 4 = false ∧ s.pkg = 0 ∧ coordPkg 8192 = 8 ∧
    msgPkg m = 9 ∧ s.gateIn 0 m = none ∧ s.wayOut 9 = true ∧ ({ s with mg := { s.mg with fwdt := [] } } : State).wayOut 9 = false ∧ msgPkg far = 9 ∧ (s.gateIn 0 far).isSome = true ∧
    ([4, 6, 1028, 2000].all fun n => msgPkg (.packet (npkt n)) == 0) = true ∧
    at' 1028 = 1023 ∧ seen.contains 1028 = false ∧ seqBefore 4 (getD 0 s.winBase 8) = true ∧ seen.contains 6 = true ∧ s.flying 8 6 = false ∧
    1024 ≤ at' 2000 ∧ seqBefore 2000 (getD 0 s.winBase 8) = false ∧ seen.contains 2000 = false ∧ getD 0 s.winBase 8 < 2 ^ 32 ∧
    ({ s with wire := [⟨7, some 0, .packet (npkt 6)⟩] } : State).flying 8 6 = true := by decide +kernel
def write0 : EWrite := ⟨8192, 4, .tile 0 0, 64, [(7, false)], 0, 0, []⟩
/-- The messages that join those of the package, a share of a collective, and one that the circuit's gateway refuses. -/
theorem test_meets_FabricArrivals_others :
    let s := fabric0
    let p (owner : Nat) : Partial := ⟨3, 1, 0, 0, 9, 0, false, [], none, owner⟩
    ([Msg.token token0, .claim claim0, .req (req0 .arrive 3 false), .write write0, .grant 0 0 4 none 9, .ack 0 0 4 [],
      .resp 0 0 4 0 0 .done, .wrote 0 4 none].all fun m => msgPkg m == s.pkg) = true ∧
    s.gateIn 0 (.part (p 0)) = none ∧ (s.gateIn 0 (.part (p 3))).isSome = true := by decide +kernel
/-- A write of an engine of package 8, and the same one where the gateway of the tile refuses it. -/
theorem test_meets_FabricArrivals_write :
    let s := { fabric0 with wire := [⟨6, some 0, .write write0⟩] }
    let r := { s with mg := { s.mg with part := [(0, 0x8000000000000007)] } }
    let taken' (s : State) (p : State → Bool) : Bool := (s.taken 6).any fun x => x.1 == ⟨6, some 0, .write write0⟩ && p x.2
    taken' s (fun u => (u.refusal (some 0) 8192 0 (.tile 0 0)).isNone) = true ∧ s.windowBad 0 0 = false ∧
    taken' r (fun u => (u.refusal (some 0) 8192 0 (.tile 0 0)).isSome) = true ∧
    s.poolGroup 0 = none ∧ (9 : Nat) ≠ s.pkg ∧ (s.poolGroup 9).isSome = true := by decide +kernel

/-- A packet, a request and a token image whose time runs out; the acknowledgement of the packet is due, or is not. -/
theorem test_meets_FailedWork_unacked :
    let x : HeldPkt := ⟨4, 90, pkt0 [elem0 8]⟩
    let late (f : Tile → Tile) : State := { tileIs 0 f with cyc := 90 + 1024 * 0x4000 }
    let s := late fun t => { t with unacked := [x] }
    let q := late fun t => { t with remote := [held (.rld 3) 0x8000000000000008 false none] }
    let k := late fun t => { t with tokensOut := [(send0, token0)] }
    let due := { s with wire := [⟨6, none, .ack (s.coord 0) 0 4 []⟩], agenda := [(80, .hamperAcknowledgement 6)] }
    ([s, q, k].all fun z => !z.answerDue 0 4 && (z.expired (z.tile 0)).contains 4 && (z.slot 0 tr0.slot).keeps) = true ∧
    due.answerDue 0 4 = true ∧
    (s.tile 0).unacked.find? (·.id == 4) = some x ∧ x.since + s.timeout (destPackage s.pkg x.pkt.dst) ≤ s.cyc ∧
    (elem0 8).merged = [] ∧ (elem0 8).slot = (elem0 8).tr.slot ∧ (elem0 8).tr.site = 0 ∧ (s.tile 0).flushes = [] ∧
    (q.tile 0).unacked = [] ∧ (q.tile 0).remote.find? (·.id == 4) = some (held (.rld 3) 0x8000000000000008 false none) ∧
    80 + q.timeout (q.reqPkg (held (.rld 3) 0x8000000000000008 false none)) ≤ q.cyc ∧
    (k.tile 0).unacked = [] ∧ (k.tile 0).remote = [] ∧ (k.tile 0).tokensOut.find? (·.1.id == 4) = some (send0, token0) ∧
    send0.since + k.timeout (coordPkg token0.dst) ≤ k.cyc ∧ send0.e.tr.site = 0 := by decide +kernel
/-- Records 2 of a hamper, of an engine queue, of a remote request and of a network queue. -/
def recordState (g : Gen) : State :=
  let s := reqState (.rld 3) 0x8000000000000008 false none
  { s.modTile 0 fun t => { t with hampers := [(3, { ham (some 99) [elem0 8] with stopped := true })], netStopped := true } with
    engines := [(2, [cmd0 (.qfence 3 [])])], mg := { State.reset.mg with xfrec := [(2, ⟨g, [0x8000000300000000, 0, 77]⟩)] } }
theorem test_meets_FailedWork_record :
    ([Gen.hamper 0 3, .eng 0 2, .req 0 4, .net 0].all fun g =>
      (recordState g).mg.xfrec.find? (·.1 == 2) == some (2, ⟨g, [0x8000000300000000, 0, 77]⟩)) = true ∧
    XRec.valid ⟨.net 0, [0x8000000300000000, 0, 77]⟩ = true ∧ XRec.valid ⟨.net 0, [0x0000000300000000, 0, 77]⟩ = false ∧
    ((recordState (.hamper 0 3)).tile 0).hampers.find? (·.1 == 3) = some (3, { ham (some 99) [elem0 8] with stopped := true }) ∧
    (recordState (.eng 0 2)).engQueue 0 2 = [cmd0 (.qfence 3 [])] ∧ (cmd0 (.qfence 3 [])).late = false ∧
    ((recordState (.req 0 4)).tile 0).remote.find? (·.id == 4) = some (held (.rld 3) 0x8000000000000008 false none) ∧
    (held (.rld 3) 0x8000000000000008 false none).req.tr.site = 0 ∧
    (recordState (.net 0)).mg.xfWait = [] ∧ ((recordState (.net 0)).slot 0 tr0.slot).keeps = true := by decide +kernel
theorem test_meets_FailedWork_slice :
    let s := { at0 0 with hbmDirty := [16], mg := { State.reset.mg with emptying := [0], slices := [(0, 1), (1, 1)] } }
    s.mg.emptying.contains 0 = true ∧ inSet 16 s.hbmDirty = true ∧ s.mg.rtsvc.contains 0 = true ∧ (nth s.mg.slices (s.homeSlice (64 * 16)) (0, 0)).1 = 0 := by decide +kernel

def mcState (stage : Nat) (box : List Host.Cell) : State := { at0 0 with mg := { State.reset.mg with stage := stage, mcbox := box } }
/-- The stages of bring-up, and the check of a recovery image under way or not. -/
theorem test_meets_BringUp_stages :
    let b (n : Nat) : State := { mcState n [] with cyc := 2 ^ 26, mg := { (mcState n []).mg with boot := some [] } }
    (b 2).mg.boot = some [] ∧ (mcState 2 []).mg.boot = none ∧ (b 2).mg.stage = 2 ∧ (b 2).mg.stageAt + 2 ^ 26 ≤ (b 2).cyc + 1 ∧
    (b 3).mg.stage < 4 ∧ (b 4).mg.stage = 4 ∧ (b 4).acceptsImage (b 4).mg.flash = false ∧ (mcState 6 []).mg.stage = 6 ∧
    (mcState 5 []).mg.mcCmd = none ∧ (mcState 5 []).mg.mcWrote = [] := by decide +kernel
/-- Each command of the management controller; EXTEND of MEAS_1 and MEAS_7, and of MEAS_8, which there is none of. -/
theorem test_meets_BringUp :
    (mcState 5 []).acceptsImage [] = false ∧ mcCode (mcState 7 [(0, 1)]) = 1 ∧ ((mcState 7 [(0, 1)]).box 0x28 56).all (· == 0) = true ∧
    ((mcState 7 [(0, 1), (0x5F, 1)]).box 0x28 56).all (· == 0) = false ∧ mcCode (mcState 6 [(0, 1)]) = 1 ∧
    (mcState 7 [(0, 1)]).mg.mcCmd = none ∧ (mcState 6 [(0, 1)]).mg.mcBusy = false ∧
    ([(1, 1), (2, 2), (3, 3), (4, 4)].all fun (n, b) => mcCode (mcState 7 [(0, b)]) == n) = true ∧
    ([1, 7, 8].all fun n => mcCode (mcState 7 [(0, 2), (8, n)]) == 2 && (nth ((mcState 7 [(0, 2), (8, n)]).box 8 1) 0 0) == n) = true ∧
    fld (0x40 : W64) 0 24 = 0x40 ∧ fld (0x1000 : W64) 0 24 = 4096 ∧ mcCode (mcState 7 [(0, 3), (8, 15)]) = 3 ∧
    (mcState 7 [(0, 3), (8, 15)]).unwrap 104 = none ∧ (mcState 7 [(0, 3), (8, 15)]).partBusy 15 = false ∧
    mcCode (mcState 7 [(0, 4), (8, 1)]) = 4 ∧ (mcState 7 [(0, 4), (8, 1)]).unwrap 40 = none := by decide
/-- What a key unwraps to, and whether a signature verifies, are not the spec's to say: with a session the premises that name
them stand as the opaque functions have them. -/
theorem test_meets_BringUp_keys (k : List Byte) :
    let s := { mcState 7 [(0, 3), (8, 15)] with mg := { (mcState 7 [(0, 3), (8, 15)]).mg with session := some k } }
    s.unwrap 104 = Config.keyUnwrap k (s.box 0x40 104) ∧ s.partBusy 15 = false := ⟨rfl, rfl⟩

/-- Graph 0 at the start of scheduler memory: one node of a rectangle of one tile on queue 0, on one package; its kernel has one slot with one
position and 4 KiB of SRAM, and its image is the word of END. -/
def graphMem : List Host.Cell :=
  [(0, 1), (4, 1), (0xD, 2), (0x20, 1), (0x41, 0x10), (0x44, 0x78), (0x45, 2), (0x49, 1), (0x4B, 1), (0x4C, 1), (0x50, 1), (0x51, 1), (0x58, 1), (0x60, 1),
   (0x68, 1), (0x70, 1), (0x78, 1), (0x80, 1), (0x88, 1), (0x1019, 0x10), (0x1037, 0x81), (0x1277, 0x22)]
def sched0 : Sched :=
  { Sched.reset with mem := graphMem, schgr := [(0, 0x8000000000000000)], trigs := [0], trigL := [7] }
def graphState : State :=
  { State.reset with cyc := 100, mg := { State.reset.mg with stage := 7, svc := [1], rtsvc := [0, 1], tables := [0, 1] }, sched := sched0 }
theorem test_meets_LaunchEvents :
    let s := graphState
    let h := s.graphHdr 0
    s.graphSilent 0 = false ∧ s.graphSilent 1 = true ∧ s.graphBad 0 = false ∧ h.npkg = 1 ∧ s.serial 7 0 = some 7 ∧
    (s.patches 0).any (patchBad h.paLen) = false ∧ s.launchOf (launchKey s.pkg 7) = none ∧ (s.edges h).any (·.2 == 0) = false ∧
    ({ s with sched := { s.sched with mem := (0, 1) :: (1, 1) :: (3, 1) :: graphMem.drop 1 } } : State).graphBad 0 = true ∧
    s.sched.trigs.length < 32 ∧ s.sched.launches.length + ([] : List W64).length < 64 ∧ s.mg.stage = 7 ∧
    64 ≤ s.sched.launches.length + (List.replicate 64 (0 : W64)).length ∧ (List.replicate 32 (0 : W64)).length = 32 ∧
    (fun z : State => z.graphSilent 0 = false ∧ (z.graphHdr 0).npkg = 2)
      { s with sched := { s.sched with mem := graphMem.map fun y => if y.1 = 4 then (y.1, 2) else y } } := by decide +kernel
/-- A notice that matches the graph here and one whose shape differs.
A notice that comes in, and its answer that leaves, by a lane group of the packet pool; and neither. -/
theorem test_meets_LaunchEvents_notice :
    let s := graphState
    let h := s.graphHdr 0
    ([(1, true), (2, false)].all fun (n, ok) =>
      let x : Notice := ⟨0, 7, 7, 9, (n, 0, 1), []⟩
      (fld (getD 0 s.sched.schgr x.graph) 63 1 == 1 && (h.nnode, h.nedge, h.npkg) == x.shape) == ok) = true ∧
    s.launchOf (launchKey 9 7) = none ∧ fabric0.hears = true ∧ s.hears = false ∧ fabric0.wayOut 9 = true ∧ s.wayOut 9 = false := by decide +kernel

def key7 : Nat := launchKey 0 7
def launch0 (st : NState) : Launch := ⟨key7, 7, 0, 0, [], [(0, { Node.fresh with st := st })], none, []⟩
def nodeState (st : NState) (tiles : Sparse Tile) : State :=
  { graphState with tiles := tiles, sched := { sched0 with trigs := [], trigL := [], launches := [launch0 st], queues := [(0, [⟨key7, 0, 90⟩])] } }
/-- The one node stands at the head of its queue and can be placed on the only site in service. -/
theorem test_meets_PlacementEvents_selection :
    let s := nodeState .ready []
    let a := launch0 .ready
    let r := s.nodeRec (s.graphHdr 0) 0
    s.misplaced = [] ∧ s.sched.round = none ∧ s.head 0 = some ⟨key7, 0, 90⟩ ∧ s.head 63 = none ∧ s.launchOf key7 = some a ∧
    s.rucksOf key7 0 = [] ∧ s.headerBad r = false ∧ s.partOf key7 0 = [] ∧ (a.node 0).isSome = true ∧ (s.spanned a r).filter (· != s.pkg) = [] ∧
    rising s.sched.queues = true ∧ getD [] s.sched.queues 0 = [⟨key7, 0, 90⟩] := by decide +kernel
theorem test_meets_PlacementEvents_room :
    ([NState.ready, .placing].all fun x => ((nodeState x []).placeOwn (launch0 x) 0 false).isSome) = true := by decide +kernel
/-- One tile of the node stands on site 1, in slot 0, not yet started. -/
def bound0 (started : Bool) : Kernel :=
  { Kernel.unbound with slots := [(0, 0)], mains := [0], l := key7, sram := 4096, rankSize := 1, widths := [1], exts := [1], started := started }
def placedTile (started : Bool) (st : SlotState) : Tile :=
  { Tile.reset with kernels := [bound0 started], wheel := 0xFFFFFFFFFFFFFFF0, slots := [(0, { Slot.reset with state := st })] }
def placed0 (st : NState) (started : Bool) (x : SlotState) : State := nodeState st [(1, placedTile started x)]
theorem test_meets_PlacementEvents_start :
    let s := placed0 .placing false .empty
    let r := s.nodeRec (s.graphHdr 0) 0
    s.launchOf key7 = some (launch0 .placing) ∧ ((launch0 .placing).node 0) = some { Node.fresh with st := .placing } ∧ s.rucksOf key7 0 = [] ∧
    s.partOf key7 0 = [(1, bound0 false)] ∧ (s.tile 1).kernels.filter (·.owner == 0) = [bound0 false] ∧ (bound0 false).rings = 0 ∧
    r.plen = 0 ∧ (s.kernelHdr r).image.length = 8 := by decide +kernel
/-- A header that is refused, no room on the package at all, a part that ends, and a lead that still waits for package 9. -/
theorem test_meets_PlacementEvents_parts :
    let bad := { nodeState .ready [] with sched := { (nodeState .ready []).sched with mem := graphMem.filter (·.1 != 0x1019) } }
    let none0 := { nodeState .ready [] with mg := { graphState.mg with svc := [] } }
    let s := placed0 .placed true .run
    bad.headerBad (bad.nodeRec (bad.graphHdr 0) 0) = true ∧ none0.placeOwn (launch0 .ready) 0 false = none ∧
    none0.placeable (launch0 .ready) 0 = false ∧ none0.headerBad (none0.nodeRec (none0.graphHdr 0) 0) = false ∧
    s.launchOf key7 = some (launch0 .placed) ∧ ((launch0 .placed).node 0) = some { Node.fresh with st := .placed } ∧
    s.partOf key7 0 = [(1, bound0 true)] ∧ ({ launch0 .ready with await := [8, 9] }).await.filter (· != 8) ≠ [] := by decide +kernel

/-- The package with a lane group of its packet pool live, by which every other package is reached. -/
def hearing (s : State) : State := { s with mg := { s.mg with lgb := [(0, 0x9000000000000000)], fwdt := [(1, 0)] } }
/-- Another node has taken every position of the only site in service. -/
def taken1 : Tile := { placedTile true .run with wheel := 0, kernels := [{ bound0 true with l := key7 + 1 }] }
theorem test_meets_PlacementEvents_packages :
    let s := hearing (placed0 .placing false .empty)
    let full := hearing (nodeState .ready [(1, taken1)])
    let away := hearing { nodeState .ready [] with mg := { graphState.mg with svc := [] } }
    let bad := hearing { nodeState .ready [] with sched := { (nodeState .ready []).sched with mem := graphMem.filter (·.1 != 0x1019) } }
    ([s, full, away, bad, hearing (placed0 .placed true .run)].all fun x => x.hears && x.wayOut 9 && (x.rucksOf key7 0).isEmpty) = true ∧
    s.partOf key7 0 = [(1, bound0 false)] ∧ bad.headerBad (bad.nodeRec (bad.graphHdr 0) 0) = true ∧
    full.headerBad (full.nodeRec (full.graphHdr 0) 0) = false ∧ (full.placeOwn (launch0 .ready) 0 false).isNone = true ∧
    full.placeable (launch0 .ready) 0 = true ∧ (away.placeOwn (launch0 .ready) 0 false).isNone = true ∧ away.placeable (launch0 .ready) 0 = false ∧
    ((hearing (nodeState .ready [])).placeOwn (launch0 .ready) 0 false).isSome = true ∧ graphState.hears = false := by decide +kernel

def pre0 (compact stopped ending : Bool) : Preempt := ⟨key7, 0, compact, false, some 200, false, stopped, ending, true, 0, []⟩
def preState (p : Preempt) (x : SlotState) : State :=
  let s := placed0 .placed true x
  { s with sched := { s.sched with preempts := [p], rkl := 0x20000 } }
/-- A request for a node that there is none of, one that finds no room, and one that finds room. -/
theorem test_meets_PreemptionEvents_request :
    let s := placed0 .placed true .run
    let w : W64 := 0x4000000000000007
    let room := { s with sched := { s.sched with rkl := 0x20000 } }
    fld w 0 32 = 7 ∧ fld w 40 8 = 0 ∧ fld w 62 2 ≠ 0 ∧ ([1, 2, 3].all fun op => !s.discards key7 0 op) = true ∧ launchKey s.pkg 7 = key7 ∧ s.launchOf (launchKey 0 8) = none ∧
    s.preemptOf key7 0 = none ∧ s.reserveAll (s.partOf key7 0) [] = none ∧ (room.reserveAll (room.partOf key7 0) []).isSome = true ∧
    s.mg.stage = 7 ∧ (launch0 .placed).node 0 = some { Node.fresh with st := .placed } ∧
    (nodeState .saved []).preemptOf key7 0 = none ∧ (nodeState .saved []).discards key7 0 1 = false ∧
    ([1, 2].all fun op => let z := room; { z with sched := { z.sched with schpst := 0x8000000000000000 } }.discards key7 0 op) = true := by
  decide +kernel
theorem test_meets_PreemptionEvents_stand :
    let s := preState (pre0 true false false) .run
    let rest := preState (pre0 true false false) .done
    s.launchOf key7 = some (launch0 .placed) ∧ s.preemptOf key7 0 = some (pre0 true false false) ∧
    (preState (pre0 false true false) .stopped).preemptOf key7 0 = some (pre0 false true false) ∧
    ({ s with cyc := 200 }).preemptOf key7 0 = some (pre0 true false false) ∧ (pre0 true false false).due = some 200 ∧
    (preState { pre0 true false false with conv := true } .run).preemptOf key7 0 = some { pre0 true false false with conv := true } ∧
    s.discards key7 0 3 = false ∧ (preState (pre0 true true false) .run).discards key7 0 3 = false ∧
    ((s.partOf key7 0).all fun y => y.2.started) = true ∧ s.atRest key7 0 = false ∧ rest.atRest key7 0 = true := by decide +kernel
theorem test_meets_PreemptionEvents_save :
    let s (e : Bool) := preState (pre0 false true e) .stopped
    (s false).partOf key7 0 = [(1, bound0 true)] ∧ ((s false).tile 1).kernels.filter (·.owner == 0) = [bound0 true] ∧
    (s false).nodeReady key7 0 false = true ∧ (s true).nodeReady key7 0 true = true ∧ (preState (pre0 false true false) .run).nodeReady key7 0 false = false ∧
    (s true).rucksOf key7 0 = [] ∧ (s false).nodeFaults key7 0 = [] ∧ ((s false).tile 1).box.strays = [] := by decide +kernel
/-- The slots of a node that stops, at their own positions: in RUN, BACKED, HELD; and one that is STOPPED. -/
theorem test_meets_PreemptionEvents_step :
    ([SlotState.run, .backed, .held].all fun x =>
      let s := { preState (pre0 false true false) x with cyc := 0, issues := [1] }
      let u : State := { s with issues := [], curSite := 1, curSlot := fld (s.tile 1).wheel (4 * (s.cyc % 16)) 4 }
      !s.mg.tripped && s.todo.isEmpty && u.curSlot == 0 && (u.me.deferredDue s.cyc).isNone && u.slotStops 1 0 && u.me.state.acts) = true ∧
    (preState (pre0 false true false) .stopped).saveWaits (pre0 false true false) 1 = false ∧
    (preState { pre0 true false false with host := false } .run).preemptOf key7 0 = some { pre0 true false false with host := false } ∧
    SlotState.acts .stopped = false := by decide +kernel
/-- A saved node, and one placed again that has its tile to restore. -/
theorem test_meets_PreemptionEvents_restore :
    let r : Ruck := { ruck0 with l := key7, node := 0, site := 1, kern := bound0 true, slots := [(0, Slot.reset)], late := 0, dest := some 1 }
    let s := placed0 .placed false .empty
    let u := { s with sched := { s.sched with rucks := [r] } }
    let v := { u with hbmPoison := [1024] }
    (nodeState .saved []).launchOf key7 = some (launch0 .saved) ∧ (nodeState .saved []).preemptOf key7 0 = none ∧
    u.nodeStopped key7 0 = false ∧ u.rucksOf key7 0 = [r] ∧ u.restorable key7 0 = true ∧
    (granules 6 r.addr 256).any (u.lineBad r.kern.asp) = false ∧ (granules 6 r.addr 256).any (v.lineBad r.kern.asp) = true ∧
    v.restorable key7 0 = true ∧ r.branches = [] ∧ r.bobjs = [] ∧
    ({ u with sched := { u.sched with rucks := [{ r with late := 1 }] } } : State).restorable key7 0 = false := by decide +kernel

/-! ### The premises of the statements about health, links, the apertures and the registers are met -/

theorem test_meets_HealthEvents_tests :
    let s := at0 0
    let h (n : Nat) : State := { s with mg := { State.reset.mg with htest := some n } }
    fld s.mg.katcfg 63 1 = 1 ∧ s.mg.svc.contains 1 = true ∧ s.mg.htest ≠ some 1 ∧ (unbound (s.tile 1).wheel).isEmpty = false ∧
    (s.tile 1).palette.getLsbD 2 = true ∧ fld s.mg.htres 63 1 = 0 ∧ ((h 1).tile 1).kernels = [] ∧ ((h 0).tile 0).kernels ≠ [] ∧
    s.mg.svc.contains 1023 = false ∧ s.mg.rtsvc.contains 1023 = true ∧ (h 1).mg.htest = some 1 := by decide +kernel
/-- A tile with a position that no slot has: with 16 lane slices granted the vector classes cannot be tested, with 12 they can;
and one on which no position is left. -/
theorem test_meets_HealthEvents_able :
    let t (n : Nat) : Tile := { Tile.reset with slots := (List.range 4).map fun k => (k, { Slot.reset with count := n }) }
    (unbound (t 4).wheel).isEmpty = false ∧ ((t 4).slots.map fun x => x.2.count).sum = 16 ∧ ((t 3).slots.map fun x => x.2.count).sum = 12 ∧
    (unbound tile0.wheel).isEmpty = true ∧ (t 4).palette.getLsbD 5 = true ∧ (t 4).palette.getLsbD 25 = true ∧ (t 4).palette.getLsbD 44 = true := by
  decide +kernel
/-- The node of site 1 is stalled once a whole sweep interval without progress is past, and not before. -/
theorem test_meets_HealthEvents_sweep :
    let s (c : Nat) : State := { placed0 .placed true .run with cyc := c }
    fld (s 0).mg.hangcfg 63 1 = 1 ∧ (s 0).sched.launches = [launch0 .placed] ∧
    ((launch0 .placed).nodes.filter fun y => (s (65536 * 16384 + 1)).stalled (launch0 .placed) y.1 y.2) =
      [(0, { Node.fresh with st := .placed })] ∧
    (s (65536 * 16384)).stalled (launch0 .placed) 0 { Node.fresh with st := .placed } = false ∧
    fld ((s 0).msixWord (fld (s 0).mg.hangcfg 61 1) (2 * fld (s 0).mg.hangcfg 48 6 + 1)) 32 1 = 1 ∧
    ({ s 0 with mg := { (s 0).mg with msixTab := [(1, 0)] } } : State).msixWord 0 1 = 0 ∧
    ((s 0).tile 1).kernels.any (·.l == key7) = true := by decide +kernel
theorem test_meets_LinkEvents :
    let s := at0 0
    s.mg.rtsvc.contains 0 = true ∧ s.mg.prst = none ∧ s.partNodes 0 .placed = [] ∧ s.partNodes 0 .saved = [] ∧
    getD 0 s.mg.flits 3 = 0 ∧ getD 0 ({ s with mg := { s.mg with flits := [(3, 2)] } } : State).mg.flits 3 = 2 ∧
    (s.tile 0).sends = [] ∧ (s.tile 0).claims = [] ∧
    bitOf s.mg.portEn (143 / 4) = true ∧ s.mg.portEn = 2 ^ 36 - 1 ∧ bitOf s.mg.portEn 36 = false ∧ s.siteAsp 1023 = 0 := by decide +kernel
def routerLost : State := { State.reset with mg := { State.reset.mg with tables := [0, 1], rtsvc := [1] } }
/-- The tables are to be written anew: a message is held; one is in flight; a partition reset or nothing lost stands in the way. -/
theorem test_meets_LinkEvents_tables :
    let held1 := { routerLost with heldMsgs := [(none, 0, .ack 0 0 4 [])] }
    let flies := { routerLost with wire := [⟨6, none, .ack 0 0 4 []⟩] }
    ((routerLost.mg.tables.filter fun m => !routerLost.mg.rtsvc.contains m) == [0] && routerLost.rewriting && routerLost.wire.isEmpty &&
      !routerLost.mg.rtsvc.contains 0 && held1.rewriting && flies.rewriting && flies.wire.any Flight.inside &&
      !flies.mg.emptying.contains 0) = true ∧
    ({ routerLost with mg := { routerLost.mg with prst := some 0 } } : State).rewriting = false ∧ State.reset.rewriting = false := by decide +kernel
/-- A partition with a placed node, with a node that has no tile, and with neither; its slots have stopped, or have not. -/
theorem test_meets_LinkEvents_partition :
    let s := placed0 .placed true .run
    let w := nodeState .waiting []
    s.mg.prst = none ∧ fld (1 : W64) 0 1 = 1 ∧ fld (1 : W64) 32 4 = 0 ∧ s.partNodes 0 .placed ++ s.partNodes 0 .placing = [(key7, 0)] ∧
    s.tilelessNodes 0 = [] ∧ s.partOf key7 0 = [(1, bound0 true)] ∧ w.partNodes 0 .placed ++ w.partNodes 0 .placing = [] ∧
    w.tilelessNodes 0 = [(key7, 0)] ∧ w.launchOf key7 = some (launch0 .waiting) ∧ w.awaitsHead key7 0 = false ∧
    s.partStopped 0 = false ∧ w.partStopped 0 = true ∧ (nodeState .waiting []).tilelessNodes 1 = [] := by decide +kernel
theorem test_meets_LinkEvents_timeout :
    let c := cmd0 (.qfence 3 [])
    let s := cpyState c
    let d : ECmd := { c with mute := s.mutePorts.1 }
    let v := s.mutePorts.2.setEngQueue 0 2 [d]
    s.engQueue 0 2 = [c] ∧ c.stopped = false ∧ c.iss + 4 ≤ s.cyc ∧ s.engQueue 0 3 = [] ∧ c.ran = false ∧ c.acks = [] ∧
    v.ruckWaits d = false ∧
    (match v.command (v.startCmd d) [] with | (.ok u, _) => u.nextMsg == s.nextMsg | _ => false) = true := by
  simp only []
  refine ⟨by decide, by decide, by decide, by decide, by decide, by decide, rfl, rfl⟩

/-- Address space 0 maps four pages: HBM, marked HBM, and two of host window 0, which is sealed. -/
def mapState : State :=
  { cpyState (cmd0 (.cpy 0x2FF00 0x10000 256)) with
    hbm := [(0x100000, 0x38), (0x100002, 2), (0x100007, 0x80), (0x100008, 0xB8), (0x10000A, 3), (0x10000F, 0x80), (0x100010, 0x38),
            (0x100017, 0xC0), (0x100018, 0x38), (0x10001A, 1), (0x10001F, 0xC0)],
    mg := { State.reset.mg with
            part := [(0, 0x8000000000000000)], ranges := [(0, 1), (1, 4), (2, 0x100000)], apcfg := [(0, 0x8000000000000000)],
            hwin := [(1, 0x9000000000000002)], mkfmt := [(0, 0x8100001000000010)] } }
theorem test_meets_ApertureEvents :
    let s := mapState
    let at' (off : W64) (n pa : Nat) (k : AKind) (marked : Bool) : Bool := match s.apLocate 0 off n k with
      | (.ok [q], u) => q.p == .hbm u.pkg pa && q.marked == marked && !q.sealed && (q.n == n) &&
          (u.opFail (.hbm (pa + q.off)) .add 8 (s.apSpace 0)).isNone
      | _ => false
    at' 0xFFF8 8 0x2FFF8 .read false = true ∧ at' 0x10000 8 0x30000 .read true = true ∧ at' 0x100 8 0x20100 .write false = true ∧
    at' 0x100 8 0x20100 .fetch false = true ∧ hostAtomic 0x100 .add 3 = true ∧ fld (getD 0 s.mg.apcfg 1) 63 1 = 0 ∧
    (match s.apLocate 0 0x20000 8 .write with | (.ok [q], _) => q.sealed | _ => false) = true ∧
    (match s.apLocate 0 0x20000 8 .fetch with | (.ok [q], _) => q.sealed && hostAtomic 0x20000 .add 3 | _ => false) = true ∧
    (match s.apLocate 0 0x10000 8 .fetch with | (.ok [q], _) => q.marked && hostAtomic 0x10000 .add 3 | _ => false) = true := by decide +kernel
/-- A frame of 16 by 16 from the marked page into the sealed window, with its record behind it on the next page. -/
theorem test_meets_ApertureEvents_frame :
    let s := mapState
    let c := cmd0 (.cpy 0x2FF00 0x10000 256)
    (s.engQueue 0 2 == [c] && c.op == .cpy 0x2FF00 0x10000 256 && !c.stopped && !c.ran && c.beats.isEmpty && (s.feeders 0 2).isEmpty && decide (c.iss + 4 ≤ s.cyc) && !c.late &&
      match s.locateAll 0 (s.engineSite 0) c.tr .read (cutRange 0x10000 256) with
      | (.ok ps, u1) => match u1.locateAll 0 (s.engineSite 0) c.tr .write (cutRange 0x2FF00 256) with
        | (.ok [d], u2) => match u2.locateAll 0 (s.engineSite 0) c.tr .write (cutRange (0x2FF00 + BitVec.ofNat 64 256) 256) with
          | (.ok [r], u3) => isFrame ps [d] && r.sealed && d.p == .host 0 0xFF00 && r.p == .host 0 0x10000 && d.n == 256 && r.n == 256 &&
              (u3.markFmt 0).en && (u3.markFmt 0).length == 256 && (u3.slot c.tr.site c.tr.slot).keeps &&
              match u3.readPieces c.tr.asp (ownSlots c.tr) [] ps with
              | .ok (b, _) => !anyBad b && b.length == 256
              | .error _ => false
          | _ => false
        | _ => false
      | _ => false) = true := by decide +kernel

theorem test_meets_PlatformEvents :
    let s := at0 0
    let on := { s with mg := { State.reset.mg with msEn := true } }
    fld (1 : W64) 0 1 = 1 ∧ s.mg.msEn = false ∧ s.mg.msBusy = false ∧ on.mg.msEn = true ∧ on.mg.msBusy = false ∧
    on.mg.bypassed = [] ∧ ({ s with mg := { State.reset.mg with msBusy := true } } : State).mg.msBusy = true ∧
    500 ≤ s.mg.pwrTop ∧ s.mg.pwrStop = false ∧ ({ s with mg := { State.reset.mg with pwrStop := true } } : State).mg.pwrStop = true ∧
    s.mg.tileEn.contains 0 = true ∧ s.mg.vltsvc.contains 0 = true ∧ fld (24 : W64) 0 5 = 24 ∧ fld (25 : W64) 0 5 = 25 ∧
    fld (0x8000000000000000 : W64) 62 2 = 2 ∧ s.mg.ivq = [] ∧ s.ivqPending 0 = false := by decide
theorem test_meets_PlatformEvents_pending :
    let p : HPacket := { pkt0 [elem0 8] with hdst := .virt 5 3 }
    let s := tileIs 0 fun t => { t with unacked := [⟨4, 90, p⟩] }
    s.ivqPending (BitVec.ofNat 64 (3 * 2 ^ 58 + 5)) = true ∧ s.ivqPending (BitVec.ofNat 64 (3 * 2 ^ 58 + 6)) = false := by decide
theorem test_meets_RegisterWrites :
    let s := at0 0
    fld s.mg.pkgnum 12 1 = 0 ∧ s.mg.pwrLock = false ∧ 600 ≤ s.mg.fmax ∧ s.mg.fmax < 4096 ∧ s.mg.lnkLock = false ∧
    fld (getD 0 s.mg.hwin (8 * 1 + 2 * 3 + 1)) 62 1 = 0 ∧ sizeOk 16 = true ∧ sizeOk 8192 = true ∧ sizeOk 8 = false ∧
    fld (s.lane 143) 0 22 = 0 ∧ s.mg.pgLock = false ∧ s.sched.launches.any (·.graph == 0) = false ∧
    graphState.sched.launches.any (·.graph == 255) = false ∧ graphState.sched.trigs.any (fun x => fld x 56 8 == 255) = false ∧
    graphState.sched.trigs.any (fun x => fld x 56 8 == 0) = true ∧ s.mg.mcBusy = false ∧ fld (getD 0 s.mg.msixPba 0) 63 1 = 0 ∧
    fld (getD 0 ({ s with mg := { s.mg with msixPba := [(0, 0x20)] } } : State).mg.msixPba 0) 5 1 = 1 ∧
    ({ s with mg := { s.mg with pgLock := true } } : State).mg.pgLock = true ∧ (s.tile 0).kernels ≠ [] ∧ (s.tile 17).kernels = [] ∧
    600 < fld ({ s with mg := { s.mg with pwrStat := 800 } } : State).mg.pwrStat 0 12 ∧ (nodeState .ready []).sched.launches.any (·.graph == 0) = true ∧
    smEnd / 8 = 0x1F8000 := by decide
theorem test_meets_encodings :
    encode (.nop g0) ≠ none ∧ (Instr.nop g0).guard = some g0 ∧ (Instr.nop g0).wf = true ∧ decode 0x0640010000000028 = .ok (.movi g0 1 40) ∧
    (majorOpcodes.any fun r => decide (r.1 ≤ (0xFFFFFFFFFFFFFFFF : W64).toNat / 2 ^ 54) &&
      decide ((0xFFFFFFFFFFFFFFFF : W64).toNat / 2 ^ 54 ≤ r.2)) = false := by decide
theorem test_meets_invariants :
    State.reset.memOk = true ∧ State.reset.timely = true ∧
    (match step (State.reset.withFetchWord 64 0x0640010000000028) with | .next t => t.memOk && t.timely | _ => false) = true := by decide

/-! ### Ill-formed terms, one for each check -/

def refusedBy (l : List Instr) : Bool := l.all fun i => !i.wf

theorem test_illformed_events : refusedBy [
  .landingCycle 1024 0, .landingCycle 0 8, .handlerAged 0 32, .claimGrant 1024 0, .hamperAgeTrigger 0 16, .monitorReread 0 16,
  .arrivalCounts 1024, .indeterminateDeclaration 1024 0, .heldPacketResend 4096, .xfcmdRetry 64, .xfcmdDecline 64,
  .engineCommandComplete 64 0 [], .markFrame 0 8 [], .fabricPortDown 36, .linkReplay 144, .linkTrained 144 0 0, .lgb 144 0,
  .hostLinkDown 2, .hostLinkRetrain 2, .apertureRead 2 0 1 [], .apertureRead 0 0 0 [], .apertureWrite 2 0 [0] false,
  .apertureWrite 0 0 [] false, .apertureAtomic 2 0 .add 3 0 0 none, .apertureAtomic 0 0 .add 4 0 0 none, .mkfmt 2 0, .vsplit 128 0,
  .hwin 2 0 0 0, .hwin 0 4 0 0, .hwin 0 0 2 0, .registerWrite 2 0 0] = true := by decide
theorem test_illformed_scalar : refusedBy [
  .add g0 1 2 3 .f32 false, .abs g0 1 2 .n32 true, .bfx g0 1 2 0 0, .bfi g0 1 2 0 65, .cmp g0 1 2 3 .f16 .lt, .cmp g0 1 2 3 .i32 .un,
  .cmpImm g0 1 2 .ord true 0, .loop g0 0 4, .widq g0 1 .sbase 1, .widq g0 1 .sbase 7, .ld g0 1 2 3 true 0,
  .latom g0 1 2 3 4 .i32 .add, .latom g0 1 2 3 0 .f16 .fadd, .latom g0 1 2 3 0 .f32 .add] = true := by decide
theorem test_illformed_vector : refusedBy [
  .vld g0 1 2 3 false 0, .vst g0 1 2 3 .slot 0, .vlds g0 1 2 3 .i64 k0, .vadd g0 1 2 3 .i32 k0, .vcvt g0 1 2 .i8 .mx8 0 k0, .vpack g0 1 2 3 .f32 false,
  .vpack g0 1 2 3 .i8 true, .viadd g0 1 2 3 .f32 false k0, .vicmp g0 1 2 3 .f32 .lt k0, .vicmp g0 1 2 3 .i32 .un k0,
  .vbcast g0 1 2 .mx8 k0, .mset g0 1 2 3 true] = true := by decide
theorem test_illformed_units : refusedBy [
  .pld g0 0 1 2 .i8 true 0 qn, .pld g0 0 1 2 .f32 false 0 qn, .pld g0 0 1 2 .f32 true 0 ⟨3, false⟩, .pldv g0 0 1 2 .e4m3 true 0 qn,
  .az g0 0 ⟨3, false⟩, .mma g0 0 1 2 0 7 false false false 0 qn, .mma g0 0 1 2 7 0 false false false 0 qn, .acvt g0 0 1 false 0 qn,
  .twait g0 0 0 true, .twait g0 1 3 false, .rat g0 1 2 .store 3 false, .rat g0 1 3 .cas 3 false, .rat g0 1 2 .fadd 3 false,
  .rat g0 1 2 .smin 3 true, .ratf g0 1 3 2 .cas 3 q0, .hflush g0 1 true qn, .nred g0 1 2 3 .store 3 qn] = true := by decide

/-! ### Worked examples of spec/03 and spec/07: the expected values are the spec's own -/

/-- The MX example after R89: the scale and the elements of 500, 300, -1, 2^-10 and 3 × 2^-10. -/
theorem test_example_mxq :
    mxq .mx8 ([0x43FA0000, 0x43960000, 0xBF800000, 0x3A800000, 0x3B400000].map (decodeF .f32) ++ List.replicate 27 (decodeF .f32 0)) =
      (0x7F, [0x7E, 0x79, 0xB8, 0x00, 0x02] ++ List.replicate 27 0) := by decide +kernel
def exampleBlock : PBlock :=
  toPlane 8 false ([0x3F800000, 0xBF400000, 0x40400000, 0x3C000000, 0x3D400000, 0xBD400000, 0x407FC000] ++ List.replicate 25 0) false
/-- The plane-form example after R93. -/
theorem test_example_toPlane :
    exampleBlock.e = 0x80 ∧ planeWords 8 exampleBlock = [0x40, 0x70, 0x60, 0x62, 0x60, 0x67, 0x66, 0x22] := by decide +kernel
/-- BLOCKDOT after R101, into 1.0 and into 2^24. -/
theorem test_example_blockDot :
    let a : PBlock := ⟨0x7F, [64, 64, -32, 0, 16, 0, 64] ++ List.replicate 25 0, false⟩
    accStep 6 6 0x3F800000 a exampleBlock = 0x406F0000 ∧ accStep 6 6 0x4B800000 a exampleBlock = 0x4B800001 := by decide +kernel
/-- REDTREE and SUMSEQ after R104. -/
theorem test_example_reductions :
    let l := 0x4B800000 :: List.replicate 7 0x3F800000
    redTree (fadd .f32) 8 l = 0x4B800003 ∧ sumSeq l = 0x4B800000 := by decide +kernel
/-- EXP2 of -0.5 after R97's table. -/
theorem test_example_exp2 : fexp2 0xBF000000 = 0x3F3504F3 := by decide +kernel
/-- LATOM after R224: the word that 1 is added to. -/
theorem test_example_latom : performOp .add 2 1 0 0x7FFFFFFF = 0x80000000 := by decide +kernel
/-- The window address after R13. -/
theorem test_example_window : gaddr 0x8005A4E000100000 = .tile (5 * 1024 + 659) 2 0x100000 := by decide

end Sys2Proof.Tests
end

namespace Sys2Proof.Machine

/-! ### A change of one slot -/

theorem State.tile_modSlot_self (s : State) (n k : Nat) (f : Slot → Slot) :
    (s.modSlot n k f).tile n = (s.tile n).modSlot k f := by
  rw [State.tile_modSlot, if_pos rfl]

theorem State.slot_modSlot_self (s : State) (n k : Nat) (f : Slot → Slot) :
    (s.modSlot n k f).slot n k = f (s.slot n k) := by
  simp only [State.slot, State.tile_modSlot_self, Tile.slot_modSlot, if_true]

theorem State.onlySlot_modSlot (s : State) (n k : Nat) (f : Slot → Slot) : s.onlySlot (s.modSlot n k f) n k := by
  refine ⟨⟨rfl, fun m hm => ?_⟩, ?_, fun j hj => ?_⟩
  · rw [State.tile_modSlot, if_neg hm]
  · rw [State.tile_modSlot_self]; rfl
  · simp only [State.slot, State.tile_modSlot_self, Tile.slot_modSlot, if_neg hj]

/-- Where only one slot is changed, no memory is: the SRAM and the plane store of its tile stand beside its slots. -/
theorem State.memSame_of_onlySlot {s t : State} {n k : Nat} (h : s.onlySlot t n k) : s.memSame t := by
  obtain ⟨⟨hs, hne⟩, ht, -⟩ := h
  refine ⟨fun m a => ?_, fun a => ?_⟩
  · by_cases hm : m = n
    · rw [hm, ht]; exact ⟨rfl, rfl⟩
    · rw [hne m hm]; exact ⟨rfl, rfl⟩
  · rw [hs]; exact ⟨rfl, rfl, rfl, rfl, rfl⟩

/-! ### A full queue (R44) -/

theorem State.onlySlot_backed (s : State) : s.onlySlot s.backed s.curSite s.curSlot := s.onlySlot_modSlot _ _ _

theorem State.me_backed (s : State) : s.backed.me = { s.me with state := .backed, hold := 0 } := s.me_modMe _

/-- A word that passes every check and finds no room backs its slot. -/
theorem issue_backs (i : Instr) (g : Guard) (s : State) (chk : State → Option Trap) (room : State → Bool) (eff : State → State)
    (hr : s.ready i g = true) (hc : chk s = none) (hq : room s = false) :
    issue i g s chk room eff = .next s.backed := by
  simp only [State.ready, Bool.and_eq_true, Option.isNone_iff_eq_none, Bool.not_eq_true'] at hr
  obtain ⟨⟨hhead, hguard⟩, hlimit⟩ := hr
  simp [issue, hhead, hguard, hlimit, hc, hq]

/-- The same of a word of the machine, with its own checks and its own queue. -/
theorem exec_backs {i : Instr} {g : Guard} {s : State} (hg : i.guard = some g) (hr : s.ready i g = true)
    (hc : checksOf i s = none) (hq : roomOf i s = false) : exec i s = .next s.backed := by
  obtain ⟨eff, he⟩ := exec_issue i g hg
  rw [he, issue_backs i g s _ _ eff hr hc hq]

/-- The retry of a slot in BACKED puts it in RUN. -/
theorem exec_backedRetry_of_backed {site slot : Nat} {u : State} (h : (u.slot site slot).state = .backed) :
    exec (.backedRetry site slot) u = .next (u.modSlot site slot fun x => { x with state := .run }) := by
  simp only [exec_backedRetry, execBackedRetry, h, beq_self_eq_true, if_true]

/-- Settles O9: the word leaves `State.backed`, a change of the issuing slot alone, and the retry of a slot in BACKED is again a
change of that slot alone. -/
theorem fullQueueBacks : Obligations.FullQueueBacks := by
  intro i g s hg hr hc hq
  obtain ⟨⟨-, htile⟩, hhere, hslot⟩ := s.onlySlot_backed
  refine ⟨s.backed, exec_backs hg hr hc hq, State.memSame_of_onlySlot s.onlySlot_backed, hhere, htile, hslot, s.me_backed,
    fun u hu => ?_⟩
  have hstate : (u.slot s.curSite s.curSlot).state = .backed := by rw [hu, s.me_backed]
  exact ⟨_, exec_backedRetry_of_backed hstate, u.onlySlot_modSlot _ _ _, by rw [State.slot_modSlot_self, hu]⟩

end Sys2Proof.Machine

namespace Sys2Proof.Machine

/-! ### A false predicate (R185) -/

/-- The predicate check of a guard fails where the register reads as the guard's negation bit. -/
theorem State.guardOk_eq_false {s : State} {g : Guard} (h : s.rP g.pred = g.pneg) : s.guardOk g = false := by
  simp [State.guardOk, h]

/-- A word whose predicate is false retires as soon as the head of R481 passes: neither its own checks nor its room nor its
effect comes into it. -/
theorem issue_retires (i : Instr) (g : Guard) (s : State) (chk : State → Option Trap) (room : State → Bool) (eff : State → State)
    (hhead : headTrap i s = none) (hlimit : s.overLimit = false) (hguard : s.guardOk g = false) :
    issue i g s chk room eff = .next ((s.noteIssue i).retire g) := by
  simp [issue, hhead, hlimit, hguard]

/-- The same of a word of the machine, with its own checks, queue and effect. -/
theorem exec_retires {i : Instr} {g : Guard} {s : State} (hg : i.guard = some g) (hhead : headTrap i s = none)
    (hlimit : s.overLimit = false) (hguard : s.guardOk g = false) : exec i s = .next ((s.noteIssue i).retire g) := by
  obtain ⟨eff, he⟩ := exec_issue i g hg
  rw [he, issue_retires i g s _ _ eff hhead hlimit hguard]

/-- Settles O8: a word with a false predicate only notes its issue and retires, which writes nothing. -/
theorem falsePredicateHasNoEffect : Obligations.FalsePredicateHasNoEffect := by
  intro i g s hg hhead hlimit hpred
  exact ⟨_, exec_retires hg hhead hlimit (State.guardOk_eq_false hpred), s.wroteOnly_none i g⟩

end Sys2Proof.Machine

namespace Sys2Proof.Machine

/-! ### A check that fails after a true predicate (R481) -/

/-- The predicate check of a guard passes where the register does not read as the guard's negation bit. -/
theorem State.guardOk_eq_true {s : State} {g : Guard} (h : s.rP g.pred ≠ g.pneg) : s.guardOk g = true := by
  simp [State.guardOk, h]

/-- A word whose predicate is true takes the trap of the first of its own checks that fails. -/
theorem issue_traps (i : Instr) (g : Guard) (s : State) (chk : State → Option Trap) (room : State → Bool) (eff : State → State)
    {t : Trap} (hhead : headTrap i s = none) (hguard : s.guardOk g = true) (hc : chk s = some t) :
    issue i g s chk room eff = .next (s.trapAt (wordOf i) t) := by
  simp [issue, hhead, hguard, hc]

/-- The same of a word of the machine, with its own checks, queue and effect. -/
theorem exec_traps {i : Instr} {g : Guard} {s : State} {t : Trap} (hg : i.guard = some g) (hhead : headTrap i s = none)
    (hguard : s.guardOk g = true) (hc : checksOf i s = some t) : exec i s = .next (s.trapAt (wordOf i) t) := by
  obtain ⟨eff, he⟩ := exec_issue i g hg
  rw [he, issue_traps i g s _ _ eff hhead hguard hc]

/-! ### What the shared operations leave as it was -/

/-- A covering point at which nothing is recorded has its effect (R458). -/
theorem State.coverOr_of_no_faults {s : State} (p : FaultRec → Bool) (eff : State → State) (h : s.me.faults = []) :
    s.coverOr [s.curSlot] p eff = eff s := by
  have h' : (s.slot s.curSite s.curSlot).faults = [] := h
  simp [State.coverOr, h']

/-- Where the tiles alone are changed, and the SRAM and the plane store of none, no memory is. -/
theorem State.memSame_of_tiles {s t : State} (hs : t = { s with tiles := t.tiles })
    (ht : ∀ n, (t.tile n).sram = (s.tile n).sram ∧ (t.tile n).plane = (s.tile n).plane) : s.memSame t := by
  refine ⟨fun n a => ?_, fun a => ?_⟩
  · obtain ⟨hsram, hplane⟩ := ht n
    rw [hsram, hplane]; exact ⟨rfl, rfl⟩
  · rw [hs]; exact ⟨rfl, rfl, rfl, rfl, rfl⟩

/-- The registers of a slot read from its files and its pending effects: its position, its state and its handler do not come
into them. -/
theorem Slot.sameRegs_of_files {x y : Slot}
    (h : y = { x with pc := y.pc, state := y.state, hold := y.hold, lastTr := y.lastTr, hnd := y.hnd, overrun := y.overrun })
    (e : Option PEffect) : x.sameRegs y e := by
  rw [h]
  intro c r k
  exact ⟨fun _ => rfl, fun _ => rfl, fun _ => rfl, fun _ => rfl, fun _ => rfl⟩

theorem State.tile_noteIssue_of_ne (s : State) (i : Instr) {n : Nat} (h : n ≠ s.curSite) : (s.noteIssue i).tile n = s.tile n := by
  rw [State.noteIssue, State.tile_modMe_of_ne _ _ (by exact h), State.noteProgress, State.tile_modTile, if_neg h]

@[simp] theorem State.me_retire (s : State) (g : Guard) :
    (s.retire g).me = { s.me with pc := s.me.pc + 1, state := if g.hold = 0 then .run else .held, hold := g.hold.toNat } := by
  simp only [State.retire, State.retireTo, State.me_modMe, hold_zero]

theorem State.here_retire (s : State) (g : Guard) :
    (s.retire g).here = { s.here with slots := (s.retire g).here.slots } := by
  simp only [State.retire, State.retireTo, State.here_modMe]; rfl

theorem State.tile_retire_of_ne (s : State) (g : Guard) {n : Nat} (h : n ≠ s.curSite) : (s.retire g).tile n = s.tile n :=
  s.tile_modMe_of_ne _ h

/-! ### The end of a handler (R57, R154) -/

/-- The trigger of the kernel's end only adds to the ends that are due. -/
theorem Tile.kernelEnd_frame (t : Tile) (kern : Nat) : t.kernelEnd kern = { t with kends := (t.kernelEnd kern).kends } := by
  unfold Tile.kernelEnd; split <;> rfl

theorem Tile.hsteOf_setHste (t : Tile) (n m : Nat) (x : HState) :
    (t.setHste n x).hsteOf m = if m = n then x else t.hsteOf m := getD_putD _ _ _ _ _

/-- The entry of a handler that has ended: not running, and with tokens pending as young as one that has just become runnable. -/
def HState.ended (e : HState) : HState := { e with running := false, age := if 0 < e.pend then 0 else e.age }

theorem Tile.endHandler_of_running {t : Tile} {slot : Nat} {h : Handler} (hh : (t.slot slot).hnd = some h) :
    t.endHandler slot = (t.setHste h.entry (t.hsteOf h.entry).ended).modSlot slot
      fun x => { x with hnd := none, overrun := false } := by
  simp only [Tile.endHandler, hh, HState.ended]

/-- The end of a handler changes slots and handler entries, and nothing else of its tile. -/
theorem Tile.endHandler_frame (t : Tile) (slot : Nat) :
    t.endHandler slot = { t with slots := (t.endHandler slot).slots, hste := (t.endHandler slot).hste } := by
  unfold Tile.endHandler; split <;> rfl

/-- The slot of a handler that ends holds none, nor a latch with it. -/
theorem Tile.slot_endHandler {t : Tile} {slot : Nat} {h : Handler} (hh : (t.slot slot).hnd = some h) :
    (t.endHandler slot).slot slot = { t.slot slot with hnd := none, overrun := false } := by
  rw [Tile.endHandler_of_running hh, Tile.slot_modSlot, if_pos rfl]; rfl

theorem Tile.hsteOf_endHandler {t : Tile} {slot : Nat} {h : Handler} (hh : (t.slot slot).hnd = some h) :
    (t.endHandler slot).hsteOf h.entry = (t.hsteOf h.entry).ended := by
  rw [Tile.endHandler_of_running hh]
  exact (t.hsteOf_setHste _ _ _).trans (if_pos rfl)

/-! ### HRET (R284) -/

/-- What HRET does once it has issued and no fault is recorded: the handler ends, the kernel's end is considered, and the slot
goes on. -/
def State.handlerReturn (s : State) (g : Guard) : State :=
  (s.modHere fun t => (t.endHandler s.curSlot).kernelEnd s.me.kern).retire g

theorem exec_hret_of_runs {g : Guard} {s : State} (hr : s.runs (.hret g) g = true) (hf : s.me.faults = []) :
    exec (.hret g) s = .next ((s.noteIssue (.hret g)).handlerReturn g) := by
  have hf' : (s.noteIssue (.hret g)).me.faults = [] := by rw [State.me_noteIssue]; exact hf
  have hrun := issue_runs (.hret g) g s (checksOf (.hret g)) (fun _ => true)
    (fun u => u.coverOr [u.curSlot] (fun _ => true) (·.handlerReturn g)) (State.ready_of_runs hr) (State.checks_of_runs hr) rfl
  rw [State.coverOr_of_no_faults _ _ hf'] at hrun
  exact hrun

section
variable {s : State} {g : Guard} {h : Handler}

/-- The slot of HRET: it stands at the next word, with no handler. -/
theorem State.me_handlerReturn (hh : s.me.hnd = some h) :
    (s.handlerReturn g).me = { s.me with pc := s.me.pc + 1, state := if g.hold = 0 then .run else .held, hold := g.hold.toNat,
                                         hnd := none, overrun := false } := by
  have hme : (s.modHere fun t => (t.endHandler s.curSlot).kernelEnd s.me.kern).me =
      { s.me with hnd := none, overrun := false } := by
    rw [State.me_modHere, Tile.kernelEnd_frame]
    exact Tile.slot_endHandler hh
  rw [State.handlerReturn, State.me_retire, hme]

/-- The tile of HRET: slots, handler entries and the kernels that end apart, it is as it was. -/
theorem State.here_handlerReturn (s : State) (g : Guard) :
    (s.handlerReturn g).here = { s.here with slots := (s.handlerReturn g).here.slots, hste := (s.here.endHandler s.curSlot).hste,
                                             kends := (s.handlerReturn g).here.kends } := by
  rw [State.handlerReturn, State.here_retire, State.here_modHere, Tile.kernelEnd_frame, Tile.endHandler_frame]

/-- The entry of the handler that HRET ends. -/
theorem State.hsteOf_handlerReturn (hh : s.me.hnd = some h) :
    (s.handlerReturn g).here.hsteOf h.entry = (s.here.hsteOf h.entry).ended := by
  rw [State.here_handlerReturn]
  exact Tile.hsteOf_endHandler hh

theorem State.tile_handlerReturn_of_ne (s : State) (g : Guard) {n : Nat} (hn : n ≠ s.curSite) :
    (s.handlerReturn g).tile n = s.tile n := by
  rw [State.handlerReturn, State.tile_retire_of_ne _ g (by exact hn), s.tile_modHere_of_ne _ hn]

/-! The same against the state before the note of the issue. -/

theorem State.me_noteIssue_handlerReturn (i : Instr) (hh : s.me.hnd = some h) :
    ((s.noteIssue i).handlerReturn g).me =
      { s.me with pc := s.me.pc + 1, state := if g.hold = 0 then .run else .held, hold := g.hold.toNat, hnd := none,
                  overrun := false, lastTr := (s.noteIssue i).me.lastTr } := by
  rw [State.me_handlerReturn (h := h) (by rw [State.me_noteIssue]; exact hh), State.me_noteIssue]

theorem State.here_noteIssue_handlerReturn (s : State) (i : Instr) (g : Guard) :
    ((s.noteIssue i).handlerReturn g).here =
      { s.here with slots := ((s.noteIssue i).handlerReturn g).here.slots, progress := (s.noteIssue i).here.progress,
                    hste := ((s.noteIssue i).handlerReturn g).here.hste,
                    kends := ((s.noteIssue i).handlerReturn g).here.kends } := by
  rw [State.here_handlerReturn, State.here_noteIssue]

theorem State.hsteOf_noteIssue_handlerReturn (i : Instr) (hh : s.me.hnd = some h) :
    ((s.noteIssue i).handlerReturn g).here.hsteOf h.entry = (s.here.hsteOf h.entry).ended := by
  rw [State.hsteOf_handlerReturn (by rw [State.me_noteIssue]; exact hh), State.here_noteIssue]
  rfl

end

/-- HRET changes no memory. -/
theorem State.memSame_noteIssue_handlerReturn (s : State) (i : Instr) (g : Guard) :
    s.memSame ((s.noteIssue i).handlerReturn g) := by
  refine State.memSame_of_tiles rfl fun n => ?_
  by_cases hn : n = s.curSite
  · subst hn
    have hhere : ((s.noteIssue i).handlerReturn g).tile s.curSite = _ := s.here_noteIssue_handlerReturn i g
    rw [hhere]; exact ⟨rfl, rfl⟩
  · rw [State.tile_handlerReturn_of_ne _ g (by exact hn), s.tile_noteIssue_of_ne i hn]
    exact ⟨rfl, rfl⟩

/-- The word of an instruction is its major opcode, its guard and its body (R178). -/
theorem wordOf_of_body {i : Instr} {op : Nat} {g : Guard} {b : Body} (h : i.body = some (op, g, b)) :
    wordOf i = packWord op g b % 2 ^ 64 := by
  unfold wordOf encode
  rw [h, Option.map_some, Option.map_some, Option.getD_some, BitVec.toNat_ofNat]

theorem wordOf_hret_below_hold (g : Guard) : wordOf (.hret g) % 2 ^ 47 = 0 := by
  rw [wordOf_of_body (i := .hret g) rfl, Nat.mod_mod_of_dvd _ (Nat.pow_dvd_pow 2 (by omega : 47 ≤ 64))]
  simp only [packWord, Body.pack, packX, x0]
  omega

/-- Settles O27: a running handler's HRET is `State.handlerReturn` after the note of its issue; outside a handler the one check
of the word fails. -/
theorem handlerReturns : Obligations.HandlerReturns := by
  intro g s
  refine ⟨wordOf_hret_below_hold g, fun hhead hpred hnone => ?_, fun h hr hh hf => ?_⟩
  · exact exec_traps rfl hhead (State.guardOk_eq_true hpred) (by simp [checksOf, hnone])
  · have hme := State.me_noteIssue_handlerReturn (g := g) (.hret g) hh
    have hmem := s.memSame_noteIssue_handlerReturn (.hret g) g
    have hhere := s.here_noteIssue_handlerReturn (.hret g) g
    have hentry := State.hsteOf_noteIssue_handlerReturn (g := g) (.hret g) hh
    refine ⟨_, exec_hret_of_runs hr hf, ⟨?_, ?_, ?_⟩, Slot.sameRegs_of_files (by rw [hme]) none, hmem, ?_, ?_, ?_⟩
    iterate 5 rw [hme]
    rw [hentry, hhere]
    exact ⟨rfl, rfl, rfl, rfl, rfl, rfl, rfl, rfl, rfl, rfl, rfl, fun hp => if_pos hp⟩

end Sys2Proof.Machine

namespace Sys2Proof.Machine

/-! ### A check before the predicate that fails (R481) -/

/-- A word that fails a check of its encoding, of the use mask or of the palette takes that trap, whatever its predicate reads. -/
theorem issue_traps_of_head (i : Instr) (g : Guard) (s : State) (chk : State → Option Trap) (room : State → Bool)
    (eff : State → State) {t : Trap} (hhead : headTrap i s = some t) :
    issue i g s chk room eff = .next (s.trapAt (wordOf i) t) := by
  simp only [issue, hhead]

/-- The same of a word of the machine, with its own checks, queue and effect. -/
theorem exec_traps_of_head {i : Instr} {g : Guard} {s : State} {t : Trap} (hg : i.guard = some g)
    (hhead : headTrap i s = some t) : exec i s = .next (s.trapAt (wordOf i) t) := by
  obtain ⟨eff, he⟩ := exec_issue i g hg
  rw [he, issue_traps_of_head i g s _ _ eff hhead]

/-! ### Two states between which no word has issued (R483)

What taking a fault writes beside its record is its slot's position, state, hold and trap registers, and the states of the
slots that stop with its node. A store of the record writes SRAM, with its poison, and the older bytes that are kept of it. -/

/-- From x to y only the position, the state, the hold and the trap registers of a slot change, and no hold comes to stand. -/
structure Slot.NoIssue (x y : Slot) : Prop where
  frame : y = { x with state := y.state, hold := y.hold, wakeHold := y.wakeHold, wake := y.wake, resume := y.resume, pc := y.pc,
                       tcause := y.tcause, tepc := y.tepc, tval := y.tval, overrun := y.overrun, lastTr := y.lastTr }
  hold : x.hold = 0 → y.hold = 0

/-- From t to u only the slots of a tile change, none of them by an issue, and what a store to its SRAM writes. -/
structure Tile.NoIssue (t u : Tile) : Prop where
  frame : u = { t with slots := u.slots, sram := u.sram, sramPoison := u.sramPoison, shadow := u.shadow, fetch := u.fetch }
  slot : ∀ k, (t.slot k).NoIssue (u.slot k)

/-- From s to t no tile changes by an issue, and the slot whose position it is stays the same. -/
structure State.NoIssue (s t : State) : Prop where
  curSite : t.curSite = s.curSite
  curSlot : t.curSlot = s.curSlot
  tile : ∀ n, (s.tile n).NoIssue (t.tile n)

theorem Slot.NoIssue.refl (x : Slot) : x.NoIssue x := ⟨rfl, id⟩

theorem Slot.NoIssue.trans {x y z : Slot} (h : x.NoIssue y) (h' : y.NoIssue z) : x.NoIssue z :=
  ⟨h'.frame.trans (by rw [h.frame]), h'.hold ∘ h.hold⟩

/-- A tile whose slots stand, and of which only what a store writes changes. -/
theorem Tile.NoIssue.of_slots {t u : Tile}
    (h : u = { t with sram := u.sram, sramPoison := u.sramPoison, shadow := u.shadow, fetch := u.fetch }) : t.NoIssue u := by
  rw [h]
  exact ⟨rfl, fun _ => .refl _⟩

theorem Tile.NoIssue.refl (t : Tile) : t.NoIssue t := .of_slots rfl

theorem Tile.NoIssue.trans {t u v : Tile} (h : t.NoIssue u) (h' : u.NoIssue v) : t.NoIssue v :=
  ⟨h'.frame.trans (by rw [h.frame]), fun k => (h.slot k).trans (h'.slot k)⟩

/-- A state with the tiles of s, at the position of the same slot. -/
theorem State.NoIssue.of_tiles {s t : State} (hsite : t.curSite = s.curSite) (hslot : t.curSlot = s.curSlot)
    (h : t.tiles = s.tiles) : s.NoIssue t :=
  ⟨hsite, hslot, fun n => by rw [State.tile, State.tile, h]; exact .refl _⟩

theorem State.NoIssue.refl (s : State) : s.NoIssue s := .of_tiles rfl rfl rfl

theorem State.NoIssue.trans {s t u : State} (h : s.NoIssue t) (h' : t.NoIssue u) : s.NoIssue u :=
  ⟨h'.curSite.trans h.curSite, h'.curSlot.trans h.curSlot, fun n => (h.tile n).trans (h'.tile n)⟩

theorem State.NoIssue.me {s t : State} (h : s.NoIssue t) : s.me.NoIssue t.me := by
  rw [State.me, State.me, h.curSite, h.curSlot]
  exact (h.tile _).slot _

theorem State.NoIssue.here {s t : State} (h : s.NoIssue t) : s.here.NoIssue t.here := by
  rw [State.here, State.here, h.curSite]
  exact h.tile _

/-! ### The changes of a trap are no issue -/

theorem Tile.noIssue_modSlot (t : Tile) (k : Nat) {f : Slot → Slot} (hf : (t.slot k).NoIssue (f (t.slot k))) :
    t.NoIssue (t.modSlot k f) := by
  refine ⟨rfl, fun j => ?_⟩
  rw [Tile.slot_modSlot]
  split
  · next hj => rw [hj]; exact hf
  · exact .refl _

theorem State.noIssue_modTile (s : State) (n : Nat) {f : Tile → Tile} (hf : (s.tile n).NoIssue (f (s.tile n))) :
    s.NoIssue (s.modTile n f) := by
  refine ⟨rfl, rfl, fun m => ?_⟩
  rw [State.tile_modTile]
  split
  · next hm => rw [hm]; exact hf
  · exact .refl _

theorem State.noIssue_modSlot (s : State) (n k : Nat) {f : Slot → Slot} (hf : ∀ x : Slot, x.NoIssue (f x)) :
    s.NoIssue (s.modSlot n k f) :=
  s.noIssue_modTile n ((s.tile n).noIssue_modSlot k (hf _))

theorem State.noIssue_changeSram (s : State) (site a : Nat) (b : List Byte) {f : Tile → Tile}
    (hf : (s.tile site).NoIssue (f (s.tile site))) : s.NoIssue (s.changeSram site a b f) :=
  (s.noIssue_modTile site hf).trans (.of_tiles rfl rfl rfl)

/-- A piece of a store writes SRAM and what is kept of its old bytes. -/
theorem State.noIssue_storePiece (s : State) (site slot kern : Nat) (rel ordered : Bool) (p : Nat × List Byte) :
    s.NoIssue (s.storePiece site slot kern rel ordered p) := by
  dsimp only [State.storePiece]
  exact (s.noIssue_modTile site (.of_slots rfl)).trans (State.noIssue_changeSram _ _ _ _ (.of_slots rfl))

theorem State.noIssue_storePieces (s : State) (site slot kern : Nat) (rel ordered : Bool) (l : List (Nat × List Byte)) :
    s.NoIssue (s.storePieces site slot kern rel ordered l) :=
  List.foldlRecOn l _ (motive := s.NoIssue) (s.noIssue_modTile site (.of_slots rfl))
    fun u hu p _ => hu.trans (u.noIssue_storePiece site slot kern rel ordered p)

/-! ### Delivery to the scheduler (R466) -/

theorem Slot.noIssue_stop (x : Slot) : x.NoIssue x.stop := by
  unfold Slot.stop
  split <;> exact ⟨rfl, id⟩

/-- A node that stops on a tile stops slots there. -/
theorem Tile.noIssue_stopNode (t : Tile) (l node : Nat) : t.NoIssue (t.stopNode l node) :=
  List.foldlRecOn _ _ (motive := t.NoIssue) (.refl t) fun u hu k _ => hu.trans <| u.noIssue_modSlot k <| by
    split
    · exact Slot.noIssue_stop _
    · exact .refl _

/-- A store in which each value is changed by f reads as f of what it read, where f keeps the default. -/
theorem getD_map_snd {α : Type} {d : α} {f : α → α} (hd : f d = d) (k : Nat) (l : Sparse α) :
    getD d (l.map fun (n, x) => (n, f x)) k = f (getD d l k) := by
  induction l with
  | nil => exact hd.symm
  | cons c t ih =>
    simp only [List.map_cons, getD]
    split
    · rfl
    · exact ih

theorem State.noIssue_stopNode (s : State) (l node : Nat) : s.NoIssue (s.stopNode l node) := by
  refine ⟨rfl, rfl, fun n => ?_⟩
  have htile : (s.stopNode l node).tile n = (s.tile n).stopNode l node :=
    getD_map_snd (d := Tile.reset) (f := fun t : Tile => t.stopNode l node) rfl n s.tiles
  rw [htile]
  exact Tile.noIssue_stopNode _ l node

theorem State.noIssue_endNode (s : State) (l node : Nat) : s.NoIssue (s.endNode l node) := by
  dsimp only [State.endNode]
  split <;> exact (s.noIssue_stopNode l node).trans (.of_tiles rfl rfl rfl)

theorem State.noIssue_countFault (s : State) (f : FaultRec) (nest : Bool) : s.NoIssue (s.countFault f nest) := by
  dsimp only [State.countFault, State.modNode, State.noteFtile, State.logFault]
  exact .of_tiles rfl rfl rfl

/-- A fault that the scheduler takes stops its slot, and ends its node unless it is of class 3. -/
theorem State.noIssue_schedFault (s : State) (f : FaultRec) (nest : Bool) : s.NoIssue (s.schedFault f nest) := by
  have hstop : s.NoIssue (if (s.slot f.tr.site f.tr.slot).state == .done then s else s.modSlot f.tr.site f.tr.slot fun x =>
      { x with state := .stopped, resume := .run, wake := none, hold := 0 }) := by
    split
    · exact .refl s
    · exact s.noIssue_modSlot _ _ fun _ => ⟨rfl, fun _ => rfl⟩
  have hcount := hstop.trans (State.noIssue_countFault _ f nest)
  dsimp only [State.schedFault]
  split
  · exact hcount
  · exact hcount.trans (State.noIssue_endNode _ _ _)

/-! ### Taking the trap (R461, R464) -/

/-- Whoever takes a fault, its slot or the scheduler, no word issues by it. -/
theorem State.noIssue_takeFaultAt (s : State) (slot : Nat) (f : FaultRec) (tepc : Nat) (covered : List Nat) :
    s.NoIssue (s.takeFaultAt slot f tepc covered) := by
  dsimp only [State.takeFaultAt]
  split
  · refine .trans ?_ (State.noIssue_modSlot _ _ _ fun _ => ⟨rfl, fun _ => rfl⟩)
    exact s.noIssue_storePieces _ _ _ _ _ _
  · refine .trans ?_ (State.noIssue_schedFault _ f _)
    exact s.noIssue_modSlot _ _ fun _ => ⟨rfl, id⟩

/-- A word that traps has not issued. -/
theorem State.noIssue_trapAt (s : State) (w : Nat) (f : Trap) : s.NoIssue (s.trapAt w f) := by
  have hlatch : s.NoIssue (if s.overLimit then s.modMe fun x => { x with overrun := true } else s) := by
    split
    · exact s.noIssue_modSlot _ _ fun _ => ⟨rfl, id⟩
    · exact .refl s
  exact hlatch.trans (State.noIssue_takeFaultAt _ _ _ _ _)

/-- Settles O7: the two kinds of check by the order of `issue`, and what a trap leaves as it was by the frames of the slot and of
the tile at which it is taken. -/
theorem checksTrap : Obligations.ChecksTrap := by
  refine ⟨fun i g s f hg hhead => exec_traps_of_head hg hhead,
    fun i g s f hg hhead hpred hc => exec_traps hg hhead (State.guardOk_eq_true hpred) hc, fun w f s _ hhold => ?_⟩
  have htrap := s.noIssue_trapAt w f
  have hme := htrap.me.frame
  have hhere := htrap.here.frame
  refine ⟨htrap.me.hold hhold, ?_⟩
  rw [hme, hhere]
  exact ⟨rfl, rfl, rfl, rfl, rfl, rfl, rfl, rfl, rfl, rfl, rfl, rfl, rfl, rfl⟩

end Sys2Proof.Machine
